-- ==== Sys2Proof/Word.lean ====
section
/-! DEFINITION. The word types of the VX-64, the operand types of its slots, and the plain records that its
timed events carry. Nothing here computes: helpers that a test could show wrong stand under Machine/. -/

namespace Sys2Proof

/-- A 64-bit scalar register, special register or staging word (R76, R83, R85). -/
abbrev Word := BitVec 64
/-- One 32-bit lane (R119), also an FP32 column of accumulator memory (R196). -/
abbrev W32 := BitVec 32
/-- One byte of any space (R101). -/
abbrev Byte := BitVec 8
/-- One bit for each of the 128 lanes of a core (R76). -/
abbrev LaneMask := BitVec 128
/-- The 128 lanes of one vector register over all eight lane groups, lane l at index l (R119). -/
abbrev Lanes := Vector W32 128
/-- Memory: (address, byte) pairs, addresses strictly rising, no entry equal to what an unlisted address reads as. -/
abbrev Memory := List Host.Cell

/-! ## Operand types of the slots -/

/-- The lend word's predicate and sense (R41): the slot's gate, branch condition or selector. -/
structure Gate where
  p : Fin 32
  neg : Bool
deriving DecidableEq, Repr

/-- A bundle without a header lends p0, sense 0 (R41). -/
def Gate.always : Gate := { p := 0, neg := false }

/-- Scalar conditions in the order of R46. -/
inductive Cond where
  | eq | ne | lt | le | gt | ge | ltn | len
deriving DecidableEq, Repr

/-- Conditions of fcmp (R127). -/
inductive FCond where
  | eq | ne | lt | le | gt | ge | un | or
deriving DecidableEq, Repr

/-- Conditions of icmp (R132); values 6 and 7 are reserved. -/
inductive ICond where
  | eq | ne | lt | le | gt | ge
deriving DecidableEq, Repr

/-- Vector floating-point formats, fmt 00, 01, 10 (R46). -/
inductive FFmt where
  | f32 | bf16 | f16
deriving DecidableEq, Repr

/-- Vector integer formats, fmt 00 i32 and 01 n32 (R46). -/
inductive IFmt where
  | i32 | n32
deriving DecidableEq, Repr

/-- Rounding modes (R107); the encoding order is rn, rz, rp, rm. -/
inductive Rnd where
  | rn | rz | rp | rm
deriving DecidableEq, Repr

/-- Operations of vred with the format each accepts (R134). -/
inductive RedOp where
  | fadd (f : FFmt) | fmax (f : FFmt) | fmin (f : FFmt)
  | iadd (f : IFmt) | imax (f : IFmt) | imin (f : IFmt)
deriving DecidableEq, Repr

/-- Types of a conversion field (R47); codes 0 to 8. -/
inductive CvtTy where
  | f32 | bf16 | f16 | e4m3 | e5m2 | i32 | n32 | int8 | int4
deriving DecidableEq, Repr

/-- Element width of pack and unpack (R138). -/
inductive PackW where
  | h16 | b8 | n4
deriving DecidableEq, Repr

/-- Matrix formats, codes 0 to 6 (R46). -/
inductive MFmt where
  | e4m3 | e5m2 | e4m3e5m2 | bf16 | f16 | i8 | i8i4
deriving DecidableEq, Repr

/-- Group size of a matrix slot: none, 32, 64, 128 elements (R46). -/
inductive GroupSize where
  | none | g32 | g64 | g128
deriving DecidableEq, Repr

/-- Operation of a scatter-accumulate entry (R206, R215). -/
inductive SaOp where
  | add | min | max
deriving DecidableEq, Repr

/-- Element type of a scatter-accumulate entry (R206). -/
inductive SaTy where
  | f32 | i32
deriving DecidableEq, Repr

/-- Selector of aggq (R300). -/
inductive AggSel where
  | budget | status | cost
deriving DecidableEq, Repr

/-- A staging identifier (R46): engine cp 0, sa 1, ln 2, ro 3, ag 4; set; word. -/
structure StgId where
  eng : Fin 8
  set : Fin 4
  word : Fin 8
deriving DecidableEq, Repr

/-! ## Machine data that events carry -/

/-- An address register (R80): OFFSET 31:0, SPACE 34:32, INDEX 44:35; bits above read 0. -/
structure AddrReg where
  offset : BitVec 32
  space : BitVec 3
  index : BitVec 10
deriving DecidableEq, Repr

/-- A run of consecutive bytes at a physical address. -/
structure Run where
  addr : Nat
  bytes : List Byte
deriving DecidableEq, Repr

/-- One register-domain result: what lands and where (R86, R90); register numbers are physical (R67). -/
inductive Res where
  /-- a scalar register -/
  | s (n : Nat) (v : Word)
  /-- the bits `m` of a predicate -/
  | p (n : Nat) (m v : LaneMask)
  /-- the lanes `m` of a vector register -/
  | v (n : Nat) (m : LaneMask) (x : Lanes)
  /-- an address register -/
  | a (n : Nat) (v : AddrReg)
  /-- a handle register -/
  | h (n : Nat) (v : Word)
  /-- the skim bits `m` (R139) -/
  | skim (m v : Word)
deriving DecidableEq, Repr

/-- Fields of a producer tag (R311) are packed as the tag's 16 bits. -/
abbrev Tag := BitVec 16

/-- A register-domain result in flight (R86): its context, its value, the bay and group it was issued in. -/
structure Landing where
  core : Nat
  ctx : Nat
  res : Res
  /-- tag of the landing; for a vector register the lane group's number is put in at landing (R311) -/
  tag : Tag
  /-- serial number of the bay it was issued in (R92) -/
  bay : Nat
  /-- issue order of its group (R87, R90) -/
  seq : Nat
  /-- the frame that data of an ldh comes from: a wait for it blocks the context (R159, R221), and the frame is in use (R242) -/
  frame : Option Nat
deriving DecidableEq, Repr

/-- What is kept of the last store to a gated sector: bundle and SCYC of its group, which a record of the sector names (R331), and
in a frame the key slot and page of the handle it was made through (R248). -/
structure GateNote where
  sector : Nat
  bundle : Nat
  scyc : Word
  key : Option (Nat × Nat)
deriving DecidableEq, Repr

/-- A committed set of gated bytes, due to perform at m + 2 (R148, R250). -/
structure Commit where
  core : Nat
  ctx : Nat
  bytes : List Host.Cell
  notes : List GateNote
deriving DecidableEq, Repr

/-- The fields of an error record (R331); SEQ is given when the record is taken up (R335). -/
structure ErrRecord where
  code : Nat
  sev : Nat
  part : Option Nat
  owner : Option Nat
  /-- physical core, logical core, context -/
  who : Option (Nat × Nat × Nat)
  engine : Nat
  bundle : Nat
  object : Nat
  scyc : Word
  gcyc : Word
  /-- offset, space, widened index -/
  addr : Option (Nat × Nat × Nat)
  aux0 : Word
  aux1 : Word
  seq : Nat
deriving DecidableEq, Repr

/-- Copy-class operations (R209). -/
inductive CopyOp where
  | cp | cpq | tmv | cpfill
deriving DecidableEq, Repr

/-- One copy command with its snapshot and its cycles (R210, R211). -/
structure CopyCmd where
  core : Nat
  ctx : Nat
  op : CopyOp
  /-- destination runs in write order, bytes as snapshot at issue -/
  runs : List Run
  /-- destination sectors that are written poisoned (R154, R211) -/
  marks : List Nat
  /-- the records of severity poisoned that go with them -/
  recs : List ErrRecord
  /-- source sectors read (R168 footprints) as (address, length) -/
  src : List (Nat × Nat)
  /-- key slot and page of the destination's handle (R248) -/
  dkey : Option (Nat × Nat)
  /-- reserved ring and index for cpq (R182) -/
  ring : Option (Nat × Nat)
  ac : Nat
  bay : Nat
  /-- r, d, w terms, and the transfer's length in cycles or owned cycles (R210) -/
  rTerm : Nat
  dTerm : Nat
  wTerm : Nat
  xfer : Nat
  /-- mask of the cycles in which every slot-tabled resource crossed is owned; none for a path without one -/
  mask : Option Word
  bundle : Nat
  /-- its place in issue order (R149) -/
  issue : Nat
  /-- start cycle, while it waits the earliest it may have -/
  start : Nat
  /-- stream end E and release cycle, once started -/
  stream : Nat
  release : Nat
  /-- issued by a chain entry: it holds no queue entry of its own -/
  chained : Bool
deriving DecidableEq, Repr

/-- An open LOOP of a chain (R213): first entry of its body, body length, iteration, count and the two steps. -/
structure ChainLoop where
  first : Nat
  body : Nat
  iter : Nat
  count : Nat
  srcStep : Word
  dstStep : Word
deriving DecidableEq, Repr

/-- A running command chain (R213, R214). -/
structure Chain where
  core : Nat
  ctx : Nat
  base : Nat
  /-- number of the next entry, counted from the base -/
  pos : Nat
  /-- predicates latched at the cpchain's issue -/
  preds : List LaneMask
  /-- open loops, innermost first -/
  loops : List ChainLoop
  processed : Nat
  ac : Nat
  halting : Bool
  /-- bundle and SCYC of the cpchain's group (R331) -/
  bundle : Nat
  scyc : Word
  /-- its place in issue order (R149) -/
  issue : Nat
  /-- earliest cycle of its next entry -/
  next : Nat
  /-- it has taken the engine: paused, it goes on at its own cycles (R228) -/
  begun : Bool
deriving DecidableEq, Repr

/-- One entry on its way into, or in, the scatter-accumulate window (R215). -/
structure SaEntry where
  idx : Nat
  val : W32
  op : SaOp
  ty : SaTy
  /-- physical address of the target array and its length in elements -/
  base : Nat
  tlen : Nat
  ctx : Nat
  /-- place in issue order of the command that brings it (R149), and its group (R331) -/
  issue : Nat
  bundle : Nat
  scyc : Word
deriving DecidableEq, Repr

/-- A scatter-accumulate command in the engine (R207, R215-R218). -/
structure SaCmd where
  core : Nat
  ctx : Nat
  entries : List SaEntry
  /-- saflush retires the window; sawin sets its size -/
  flush : Bool
  win : Option Nat
  ac : Nat
  bundle : Nat
  scyc : Word
  /-- its place in issue order (R149) -/
  issue : Nat
  start : Nat
  stream : Nat
  release : Nat
  dropped : Nat
  firstDropped : Nat
deriving DecidableEq, Repr

/-- A landing of one accumulator row by the array (R192, R193, R317). -/
structure RowLand where
  core : Nat
  ctx : Nat
  bank : Nat
  row : Nat
  /-- mma accumulates, mmaz replaces -/
  acc : Bool
  t : List W32
  /-- finj MODE 1: column and bit flipped after the accumulation -/
  flip : Option (Nat × Nat)
  fmt : Nat
  bay : Nat
deriving DecidableEq, Repr

/-- One column of a drain-to-lanes mma (R192): lane, physical registers and values of the 16 rows. -/
structure DrainLand where
  core : Nat
  ctx : Nat
  lane : Nat
  row : Nat
  reg : Nat
  val : W32
  fmt : Nat
  seq : Nat
  bay : Nat
deriving DecidableEq, Repr

/-- What an accumulator-port slot does at its port cycle (R201). -/
inductive PortKind where
  | rd (dst : Nat) | wr (x : Lanes) | add (x : Lanes) | clr
deriving DecidableEq, Repr

/-- An accumulator-port slot on its way to its bank (R201). -/
structure PortOp where
  core : Nat
  ctx : Nat
  kind : PortKind
  bank : Nat
  row : Nat
  mask : LaneMask
  unit : Nat
  seq : Nat
  bay : Nat
  /-- cycles that a stop of the context adds to the landing of what an accrd samples (R91) -/
  late : Nat
deriving DecidableEq, Repr

/-- A weight slice on its way into the shadow buffer (R189). -/
structure BldLand where
  core : Nat
  ctx : Nat
  ring : Nat
  idx : Nat
  slice : Nat
  bytes : List Byte
  bay : Nat
deriving DecidableEq, Repr

/-- A trowel-board entry (R166). SPACE, LOC and COUNT describe the region in granules. -/
structure TEntry where
  kind : Nat
  state : Nat
  ctx : Nat
  taint : Bool
  swatch : Nat
  space : Nat
  gen : Nat
  loc : Nat
  count : Nat
  /-- tag of the launch whose region it covers: the model's own, since LOC names a logical core of one launch -/
  launch : Nat
deriving DecidableEq, Repr

/-- An empty entry. -/
def TEntry.empty : TEntry :=
  { kind := 0, state := 0, ctx := 0, taint := false, swatch := 0, space := 0, gen := 0, loc := 0, count := 0, launch := 0 }

/-- A trowel on its way from a lender's entry to a target's entry (R172). -/
structure TrowelMove where
  fromCore : Nat
  fromEntry : Nat
  toCore : Nat
  toCtx : Nat
  toEntry : Nat
  /-- the target is the core's copy engine (STATE 4) -/
  toEngine : Bool
  trowel : TEntry
  /-- every command of the lender that writes the region has performed -/
  flushed : Bool
deriving DecidableEq, Repr

/-- A swatch on its way, given up, or revoked (R174, R176). -/
structure SwatchMove where
  part : Nat
  /-- the grantee's core and entry -/
  core : Nat
  entry : Nat
  /-- the trowel shared -/
  trowel : TEntry
deriving DecidableEq, Repr

/-- One link-layer flit (R282). -/
structure Flit where
  port : Nat
  seqNo : Nat
  ack : Nat
  kind : Nat
  nsec : Nat
  credit : Nat
  src : Nat
  dst : Nat
  ch : Nat
  gen : Nat
  route : Nat
  cmd : Nat
  chunk : Nat
  sect : Nat
  age : Nat
  offset : Nat
  flagv : Word
  /-- bytes 40 to 47 -/
  rsvd : Word
  /-- up to three sectors: 64 data bytes and the check word's syndrome -/
  data : List (List Byte × W32)
  crc : W32
  /-- what R282 has no field for: of a put's packets its grant, FLAG, RET, LEN and first offset; of an idle flit that requests a
  replay 2^16 more than the SEQ it is to begin from; of a page that leaves its frame here. Log 50. -/
  desc : Nat
deriving DecidableEq, Repr

/-- A firmware image as the security processor loads it (R346): its bytes, its version, its signatures. -/
structure FwImage where
  bytes : List Byte
  version : Nat
  /-- RSA-3072 and SLH-DSA, over the SHA-384 digest of the bytes -/
  rsa : List Byte
  slh : List Byte
deriving DecidableEq, Repr

/-- Kinds of link command (R270). -/
inductive LinkOp where
  | send | put | recv | allred | agfwd
deriving DecidableEq, Repr

/-- A link command: its snapshot, destination and chunk state (R270-R280). -/
structure LinkCmd where
  core : Nat
  ctx : Nat
  op : LinkOp
  /-- launch of the context that issued it, by its tag -/
  tag : Nat
  ch : Nat
  /-- command sequence number on the channel (R282) -/
  num : Nat
  /-- the source as snapshot, and its runs -/
  bytes : List Byte
  src : List (Nat × Nat)
  len : Nat
  /-- destination physical address, or the ring -/
  dst : Nat
  /-- key slot and page of the destination's handle (R248) -/
  dkey : Option (Nat × Nat)
  ring : Option Nat
  /-- physical address of flag word 0, and the value written -/
  flag : Nat
  flagv : Word
  /-- put only: FLAG index in the receiver's region, grant, offset, RET -/
  putFlag : Nat
  grant : Nat
  offset : Nat
  ret : Bool
  ac : Nat
  bundle : Nat
  scyc : Word
  issue : Nat
  /-- issue cycle c and local completion LC (R272) -/
  since : Nat
  lc : Nat
  armed : Bool
  /-- p2p send: the far end's matching arm has been notified -/
  matched : Bool
  /-- bytes arrived of each chunk -/
  got : List Nat
  /-- chunks whose flag is written or which are otherwise done -/
  flagged : List Nat
  /-- chunks not yet acknowledged (send, put), not yet combined (allred), or shards not yet landed whole (agfwd) -/
  unacked : List Nat
  /-- chunks aborted -/
  aborted : List Nat
  bay : Nat
  /-- syndromes of the snapshot's sectors that fail verification, by their offset in it (R154) -/
  bads : List (Nat × W32)
  /-- bytes of a collective arrived and not yet used: address 2^17 × (phase or origin) + offset (R279, R280) -/
  inbox : Memory
  /-- syndromes of sectors in the inbox, by the same addresses (R154) -/
  inBads : List (Nat × W32)
  /-- chunks of shards that have landed: 16 × origin + chunk (R280) -/
  landed : List Nat
  /-- ring tiles reserved so far (R280) -/
  taken : Nat
  /-- ring tiles that have landed, with their addresses, while the slot is not reserved anew (R281) -/
  tiles : List (Nat × Nat)
deriving DecidableEq, Repr

/-- A contribution to a round of an aggregation group (R293-R297). -/
structure AggWork where
  group : Nat
  round : Nat
  /-- generation of the entry at issue (R290) -/
  gen : Nat
  /-- check word of the entry at issue (R290) -/
  crc : W32
  /-- member index in the entry's list, and the issuing partition on this chip -/
  member : Nat
  part : Nat
  /-- issuing context on this chip; none for a member of another chip -/
  who : Option (Nat × Nat)
  /-- launch and logical core of the issuing context (R299) -/
  launch : Nat
  lcore : Nat
  values : List Int
  nan : Bool
  sat : Bool
  clipped : Bool
  /-- result format and address -/
  rf : Nat
  res : Nat
  /-- key slot and page of the result's handle (R248) -/
  rkey : Option (Nat × Nat)
  bundle : Nat
  scyc : Word
  /-- its place in issue order, by which the issuing context knows it -/
  issue : Nat
  /-- trowels in the engine's custody, and those that lent it a swatch, as their entries showed them (R179) -/
  resEntries : List TEntry
  srcEntries : List TEntry
  /-- results written and shares returned: the flag word is still to come -/
  released : Bool
deriving DecidableEq, Repr

/-- A 64-byte command-queue entry as its eight words (R325), with the queue it stood in. -/
structure Cmd where
  part : Nat
  queue : Nat
  words : List Word
  /-- it has begun in an earlier slot of the executive and goes on in this one (R323) -/
  begun : Bool
  /-- what a command that goes on keeps: the gcyc R of a switch, 0 once it is handed over (R326); of a copy of host DMA 0 until
  its bytes have moved, then 1, or 2 more than the sector that failed verification -/
  mark : Nat
deriving DecidableEq, Repr

/-! ## The parsed kernel image (R33) -/

/-- A region of an image (R30, R165): its space, granules, first holder and initial data. -/
structure ImgRegion where
  name : String
  space : Nat
  granules : Nat
  readonly : Bool
  lcore : Nat
  ctx : Nat
  /-- first granule in the store it is placed in (virtual page for GDDR) -/
  first : Nat
  data : List Byte
deriving DecidableEq, Repr

/-- A channel declaration (R268). -/
structure ChanDecl where
  ch : Nat
  kind : LinkOp
  lcore : Nat
  peerChip : Nat
  peerLcore : Nat
  grant : Nat
  depth : Nat
  shape : Nat
  /-- element bytes and element format: 0 raw, 1 f32, 2 bf16, 3 f16, 4 i32 -/
  fmt : Nat
  /-- flags= region: physical offset in the local core's unit scratchpad and bytes -/
  flags : Option (Nat × Nat)
  /-- members in ring order as (chip, lcore) -/
  order : List (Nat × Nat)
  op : SaOp
  dom : Option Nat
deriving DecidableEq, Repr

/-- A .grant directive of an image (R265): the region is one of the image's own, by its index, or a name of the peer's image. -/
structure ImgGrant where
  name : String
  chip : Nat
  region : Nat ⊕ String
  rw : Bool
deriving DecidableEq, Repr

/-- A grant entry (R266). -/
structure Grant where
  valid : Bool
  rw : Bool
  side : Bool
  chip : Nat
  ppart : Nat
  key : Nat
  gen : Nat
  space : Nat
  loc : Nat
  count : Nat
  /-- number of the matching entry in the peer's table, which the matching gives (R265) -/
  peer : Nat
deriving DecidableEq, Repr

/-- One instruction stream of an image (R33): logical core, context, mode and bundles' bytes. -/
structure ImgStream where
  lcore : Nat
  ctx : Nat
  free : Bool
  code : List Byte
deriving DecidableEq, Repr

/-- A kernel image (R33), as its sections name it; the manual gives no byte layout of it. -/
structure Image where
  /-- the kernel's name of the header -/
  kernel : String
  cores : Nat
  /-- topology classes: 0 cluster, 1 die, with their logical cores -/
  topology : List (Nat × List Nat)
  usem : Word
  slack : Nat
  ilkpad : Nat
  slotneed : List (Nat × Word)
  streams : List ImgStream
  regions : List ImgRegion
  /-- ring number, region index, tiles, logical core -/
  rings : List (Nat × Nat × Nat × Nat)
  channels : List ChanDecl
  grants : List ImgGrant
  groups : List Nat
deriving DecidableEq, Repr

end Sys2Proof
end

