-- ==== Sys2Proof/Config.lean ====
section
/-! DEFINITION. Constants of the part, and the free values: what the spec leaves to the machine or puts out of every
program's reach. A free value has no body, so no proof can see it; the machine applies it to a counter in State or
to what it depends on. -/

namespace Sys2Proof.Config

/-- Draw n of a core's mask generator (R302): no program sets or reads its state. Log 6. -/
opaque maskBits : Nat → W32
/-- Bit n of the stipple stream (R298): no party can read the key or the stream. Log 6. -/
opaque noiseBit : Nat → Bool
/-- Whether fetched group n is tagged by the sampling generator when PERIOD is set (R345). Log 6. -/
opaque sampleTag : Nat → Nat → Bool
/-- Cycles from fetch to decode of fetched group n (R345), which no rule gives. Log 6. -/
opaque decodeCycles : Nat → Nat
/-- The quote's two signatures over the digest of its parts (R348); no interface reads the keys (R349). Log 10. -/
opaque quoteSignatures : BitVec 384 → List Byte
/-- Whether an RSA-3072 or SLH-DSA signature verifies over a digest against the public key fused at manufacture (R346). Log 10. -/
opaque rsaVerifies : BitVec 384 → List Byte → Bool
opaque slhVerifies : BitVec 384 → List Byte → Bool
/-- The fused minimum version of a kind of firmware image (R346). Log 10. -/
opaque fusedMinimum : Nat → Nat
/-- The nonce and the options that a quote asked for through the management interface brings (R352). Log 10. -/
opaque askedNonce : Nat → List Byte
opaque askedOptions : Nat → Nat
/-- Firmware cycles after f, 0 to 64 core cycles, at which a core's capm mirror changes (R310); bounded where it is used. Log 11. -/
opaque mirrorDelay : Nat → Nat
/-- The cycles between a round's close and its release at a member (R306). Log 11. -/
opaque releaseDelay : Nat → Nat
/-- The cycles an allred or agfwd chunk, an acknowledgement or a refusal spends on the links (R252). Log 11. -/
opaque linkDelay : Nat → Nat
/-- The ROUTE index a port gives a flit for a chip (R284), modulo 512: no rule says which. Log 11. -/
opaque routeIndex : Nat → Nat
/-- Whether a mobile page migrates when it may (R245). Log 11. -/
opaque migrates : Nat → Bool
/-- Results, inclusion and audit of the members and homes of other chips (R294, R297, R298). Log 11. -/
opaque farResult : Nat → Int
opaque farIncluded : Nat → Bool
opaque farAudit : Nat → Bool
/-- Which of the clusters with room gives a frame its place (R244): an entry of the controllers' table that no rule fills. Log 11. -/
opaque frameHome : Nat → Nat
/-- Order in which the hub takes two decisions of one moment (R294): true takes the members in list order. Log 11. -/
opaque hubOrder : Nat → Bool
/-- The binding the command processor prefers among those that serve (R310). Log 11. -/
opaque bindOrder : Nat → Nat
/-- Whether the far ends of a launch have grants and channels that match (R265, R268): what a peer chip holds. Log 11. -/
opaque peerAgrees : Nat → Bool
/-- What the peer's image says of a grant that this chip uses, by draw and entry (R265, R266): partition, entry number, SPACE, LOC,
COUNT; each cut to its field. Log 11. -/
opaque peerGrant : Nat → Nat → Nat × Nat × Nat × Nat × Nat
/-- Cycles that a quote and a revocation broadcast take (R241, R325). Log 11. -/
opaque quoteDelay : Nat → Nat
opaque revokeDelay : Nat → Nat
/-- The frame that the far chip sets aside for a page that moves there (R245). Log 11. -/
opaque farFrame : Nat → Nat
/-- What a remote chip has made of a page that lives there: byte i, and syndrome of sector i, by draw (R244, R245). Log 44. -/
opaque farByte : Nat → Nat → Byte
opaque farSyndrome : Nat → Nat → W32
/-- Whose grant of another chip's pages a settled page of that chip came under, and which page of it (R247). Log 55. -/
opaque guestGrant : Nat → Nat
opaque guestPage : Nat → Nat
/-- Which of the free places of a partition a save image takes (R224). Log 21. -/
opaque savePlace : Nat → Nat
/-- Where the command processor assigns a trowel that is at home: physical core, context and entry (R174, R180). Log 30. -/
opaque assignTo : Nat → Option (Nat × Nat × Nat)
/-- Temperatures and rail telemetry as the management controller reads them (R352). Log 11. -/
opaque telemetry : Nat → Word
/-- A byte decrypted under a key or tweak that is not its sector's, by cycle and address (R248). Log 49. -/
opaque garbled : Nat → Nat → Byte

/-- Bundles of an instruction store (R38). -/
def bundles : Nat := 16384
/-- Slot positions a group may span (R39). -/
def groupSpan : Nat := 16
/-- Gate buffer entries (R150). -/
def gateEntries : Nat := 256
/-- Row journal entries (R204). -/
def journalRows : Nat := 64
/-- Enqueue buffer entries of a context (R216). -/
def enqueueEntries : Nat := 1024
/-- Copy and scatter-accumulate command queues, link queue (R207, R271). -/
def copyQueue : Nat := 8
def saQueue : Nat := 4
def linkQueue : Nat := 8
/-- Trowel table records of a partition (R165). -/
def trowelRecords : Nat := 4096
/-- Latency of a trowel or swatch transfer (R171): same cluster, same die, another die. -/
def lendNear : Nat := 16
def lendDie : Nat := 32
def lendFar : Nat := 64
/-- Times on the reference timer, in µs: 64 µs of a chunk (R278), 128 µs of a reuse hold (R269, R290), the 1 ms within which
moves settle a frame and the 100 ms it stays (R247), the second of a round (R293), the 100 µs of a clock step (R350). -/
def chunkTime : Nat := 64
def reuseTime : Nat := 128
def moveTime : Nat := 1000
def settleTime : Nat := 100000
def roundTime : Nat := 1000000
def stepTime : Nat := 100
/-- Units of the reference timer to a µs: the least that every clock step's period is a whole number of. -/
def tick : Nat := 9302400
/-- Frames of 2 MiB that the 11.25 GB of a cluster's devices hold (R3, R15). -/
def clusterFrames : Nat := 5760
/-- A frame of 2,048 firmware cycles at 400 MHz, as arithmetic cycles of 800 MHz (R323). -/
def frame : Nat := 4096

end Sys2Proof.Config
end

