-- ==== Sys2Proof/Syntax.lean ====
section
/-! DEFINITION. The instruction type of the VX-64: one constructor per row of the spec's table of operations and
events. A slot instruction carries its lend word's predicate and sense, its lane-group mask where its class takes
one, and its immediates whole, the lend word's X bits joined to the slot's own field (R42). An event carries the
part of the machine it acts for, or what lands. -/

namespace Sys2Proof

inductive Instr where
  /- Scalar class (CLS 0001) -/
  /-- NOP: R99 Scalar no-operation; counts toward no class limit but occupies a slot position. -/
  | nop (g : Gate)
  /-- ADD: R93 Scalar add, 64-bit or 32-bit with .w. -/
  | add (g : Gate) (d a b : Fin 64) (w : Bool)
  /-- SUB: R93 Scalar subtract. -/
  | sub (g : Gate) (d a b : Fin 64) (w : Bool)
  /-- MUL: R93 Scalar multiply, low half of the product. -/
  | mul (g : Gate) (d a b : Fin 64) (w : Bool)
  /-- MULH: R93 Scalar signed multiply, high half of the product. -/
  | mulh (g : Gate) (d a b : Fin 64) (w : Bool)
  /-- MULHN: R93 Scalar unsigned multiply, high half of the product. -/
  | mulhn (g : Gate) (d a b : Fin 64) (w : Bool)
  /-- DIV: R94 Scalar signed division truncated toward zero, with no fault. -/
  | div (g : Gate) (d a b : Fin 64) (w : Bool)
  /-- DIVN: R94 Scalar unsigned division. -/
  | divn (g : Gate) (d a b : Fin 64) (w : Bool)
  /-- REM: R94 Scalar signed remainder. -/
  | rem (g : Gate) (d a b : Fin 64) (w : Bool)
  /-- REMN: R94 Scalar unsigned remainder. -/
  | remn (g : Gate) (d a b : Fin 64) (w : Bool)
  /-- AND: R93 Scalar bitwise AND. -/
  | and (g : Gate) (d a b : Fin 64) (w : Bool)
  /-- OR: R93 Scalar bitwise OR. -/
  | or (g : Gate) (d a b : Fin 64) (w : Bool)
  /-- XOR: R93 Scalar bitwise XOR. -/
  | xor (g : Gate) (d a b : Fin 64) (w : Bool)
  /-- ANDN: R93 Scalar A AND NOT B. -/
  | andn (g : Gate) (d a b : Fin 64) (w : Bool)
  /-- SHL: R93 Scalar shift left by a register count. -/
  | shl (g : Gate) (d a b : Fin 64) (w : Bool)
  /-- SHR: R93 Scalar logical shift right. -/
  | shr (g : Gate) (d a b : Fin 64) (w : Bool)
  /-- SAR: R93 Scalar arithmetic shift right. -/
  | sar (g : Gate) (d a b : Fin 64) (w : Bool)
  /-- ROTL: R93 Scalar rotate left. -/
  | rotl (g : Gate) (d a b : Fin 64) (w : Bool)
  /-- MIN: R93 Scalar signed minimum. -/
  | min (g : Gate) (d a b : Fin 64) (w : Bool)
  /-- MAX: R93 Scalar signed maximum. -/
  | max (g : Gate) (d a b : Fin 64) (w : Bool)
  /-- MINN: R93 Scalar unsigned minimum. -/
  | minn (g : Gate) (d a b : Fin 64) (w : Bool)
  /-- MAXN: R93 Scalar unsigned maximum. -/
  | maxn (g : Gate) (d a b : Fin 64) (w : Bool)
  /-- CLZ: R93 Count of leading zero bits. -/
  | clz (g : Gate) (d a : Fin 64) (w : Bool)
  /-- POPC: R93 Count of one bits. -/
  | popc (g : Gate) (d a : Fin 64) (w : Bool)
  /-- CMP: R95 64-bit compare that writes the outcome into all 128 lanes of a predicate. -/
  | cmp (g : Gate) (p : Fin 32) (a b : Fin 64) (c : Cond)
  /-- SEL: R96 Scalar select by the lend-word predicate; never squashed. -/
  | sel (g : Gate) (d a b : Fin 64)
  /-- MOV: R93 Scalar register copy. -/
  | mov (g : Gate) (d a : Fin 64) (w : Bool)
  /-- ADDI: R97 Add a signed immediate. -/
  | addi (g : Gate) (d a : Fin 64) (i : BitVec 12)
  /-- ANDI: R97 AND with a zero-extended immediate. -/
  | andi (g : Gate) (d a : Fin 64) (i : BitVec 12)
  /-- ORI: R97 OR with a zero-extended immediate. -/
  | ori (g : Gate) (d a : Fin 64) (i : BitVec 12)
  /-- XORI: R97 XOR with a zero-extended immediate. -/
  | xori (g : Gate) (d a : Fin 64) (i : BitVec 12)
  /-- SHLI: R97 Shift left by an immediate. -/
  | shli (g : Gate) (d a : Fin 64) (i : BitVec 12)
  /-- SHRI: R97 Logical shift right by an immediate. -/
  | shri (g : Gate) (d a : Fin 64) (i : BitVec 12)
  /-- SARI: R97 Arithmetic shift right by an immediate. -/
  | sari (g : Gate) (d a : Fin 64) (i : BitVec 12)
  /-- CMPI: R95 Compare with a signed immediate into a predicate. -/
  | cmpi (g : Gate) (p : Fin 32) (a : Fin 64) (i : BitVec 9) (c : Cond)
  /-- MOVI: R98 Load a sign-extended 18-bit immediate. -/
  | movi (g : Gate) (d : Fin 64) (i : BitVec 18)
  /-- MOVHI: R98 Replace one half-word of a scalar register. -/
  | movhi (g : Gate) (d : Fin 64) (i : BitVec 18)
  /-- RDS: R84 Read a special register into a scalar register. -/
  | rds (g : Gate) (d : Fin 64) (r : BitVec 12)
  /-- WRS: R84 Write a special register, with a permission check at issue. -/
  | wrs (g : Gate) (a : Fin 64) (r : BitVec 12)
  /-- STGW: R85 Write a staging word. -/
  | stgw (g : Gate) (a : Fin 64) (e : StgId)
  /-- STGR: R85 Read a staging word. -/
  | stgr (g : Gate) (d : Fin 64) (e : StgId)
  /-- GMSET_REG: R79 Set a group mask from a scalar register. -/
  | gmsetReg (g : Gate) (d : Fin 8) (a : Fin 64)
  /-- GMSET_IMM: R79 Set a group mask from an 8-bit immediate. -/
  | gmsetImm (g : Gate) (d : Fin 8) (i : BitVec 8)
  /-- AMK_LOCATION: R81 Make an address register from a space and an encoded location. -/
  | amkLocation (g : Gate) (d : Fin 16) (sp : Fin 8) (l : BitVec 13)
  /-- AMK_REGISTER: R81 Make an address register from a space, an offset register and an index register. -/
  | amkRegister (g : Gate) (d : Fin 16) (sp : Fin 8) (a b : Fin 64)
  /-- AADD_IMM: R82 Step an address register by a signed immediate. -/
  | aaddImm (g : Gate) (d a : Fin 16) (i : BitVec 15)
  /-- AADD_REG: R82 Step an address register by a scalar register. -/
  | aaddReg (g : Gate) (d a : Fin 16) (b : Fin 64)
  /- Vector class (CLS 0010) -/
  /-- FADD: R124 Vector floating-point add. -/
  | fadd (g : Gate) (m : Fin 8) (f : FFmt) (d a b : Fin 32) (r : Rnd)
  /-- FSUB: R124 Vector floating-point subtract. -/
  | fsub (g : Gate) (m : Fin 8) (f : FFmt) (d a b : Fin 32) (r : Rnd)
  /-- FMUL: R124 Vector floating-point multiply. -/
  | fmul (g : Gate) (m : Fin 8) (f : FFmt) (d a b : Fin 32) (r : Rnd)
  /-- FMA: R124 Vector fused multiply-add into vd. -/
  | fma (g : Gate) (m : Fin 8) (f : FFmt) (d a b : Fin 32) (r : Rnd)
  /-- FMS: R124 Vector fused multiply-subtract. -/
  | fms (g : Gate) (m : Fin 8) (f : FFmt) (d a b : Fin 32) (r : Rnd)
  /-- FNMA: R124 Vector fused negative multiply-add. -/
  | fnma (g : Gate) (m : Fin 8) (f : FFmt) (d a b : Fin 32) (r : Rnd)
  /-- FMIN: R125 Vector floating-point minimum. -/
  | fmin (g : Gate) (m : Fin 8) (f : FFmt) (d a b : Fin 32)
  /-- FMAX: R125 Vector floating-point maximum. -/
  | fmax (g : Gate) (m : Fin 8) (f : FFmt) (d a b : Fin 32)
  /-- FNEG: R126 Invert the sign bit of each lane. -/
  | fneg (g : Gate) (m : Fin 8) (f : FFmt) (d a : Fin 32)
  /-- FABS: R126 Clear the sign bit of each lane. -/
  | fabs (g : Gate) (m : Fin 8) (f : FFmt) (d a : Fin 32)
  /-- FCMP: R127 Vector floating-point compare into predicate bits. -/
  | fcmp (g : Gate) (m : Fin 8) (f : FFmt) (p a b : Fin 32) (c : FCond)
  /-- FCLASS: R128 Classify lanes into predicate bits by a class mask. -/
  | fclass (g : Gate) (m : Fin 8) (f : FFmt) (p a : Fin 32) (k : BitVec 5)
  /-- IADD: R129 Vector integer add, optionally saturating. -/
  | iadd (g : Gate) (m : Fin 8) (f : IFmt) (d a b : Fin 32) (sat : Bool)
  /-- ISUB: R129 Vector integer subtract, optionally saturating. -/
  | isub (g : Gate) (m : Fin 8) (f : IFmt) (d a b : Fin 32) (sat : Bool)
  /-- IMUL: R130 Vector integer multiply, low 32 bits. -/
  | imul (g : Gate) (m : Fin 8) (f : IFmt) (d a b : Fin 32)
  /-- IMULH: R130 Vector integer multiply, high 32 bits. -/
  | imulh (g : Gate) (m : Fin 8) (f : IFmt) (d a b : Fin 32)
  /-- IAND: R130 Vector bitwise AND. -/
  | iand (g : Gate) (m : Fin 8) (f : IFmt) (d a b : Fin 32)
  /-- IOR: R130 Vector bitwise OR. -/
  | ior (g : Gate) (m : Fin 8) (f : IFmt) (d a b : Fin 32)
  /-- IXOR: R130 Vector bitwise XOR. -/
  | ixor (g : Gate) (m : Fin 8) (f : IFmt) (d a b : Fin 32)
  /-- IANDN: R130 Vector va AND NOT vb. -/
  | iandn (g : Gate) (m : Fin 8) (f : IFmt) (d a b : Fin 32)
  /-- ISHL: R131 Vector shift left by a register count. -/
  | ishl (g : Gate) (m : Fin 8) (f : IFmt) (d a b : Fin 32)
  /-- ISHL_IMM: R131 Vector shift left by an imm5 count. -/
  | ishlImm (g : Gate) (m : Fin 8) (f : IFmt) (d a : Fin 32) (i : BitVec 5)
  /-- ISHR: R131 Vector logical shift right by a register count. -/
  | ishr (g : Gate) (m : Fin 8) (f : IFmt) (d a b : Fin 32)
  /-- ISHR_IMM: R131 Vector logical shift right by an imm5 count. -/
  | ishrImm (g : Gate) (m : Fin 8) (f : IFmt) (d a : Fin 32) (i : BitVec 5)
  /-- ISAR: R131 Vector arithmetic shift right by a register count. -/
  | isar (g : Gate) (m : Fin 8) (f : IFmt) (d a b : Fin 32)
  /-- ISAR_IMM: R131 Vector arithmetic shift right by an imm5 count. -/
  | isarImm (g : Gate) (m : Fin 8) (f : IFmt) (d a : Fin 32) (i : BitVec 5)
  /-- IMIN: R132 Vector integer minimum. -/
  | imin (g : Gate) (m : Fin 8) (f : IFmt) (d a b : Fin 32)
  /-- IMAX: R132 Vector integer maximum. -/
  | imax (g : Gate) (m : Fin 8) (f : IFmt) (d a b : Fin 32)
  /-- ICMP: R132 Vector integer compare into predicate bits. -/
  | icmp (g : Gate) (m : Fin 8) (f : IFmt) (p a b : Fin 32) (c : ICond)
  /-- VMOV: R133 Vector register copy. -/
  | vmov (g : Gate) (m : Fin 8) (d a : Fin 32)
  /-- VSEL: R133 Lane-wise select by the lend-word predicate. -/
  | vsel (g : Gate) (m : Fin 8) (d a b : Fin 32)
  /-- VBCAST: R133 Broadcast one half of a scalar register to every active lane. -/
  | vbcast (g : Gate) (m : Fin 8) (d : Fin 32) (a : Fin 64) (hi : Bool)
  /-- VLANE: R133 Broadcast lane k of each lane group. -/
  | vlane (g : Gate) (m : Fin 8) (d a : Fin 32) (k : Fin 16)
  /-- VIDX: R133 Write each lane's index. -/
  | vidx (g : Gate) (m : Fin 8) (d : Fin 32)
  /-- VPERM: R133 Permute lanes within each lane group. -/
  | vperm (g : Gate) (m : Fin 8) (d a b : Fin 32)
  /-- VRED: R134 Reduce the 16 lanes of each lane group by a balanced tree. -/
  | vred (g : Gate) (m : Fin 8) (o : RedOp) (d a : Fin 32)
  /-- XG: R135 Copy a register from another lane group. -/
  | xg (g : Gate) (m : Fin 8) (d a : Fin 32) (k : Fin 8)
  /-- CVT: R136 Convert lanes between formats. -/
  | cvt (g : Gate) (m : Fin 8) (dt st : CvtTy) (d a : Fin 32) (sat sr : Bool) (r : Rnd)
  /-- QNT: R137 Quantise f32 lanes to int8 or int4 by a group parameter word. -/
  | qnt (g : Gate) (m : Fin 8) (dt st : CvtTy) (d a : Fin 32) (sat sr : Bool) (r : Rnd)
  /-- DQNT: R137 Dequantise i32 lanes to f32 by a group parameter word. -/
  | dqnt (g : Gate) (m : Fin 8) (dt st : CvtTy) (d a : Fin 32) (sat sr : Bool) (r : Rnd)
  /-- PACK: R138 Insert a narrow element at position k of each lane. -/
  | pack (g : Gate) (m : Fin 8) (w : PackW) (d a : Fin 32) (k : Fin 8)
  /-- UNPACK: R138 Extract a narrow element from position k of each lane. -/
  | unpack (g : Gate) (m : Fin 8) (w : PackW) (d a : Fin 32) (k : Fin 8) (sx : Bool)
  /-- VSKIM: R139 Write the skim vector from a predicate. -/
  | vskim (g : Gate) (m : Fin 8) (p : Fin 32)
  /-- VBERN: R303 Draw Bernoulli predicate bits from the mask generator. -/
  | vbern (g : Gate) (m : Fin 8) (p : Fin 32) (a : Fin 64)
  /-- VRAND: R303 Draw 32 random bits per active lane. -/
  | vrand (g : Gate) (m : Fin 8) (d : Fin 32)
  /-- VIMM: R133 Write a 14-bit immediate to every active lane. -/
  | vimm (g : Gate) (m : Fin 8) (hi : Bool) (d : Fin 32) (i : BitVec 14)
  /- Special-function class (CLS 0011) -/
  /-- FRCP: R141 Special-function reciprocal. -/
  | frcp (g : Gate) (m : Fin 8) (f : FFmt) (d a : Fin 32)
  /-- FDIV: R141 Special-function divide. -/
  | fdiv (g : Gate) (m : Fin 8) (f : FFmt) (d a b : Fin 32)
  /-- FSQRT: R141 Special-function square root. -/
  | fsqrt (g : Gate) (m : Fin 8) (f : FFmt) (d a : Fin 32)
  /-- FRSQRT: R141 Special-function reciprocal square root. -/
  | frsqrt (g : Gate) (m : Fin 8) (f : FFmt) (d a : Fin 32)
  /-- FEXP2: R141 Special-function base-2 exponential. -/
  | fexp2 (g : Gate) (m : Fin 8) (f : FFmt) (d a : Fin 32)
  /-- FLOG2: R141 Special-function base-2 logarithm. -/
  | flog2 (g : Gate) (m : Fin 8) (f : FFmt) (d a : Fin 32)
  /- Memory class (CLS 0100) -/
  /-- LDS: R156 Scalar 8-byte load from unit scratchpad or spill memory. -/
  | lds (g : Gate) (d : Fin 64) (n : Fin 16) (o : BitVec 12) (ac : Fin 8)
  /-- STS: R156 Scalar 8-byte gated store. -/
  | sts (g : Gate) (d : Fin 64) (n : Fin 16) (o : BitVec 12) (ac : Fin 8)
  /-- LDV: R156 Vector load of 64 bytes per selected lane group. -/
  | ldv (g : Gate) (m : Fin 8) (d : Fin 32) (n : Fin 16) (o : BitVec 9) (ac : Fin 8)
  /-- STV: R156 Vector gated store. -/
  | stv (g : Gate) (m : Fin 8) (d : Fin 32) (n : Fin 16) (o : BitVec 9) (ac : Fin 8)
  /-- LDVQ: R156 Load four vector registers. -/
  | ldvq (g : Gate) (m : Fin 8) (d : Fin 32) (n : Fin 16) (o : BitVec 9) (ac : Fin 8)
  /-- STVQ: R156 Store four vector registers. -/
  | stvq (g : Gate) (m : Fin 8) (d : Fin 32) (n : Fin 16) (o : BitVec 9) (ac : Fin 8)
  /-- LDSP: R157 Load a spill slot into a scalar register. -/
  | ldsp (g : Gate) (d : Fin 64) (l : BitVec 11)
  /-- STSP: R157 Store a scalar register into a spill slot. -/
  | stsp (g : Gate) (d : Fin 64) (l : BitVec 11)
  /-- LDVSP: R157 Load a vector register from spill slots. -/
  | ldvsp (g : Gate) (m : Fin 8) (d : Fin 32) (l : BitVec 11)
  /-- STVSP: R157 Store a vector register into spill slots. -/
  | stvsp (g : Gate) (m : Fin 8) (d : Fin 32) (l : BitVec 11)
  /-- LDX: R158 Gather 4-byte words from the unit scratchpad. -/
  | ldx (g : Gate) (m : Fin 8) (d : Fin 32) (n : Fin 16) (v : Fin 32) (ac : Fin 8)
  /-- STX: R158 Scatter 4-byte words into the gate buffer. -/
  | stx (g : Gate) (m : Fin 8) (d : Fin 32) (n : Fin 16) (v : Fin 32) (ac : Fin 8)
  /-- LDH: R159 Free-mode 8-byte load from a GDDR frame through a handle. -/
  | ldh (g : Gate) (d : Fin 64) (n : Fin 16) (o : BitVec 12) (ac : Fin 8)
  /-- STH: R159 Free-mode gated 8-byte store to a GDDR frame. -/
  | sth (g : Gate) (d : Fin 64) (n : Fin 16) (o : BitVec 12) (ac : Fin 8)
  /-- XLAT: R238 Translate a virtual page into a handle, never faulting. -/
  | xlat (g : Gate) (h : Fin 32) (a : Fin 64)
  /-- HINV: R160 Invalidate a handle from the next group. -/
  | hinv (g : Gate) (h : Fin 32)
  /-- DRAIN: R161 Withhold issue until every earlier remote write is acknowledged. -/
  | drain (g : Gate)
  /- Branch class (CLS 0101) -/
  /-- BR: R64 Relative branch after two delay groups. -/
  | br (g : Gate) (d : BitVec 25)
  /-- BRR: R65 Branch to the bundle index in a register. -/
  | brr (g : Gate) (a : Fin 64)
  /-- CALL: R64 Relative call that writes lnk. -/
  | call (g : Gate) (d : BitVec 25)
  /-- RET: R65 Return to the bundle in lnk. -/
  | ret (g : Gate)
  /-- LOOP: R66 Start a zero-overhead loop with a register count. -/
  | loop (l : Fin 4) (c : Fin 64) (n : BitVec 11) (rot ilk : Bool)
  /-- LOOPI: R66 Start a zero-overhead loop with an immediate count. -/
  | loopi (l : Fin 4) (c n : BitVec 9) (rot ilk : Bool)
  /-- LBREAK: R69 Leave a loop level after two delay groups. -/
  | lbreak (g : Gate) (l : Fin 4)
  /-- ROLL: R71 Hand the next bundles to the roller for nested replay. -/
  | roll (n : Fin 2) (l : BitVec 9)
  /- Matrix class (CLS 0110) -/
  /-- MMA: R192 Matrix multiply-accumulate of an A tile into an accumulator row quarter. -/
  | mma (g : Gate) (qa qb : Fin 16) (b : Fin 32) (q : Fin 4) (f : MFmt) (ck zp : Bool) (gs : GroupSize)
  /-- MMAZ: R192 Matrix multiply that replaces the accumulator rows. -/
  | mmaz (g : Gate) (qa qb : Fin 16) (b : Fin 32) (q : Fin 4) (f : MFmt) (ck zp : Bool) (gs : GroupSize)
  /-- MMA_DL: R192 Matrix multiply that drains its totals to vector registers. -/
  | mmaDl (g : Gate) (qa qb : Fin 16) (d : Fin 32) (f : MFmt) (zp : Bool) (gs : GroupSize)
  /-- MMAZ_DL: R192 Matrix multiply with drain to lanes, mmaz form. -/
  | mmazDl (g : Gate) (qa qb : Fin 16) (d : Fin 32) (f : MFmt) (zp : Bool) (gs : GroupSize)
  /-- BLD: R189 Pop a ring tile into a shadow weight slice. -/
  | bld (g : Gate) (qb : Fin 16) (l : Fin 8)
  /-- BSWAP: R190 Make the shadow weight buffer live once the array is free. -/
  | bswap (g : Gate)
  /-- QPOP: R185 Advance a ring's head by n. -/
  | qpop (g : Gate) (q : Fin 16) (n : Fin 32)
  /-- QADV: R185 Advance a ring's tail by n to publish program-written tiles. -/
  | qadv (g : Gate) (q : Fin 16) (n : Fin 32)
  /-- QRST: R185 Reset a ring's indices. -/
  | qrst (g : Gate) (q : Fin 16)
  /- Accumulator-port class (CLS 0111) -/
  /-- ACCRD: R201 Read an accumulator row into a vector register. -/
  | accrd (g : Gate) (m : Fin 8) (d : Fin 32) (b : Fin 32) (row : Fin 64)
  /-- ACCWR: R201 Write an accumulator row from a vector register. -/
  | accwr (g : Gate) (m : Fin 8) (d : Fin 32) (b : Fin 32) (row : Fin 64)
  /-- ACCADD: R201 Add a vector register into an accumulator row. -/
  | accadd (g : Gate) (m : Fin 8) (d : Fin 32) (b : Fin 32) (row : Fin 64)
  /-- ACCCLR: R201 Clear an accumulator row. -/
  | accclr (g : Gate) (m : Fin 8) (b : Fin 32) (row : Fin 64)
  /- Copy class (CLS 1000) -/
  /-- CP: R211 Queue a strided copy command. -/
  | cp (g : Gate) (n : Fin 4)
  /-- CPQ: R211 Queue a copy into a reserved ring slot. -/
  | cpq (g : Gate) (n : Fin 4) (q : Fin 16)
  /-- TMV: R211 Queue a whole-tile move. -/
  | tmv (g : Gate) (n : Fin 4)
  /-- CPFILL: R211 Queue a pattern fill. -/
  | cpfill (g : Gate) (n : Fin 4)
  /-- CPCHAIN: R213 Queue a chain of copy entries. -/
  | cpchain (g : Gate) (n : Fin 4)
  /-- CPHALT: R214 Stop the core's running chain at its next entry boundary. -/
  | cphalt (g : Gate)
  /- Scatter-accumulate class (CLS 1001) -/
  /-- SAENQ: R216 Enqueue lane entries for scatter-accumulate at the next commit. -/
  | saenq (g : Gate) (m : Fin 8) (i v : Fin 32) (o : SaOp) (t : SaTy)
  /-- SARUN: R216 Queue a scatter-accumulate run over index and value arrays. -/
  | sarun (g : Gate) (n : Fin 2)
  /-- SAFLUSH: R216 Retire every window entry. -/
  | saflush (g : Gate)
  /-- SAWIN: R217 Set the scatter-accumulate window size. -/
  | sawin (g : Gate) (n : Fin 128)
  /- Link class (CLS 1010) -/
  /-- SEND: R274 Send bytes on a point-to-point channel against a matched arm. -/
  | send (g : Gate) (c : Fin 256) (n : Fin 4)
  /-- PUT: R275 Write bytes into a granted remote region without an arm. -/
  | put (g : Gate) (c : Fin 256) (n : Fin 4)
  /-- RECV: R273 Reserve and arm a receive at the next commit. -/
  | recv (g : Gate) (c : Fin 256) (n : Fin 4)
  /-- ALLRED: R279 Arm an all-reduce across the channel's ring of members. -/
  | allred (g : Gate) (c : Fin 256) (n : Fin 4)
  /-- AGFWD: R280 Arm an all-gather of shards into a ring. -/
  | agfwd (g : Gate) (c : Fin 256) (n : Fin 4)
  /- Aggregate class (CLS 1011) -/
  /-- AGG: R296 Contribute to a round of an aggregation group. -/
  | agg (g : Gate) (n : Fin 64)
  /-- AGGQ: R300 Read the owner budget or group state. -/
  | aggq (g : Gate) (n : Fin 64) (d : Fin 64) (x : AggSel)
  /- Ownership class (CLS 1100) -/
  /-- TLEND: R172 Pass a trowel to a context, copy engine or remote chip, with an implied flush. -/
  | tlend (g : Gate) (t a : Fin 64)
  /-- TRET: R174 Return a trowel home or give up a swatch. -/
  | tret (g : Gate) (t : Fin 64)
  /-- TSPLIT: R175 Divide a trowel into two. -/
  | tsplit (g : Gate) (t m a : Fin 64)
  /-- TJOIN: R175 Merge two adjacent trowels. -/
  | tjoin (g : Gate) (t m : Fin 64)
  /-- TSHARE: R176 Grant a swatch to another context. -/
  | tshare (g : Gate) (t a : Fin 64)
  /-- TUNSHARE: R176 Revoke a swatch. -/
  | tunshare (g : Gate) (t a : Fin 64)
  /-- TPROBE: R177 Read a trowel-board entry. -/
  | tprobe (g : Gate) (t d : Fin 64)
  /-- TCLEAN_KEEP: R178 Clear a trowel's taint, keeping the contents. -/
  | tcleanKeep (g : Gate) (t : Fin 64)
  /-- TCLEAN_ZERO: R178 Clear a trowel's taint and zero the region. -/
  | tcleanZero (g : Gate) (t : Fin 64)
  /-- BKALLOC: R198 Allocate an accumulator bank to the issuing context. -/
  | bkalloc (g : Gate) (b : Fin 32)
  /-- BKALLOC_NAMED: R198 Allocate an accumulator bank with named band owners. -/
  | bkallocNamed (g : Gate) (b : Fin 32) (lo hi : Fin 4)
  /-- BKFREE: R199 Free an accumulator bank at the next commit. -/
  | bkfree (g : Gate) (b : Fin 32)
  /- Scale class (CLS 1101) -/
  /-- SCLD: R195 Load the A part of the scale buffer. -/
  | scld (g : Gate) (n : Fin 16) (o : BitVec 9)
  /-- SCLDB: R195 Load the B part of the scale buffer. -/
  | scldb (g : Gate) (n : Fin 16) (o : BitVec 9)
  /-- ZPCLR: R195 Clear every zero point of the scale buffer. -/
  | zpclr (g : Gate)
  /- Check/sync class (CLS 1110) -/
  /-- SYNC: R54 Assert on a plumb line and wait for every member, rebasing the timetable. -/
  | sync (d : Fin 8) (t : BitVec 23)
  /-- MARK: R56 Close a bay: commit, release popped slots, start a shadow and check lateness. -/
  | mark (t : BitVec 23)
  /-- HOLD: R61 Open or extend a hold region. -/
  | hold (n : BitVec 9)
  /-- CKEQ: R73 Compare two scalar values bitwise. -/
  | ckeq (g : Gate) (a b : Fin 64)
  /-- CKEQV: R73 Compare two vector registers bitwise. -/
  | ckeqv (g : Gate) (m : Fin 8) (a b : Fin 32)
  /-- CKEQP: R73 Compare two predicates bitwise. -/
  | ckeqp (g : Gate) (a b : Fin 32)
  /-- TRAP: R74 Raise TRAP with an immediate. -/
  | trap (g : Gate) (i : BitVec 16)
  /-- BRK: R74 Enter debug stop when debug is enabled. -/
  | brk (g : Gate) (i : BitVec 16)
  /-- WFLAG: R75 Withhold issue until a flag word meets a condition. -/
  | wflag (g : Gate) (n : Fin 16) (a : Fin 64) (c : Cond) (o : BitVec 8)
  /-- TFLAG: R75 Test a flag word into a predicate. -/
  | tflag (g : Gate) (p : Fin 32) (n : Fin 16) (a : Fin 64) (c : Cond) (o : BitVec 8)
  /- Events that the machine itself schedules -/
  /-- TIMETABLE_START: R49 A bound timetable context issues its first group when gcyc reaches ttb. -/
  | timetableStart (core ctx : Nat)
  /-- FREE_CONTEXT_START: R232 At the launch's start cycle the core issues for the lowest bound free context. -/
  | freeContextStart (core : Nat)
  /-- REGISTER_RESULT_LAND: R86 A register-domain result lands at its exposed latency. -/
  | registerResultLand (r : Landing)
  /-- SYNC_RESUME: R54 Every member of a completed sync resumes at G with its rebase. -/
  | syncResume (part line scope g : Nat)
  /-- SYNC_WAIT_LIMIT: R54 A sync whose line has not completed by min(due)+slack+1 raises SLIP. -/
  | syncWaitLimit (part line scope : Nat)
  /-- BAY_REEXECUTE: R60 The bay-entry group re-issues at c+4, writing a snag of cause 5. -/
  | bayReexecute (core ctx : Nat)
  /-- GATED_COMMIT_PERFORM: R148 Committed gated stores perform to memory at m+2. -/
  | gatedCommitPerform (c : Commit)
  /-- CONTEXT_STOPPED: R226 A stopping context becomes STOPPED once the array and started commands settle. -/
  | contextStopped (core ctx : Nat)
  /-- CONTEXT_RESUME: R228 A stopped context restarts with every pending cycle shifted by delta. -/
  | contextResume (core ctx q : Nat)
  /-- DUST_SHEET_LAND: R91 A dust-sheet entry lands at d-1+k. -/
  | dustSheetLand (r : Landing)
  /-- MMA_TILE_RETIRE: R192 An mma retires its A tile and frees the array after 16 cycles. -/
  | mmaTileRetire (core ring idx : Nat)
  /-- MMA_ROW_LAND: R192 An output row of an mma lands in accumulator memory. -/
  | mmaRowLand (r : RowLand)
  /-- MMA_EXTRA_ROW_LAND: R193 The checksum extra row lands at c+616. -/
  | mmaExtraRowLand (r : RowLand)
  /-- MMA_DRAIN_LAND: R192 A drain-to-lanes column lands in vector registers. -/
  | mmaDrainLand (r : DrainLand)
  /-- BLD_LAND: R189 A loaded weight slice lands in the shadow buffer and its tile retires. -/
  | bldLand (b : BldLand)
  /-- SWAP_PERFORM: R190 A pending bswap exchanges the weight buffers when the array is free. -/
  | swapPerform (core : Nat)
  /-- ACC_PORT_PERFORM: R201 An accumulator-port slot reaches its bank at c+2. -/
  | accPortPerform (p : PortOp)
  /-- COPY_COMMAND_START: R207 A queued copy command starts at the previous command's stream end. -/
  | copyCommandStart (core : Nat)
  /-- COPY_RELEASE: R211 A copy command performs every write at its release cycle. -/
  | copyRelease (c : CopyCmd)
  /-- SA_ENTRY_ARRIVE: R215 A scatter-accumulate entry is merged into or appended to the window. -/
  | saEntryArrive (core : Nat) (e : SaEntry)
  /-- SA_RETIRE_PERFORM: R215 A retired window entry performs into its target element. -/
  | saRetirePerform (core : Nat) (e : SaEntry)
  /-- SARUN_RELEASE: R218 A scatter-accumulate command reaches its release cycle, reporting dropped indices. -/
  | sarunRelease (c : SaCmd)
  /-- TROWEL_ARRIVE: R172 A lent trowel arrives at its target entry as held, with GEN+1. -/
  | trowelArrive (m : TrowelMove)
  /-- TROWEL_HOME: R174 A returned trowel reaches home with no holder. -/
  | trowelHome (core entry : Nat) (flushed : Bool)
  /-- SWATCH_ARRIVE: R176 A granted swatch becomes held at the grantee. -/
  | swatchArrive (m : SwatchMove)
  /-- SWATCH_RETURN: R174 A given-up swatch reduces the holder's count at m+L. -/
  | swatchReturn (m : SwatchMove)
  /-- SWATCH_REVOKE: R176 A tunshare empties the grantee's entry at m+L. -/
  | swatchRevoke (m : SwatchMove)
  /-- TCLEAN_ZERO_DONE: R178 A zeroing tclean finishes and the region reads zero. -/
  | tcleanZeroDone (core : Nat) (region : TEntry)
  /-- SETTLEMENT_END: R247 A settled frame's 100 ms settlement expires. -/
  | settlementEnd (frame : Nat)
  /-- LINK_LOCAL_COMPLETE: R272 A link command's bytes are held in the replay store. -/
  | linkLocalComplete (core ch num : Nat)
  /-- CHUNK_FLAG_WRITE: R277 A complete chunk's flag word is written. -/
  | chunkFlagWrite (core ch num chunk : Nat)
  /-- CHUNK_TIMEOUT: R278 A chunk unacknowledged after 64 us is recorded CHUNK_INCOMPLETE. -/
  | chunkTimeout (core ch num chunk : Nat)
  /-- ALLRED_COMBINE: R279 A member combines or forwards an all-reduce chunk. -/
  | allredCombine (core ch num chunk : Nat) (acc : List (List Byte × W32))
  /-- AGFWD_FORWARD: R280 A member lands a shard in its ring and forwards it. -/
  | agfwdForward (core ch num : Nat) (shard : Nat × Nat) (secs : List (List Byte × W32))
  /-- PUT_TROWEL_RETURN: R276 A put with RET returns the remote-held trowel. -/
  | putTrowelReturn (part grant offset : Nat)
  /-- CHANNEL_REUSE_HOLD_END: R269 A retired launch's channel numbers become loadable after 128 us. -/
  | channelReuseHoldEnd (part ch : Nat)
  /-- AGG_REACH_HOME: R293 A member's converted and clipped contribution reaches the home, opening a round if first. -/
  | aggReachHome (w : AggWork)
  /-- ROUND_CLOSE: R293 A round closes when every member has issued. -/
  | roundClose (grp round : Nat)
  /-- ROUND_TIMEOUT: R293 A round closes 1 s after opening with absent members. -/
  | roundTimeout (grp round : Nat)
  /-- AGG_HOME_RELEASE: R297 The home sums included shards and adds noise. -/
  | aggHomeRelease (grp round : Nat)
  /-- AGG_RELEASE_MEMBER: R297 A member's results, status, shares and flag are released. -/
  | aggReleaseMember (grp round member : Nat)
  /-- GROUP_REUSE_HOLD_END: R290 A freed group may be configured again after 128 us. -/
  | groupReuseHoldEnd (grp : Nat)
  /-- QUEUE_POLL: R323 A command processor polls a queue in its frame slot. -/
  | queuePoll (part queue : Nat)
  /-- RECORD_HARVEST: R323 The harvest slot takes error records in SEQ order. -/
  | recordHarvest (part : Nat)
  /-- CAP_MIRROR_UPDATE: R310 A core's capm mirror takes the new mask. -/
  | capMirrorUpdate (core : Nat)
  /-- LAUNCH_START: R328 At start cycle S the launch runs, or fails with LAUNCH_SLIP. -/
  | launchStart (part tag : Nat)
  /-- PROFILE_DRAIN: R342 A buffered profile entry drains to the profile page. -/
  | profileDrain (core kind : Nat)
  /-- SAMPLE_ENTRY_WRITE: R345 A tagged group writes its sample entry once its last result lands. -/
  | sampleEntryWrite (core : Nat) (e : List Byte)
  /-- LINK_RETRAIN_DONE: R283 A port completes retraining within 20 us and carries flits again. -/
  | linkRetrainDone (port : Nat)
  /-- PAGE_MIGRATION: R246 A mobile page's frame is copied over the link to a new home. -/
  | pageMigration (frame chip far : Nat)
  /-- MOVE_COMPLETE: R247 A move completes, the home changes, and settlement is judged. -/
  | moveComplete (frame : Nat)
  /-- SUCCESSOR_START: R231 Under fast pre-emption the successor starts at cycle S. -/
  | successorStart (part tag start : Nat)
  /-- TRANSLATION_UPDATE: R241 The command processor applies a translation entry change and broadcasts revocation. -/
  | translationUpdate (part idx : Nat) (v : Word)
  /-- COPY_IN: R325 Copy host memory into partition GDDR on host DMA. -/
  | copyIn (c : Cmd)
  /-- COPY_OUT: R325 Copy partition GDDR to host memory. -/
  | copyOut (c : Cmd)
  /-- SCRUB: R315 Zero pages with fresh check words and clear quarantine. -/
  | scrub (c : Cmd)
  /-- TROWEL_RECLAIM: R180 Return a trowel home with GEN+1 and reassign it. -/
  | trowelReclaim (c : Cmd)
  /-- LAUNCH: R328 Read, bind, reserve, match, load and arm a kernel image. -/
  | launch (c : Cmd) (img : Option Image)
  /-- LAUNCH_RETIRE: R330 A launch retires when every bound context has halted. -/
  | launchRetire (part tag : Nat)
  /-- PREEMPT_STOP: R326 Stop named contexts at P = R + A. -/
  | preemptStop (c : Cmd)
  /-- PREEMPT_RESUME: R326 Resume stopped contexts at Q = R + A. -/
  | preemptResume (c : Cmd)
  /-- PREEMPT_EVICT: R326 Stop named contexts and save them by eviction. -/
  | preemptEvict (c : Cmd)
  /-- PREEMPT_SWITCH: R326 Stop named contexts and start a successor launch at S. -/
  | preemptSwitch (c : Cmd)
  /-- BUDGET_READ: R325 Write the owner's budget to a virtual address. -/
  | budgetRead (c : Cmd)
  /-- ATTEST_QUOTE: R348 Produce a signed attestation quote. -/
  | attestQuote (c : Cmd)
  /- Slots without operands -/
  /-- YIELD: R72 End a free context's turn. -/
  | yield
  /-- HALT: R72 Commit, let results land, and end the context. -/
  | halt
  /- Events that issue, an engine, the host, the administrator, a far chip or a sensor bring about -/
  /-- AGG_LATE: R293 A contribution arriving after its round closed raises GROUP_LATE. -/
  | aggLate (w : AggWork)
  /-- MASK_RESEED: R302 The mask generator reseeds at least once per millisecond. -/
  | maskReseed (core : Nat)
  /-- PREEMPT_STOP_BOUNDARY: R226 A named context reaches its stop boundary and enters STOPPING. -/
  | preemptStopBoundary (core ctx : Nat)
  /-- PARTITION_CONTROL_WRITE: R322 A checked write to a partition control word. -/
  | partitionControlWrite (part : Nat) (v : Word)
  /-- WITHHELD_GROUP_ISSUE: R52 A withheld group issues once its cause clears, ending a snag episode. -/
  | withheldGroupIssue (core ctx : Nat)
  /-- CONTEXT_SWITCH: R221 After a block, yield, halt or trap, the core chooses the next ready free context. -/
  | contextSwitch (core : Nat)
  /-- BRANCH_TRANSFER: R62 After two delay groups, fetch goes to the taken transfer's target. -/
  | branchTransfer (core ctx target : Nat)
  /-- ILK_LOOP_EXIT: R68 An .ilk loop releases the following group at its fixed exit cycle. -/
  | ilkLoopExit (core ctx : Nat)
  /-- ROLL_ITERATION_END: R71 At the end of a roller iteration the level's address registers step. -/
  | rollIterationEnd (core ctx : Nat)
  /-- ROLL_COMPLETE: R71 After the last roller iteration the main stream resumes. -/
  | rollComplete (core ctx : Nat)
  /-- PLUMB_LINE_COMPLETE: R54 A plumb line completes when every member has asserted, fixing G or raising SLIP. -/
  | plumbLineComplete (part line scope : Nat)
  /-- CHAIN_END: R213 A chain END entry ends the chain. -/
  | chainEnd (core : Nat)
  /-- CHAIN_COPY: R213 A chain COPY entry issues a copy command. -/
  | chainCopy (core : Nat)
  /-- CHAIN_LOOP: R213 A chain LOOP entry repeats the next entries with stepped offsets. -/
  | chainLoop (core : Nat)
  /-- CHAIN_SKIPP: R213 A chain SKIPP entry skips entries by a latched predicate. -/
  | chainSkipp (core : Nat)
  /-- CHAIN_SKIPF: R213 A chain SKIPF entry skips entries by a flag word. -/
  | chainSkipf (core : Nat)
  /-- CHAIN_RESERVED_ENTRY: R214 The copy engine processes a chain entry of reserved type 5 to 15, raises CHAIN_ENTRY and stops the chain. -/
  | chainReservedEntry (core : Nat)
  /-- REMOTE_LEND_ACK: R173 A remote chip acknowledges a trowel lent under a grant and the flag word is written. -/
  | remoteLendAck (core entry grant : Nat)
  /-- DATA_FLIT: R277 A data flit arrives and adds its bytes to its chunk. -/
  | dataFlit (f : Flit)
  /-- IDLE_FLIT: R282 An idle flit carries acknowledgement and credits. -/
  | idleFlit (f : Flit)
  /-- CHUNK_ACK_FLIT: R277 A chunk acknowledgement removes the chunk from the sender's set. -/
  | chunkAckFlit (f : Flit)
  /-- ARM_NOTICE_FLIT: R274 An arm notice lets matched sends transmit. -/
  | armNoticeFlit (f : Flit)
  /-- ABORT_FLIT: R278 An abort for an incomplete chunk arrives. -/
  | abortFlit (f : Flit)
  /-- REFUSAL_FLIT: R275 A put refusal arrives at the sender. -/
  | refusalFlit (f : Flit)
  /-- MIGRATION_FLIT: R246 A migration flit carries frame sectors. -/
  | migrationFlit (f : Flit)
  /-- FAULTY_FLIT: R283 A flit that fails its CRC, arrives out of sequence, or carries a reserved KIND or a non-zero reserved field is dropped and a replay is requested. -/
  | faultyFlit (f : Flit)
  /-- FLIT_AGE_DISCARD: R284 A flit older than 64 us is discarded. -/
  | flitAgeDiscard (f : Flit)
  /-- LINK_RETRAIN: R283 After 16 failed replays the port retrains and writes LINK_DOWN. -/
  | linkRetrain (port : Nat)
  /-- STIPPLE_REKEY: R298 The stipple generator is rekeyed before its block counter wraps. -/
  | stippleRekey
  /-- SIGNAL: R325 Write a value to a fence address. -/
  | signal (c : Cmd)
  /-- WAIT: R327 Wait until a fence word reaches a value. -/
  | wait (c : Cmd)
  /-- CMD_INVALID: R325 A polled queue entry with an unlisted opcode or a non-zero reserved bit fails with CMD_INVALID and a fence written with bit 63 set. -/
  | cmdInvalid (c : Cmd)
  /-- SPACE_TEARDOWN: R315 An uncorrectable error outside any bay tears down a partition's address space. -/
  | spaceTeardown (part engine what : Nat)
  /-- POWER_ON: R337 Power-on reset and secure boot. -/
  | powerOn (runtime : FwImage) (others : List FwImage)
  /-- PCIE_FUNDAMENTAL_RESET: R337 A PCI Express fundamental reset of the package. -/
  | pcieFundamentalReset
  /-- FUNCTION_LEVEL_RESET: R337 A function-level reset of a partition or the package. -/
  | functionLevelReset (vf : Option Nat)
  /-- PARTITION_RESET: R338 An administrator resets one partition. -/
  | partitionReset (part : Nat)
  /-- FIRMWARE_WATCHDOG: R337 A firmware watchdog expires and resets. -/
  | firmwareWatchdog (part : Option Nat)
  /-- THERMAL_TRIP: R350 A die reaching 110 °C resets the package. -/
  | thermalTrip
  /-- THERMAL_TRIP_RELEASE: R350 After a thermal trip, the package leaves its off state once the management controller reads every die below 80 °C. -/
  | thermalTripRelease
  /-- SECURITY_VIOLATION: R349 Tampering or an unverifiable image resets the package and erases keys. -/
  | securityViolation
  /-- FABRIC_ERROR: R337 An uncorrectable fabric error not attributable to one partition resets the package. -/
  | fabricError
  /-- RAIL_OUT_OF_RANGE: R351 A rail outside ±5 % for 10 us is a fabric error. -/
  | railOutOfRange (rail : Nat)
  /-- DROOP_DETECT: R350 A supply droop lowers the clock by one step. -/
  | droopDetect (die : Nat)
  /-- CLOCK_STEP_UP: R350 After 100 us without droop the clock rises one step. -/
  | clockStepUp
  /-- THERMAL_THROTTLE: R350 From 100 °C the clock is held at 640 MHz. -/
  | thermalThrottle
  /-- THERMAL_THROTTLE_END: R350 The hold ends when every die is below 95 °C. -/
  | thermalThrottleEnd
  /-- MANAGEMENT_REQUEST: R352 The management controller answers an MCTP request. -/
  | managementRequest (req : Nat)
  /-- RECOVERY_IMAGE: R346 In ROM recovery, the security processor accepts a new firmware image through the physical function. -/
  | recoveryImage (kind : Nat) (image : FwImage)
  /-- QUEUE_TAIL_WRITE: R321 A write to a queue's TAIL notify register. -/
  | queueTailWrite (part queue : Nat) (v : Word)
  /-- TENTRY_WRITE: R321 A TENTRY write requests a translation entry update. -/
  | tentryWrite (part : Nat) (v : Word)
  /-- REGISTER_WRITE: R321 A write to a host-visible register that has no behaviour of its own. -/
  | registerWrite (vf : Option Nat) (offset : Nat) (v : Word)
  /-- FRAMEWIN_ASSIGN: R322 Assign a run of frames to a partition or the incoming pool. -/
  | framewinAssign (v : Word)
  /-- FRAMEWIN_RETURN: R322 Return a run of frames from a partition. -/
  | framewinReturn (v : Word)
  /-- SLOT_TABLE_WRITE: R212 A checked write to a slot-table entry, extending MR3. -/
  | slotTableWrite (res entry : Nat) (v : Byte)
  /-- CAPABILITY_ENTRY_WRITE: R308 A write to a core's capability entry or counters. -/
  | capabilityEntryWrite (core offset : Nat) (v : Word)
  /-- GROUP_ENTRY_WRITE: R290 A write to word 0 applies the staged group entry and increments GEN. -/
  | groupEntryWrite (grp : Nat) (v : Word)
  /-- BUDGET_WRITE: R291 The administrator sets an owner's budget absolutely. -/
  | budgetWrite (owner : Nat) (v : Word)
  /-- DEBUG_STOP: R340 An armed comparator match puts a context into debug stop. -/
  | debugStop (core ctx n : Nat)
  /-- DEBUG_GO: R341 GO resumes a context from debug stop. -/
  | debugGo (core ctx : Nat)
  /-- DEBUG_STEP: R341 GO with STEP issues one group and stops again. -/
  | debugStep (core ctx : Nat)
  /-- FINJ_OFF: R317 A finj write with MODE 0 turns injection off. -/
  | finjOff (core ctx : Nat) (v : Word)
  /-- FINJ_ARRAY: R317 A finj write with MODE 1 arms an array bit flip. -/
  | finjArray (core ctx : Nat) (v : Word)
  /-- FINJ_SECTOR: R317 A finj write with MODE 2 corrupts a sector check word. -/
  | finjSector (core ctx : Nat) (v : Word)
  /-- ILLEGAL_ENCODING: R43 A fetched group holds a slot that matches no listed encoding, such as CLS 1111, an unlisted opcode, a misplaced header, an all-zero bundle or a fetch beyond bundle 16,383, and decode rejects it with ILLEGAL_GROUP. -/
  | illegalEncoding (reason pos : Nat)
deriving DecidableEq, Repr

end Sys2Proof
end

