-- ==== Sys2Proof/Machine/HubState.lean ====
section
/-! DEFINITION. The state of the hub die as plain data: partitions with their tables and queues, slot tables, budgets,
aggregation groups and rounds, link ports, frames, measurement registers, the management log, clock and power. -/

namespace Sys2Proof.Machine

/-- Where a trowel is (R165, R172-R174, R179). -/
inductive Holder where
  | home
  /-- trowel-board entry of a physical core -/
  | board (core entry : Nat)
  /-- a remote chip under a grant, with the core, context and entry it was lent from (R173, R276) -/
  | remote (grant core ctx entry : Nat)
deriving DecidableEq, Repr

/-- A record of a partition's trowel table (R165). -/
structure TRec where
  space : Nat
  loc : Nat
  count : Nat
  gen : Nat
  taint : Bool
  swatch : Nat
  holder : Holder
  /-- tag of the launch whose region it covers -/
  launch : Nat
deriving DecidableEq, Repr

/-- A command queue with its BAR0 registers (R321); the command begun and not completed, if any (R324). -/
structure Queue where
  base : Word
  log2n : BitVec 5
  head : BitVec 16
  tail : BitVec 16
  active : Option Cmd
deriving DecidableEq, Repr

/-- A launch of a partition (R328-R330). -/
structure Launch where
  tag : Nat
  cmd : Cmd
  urgent : Bool
  start : Nat
  running : Bool
  /-- bound contexts: physical core, context, logical core -/
  members : List (Nat × Nat × Nat)
  /-- slot-table masks by resource (R212) -/
  masks : List (Nat × Word)
  /-- plumb lines held: line and scope (R53) -/
  lines : List (Nat × Nat)
  chans : List Nat
  /-- readonly regions of the launch, as in the partition's list -/
  fixed : List (Nat × Nat)
  /-- a record that trapped one of its contexts has been harvested: its contexts are being stopped (R51, R330) -/
  ending : Bool
  /-- tag of the urgent launch that it is being evicted for (R329) -/
  yields : Option Nat
deriving DecidableEq, Repr

/-- A flit that waits for a cycle of its port (R272), and the chunk whose 64 µs begin as it leaves (R278): core, command, chunk. -/
structure OutFlit where
  flit : Flit
  timer : Option (Nat × Nat × Nat)
deriving DecidableEq, Repr

/-- A channel-table entry (R268, R269) with the numbers its commands carry (R282, R287). -/
structure ChanRec where
  decl : ChanDecl
  gen : BitVec 6
  loaded : Bool
  /-- reference time from which the number may be loaded again -/
  heldUntil : Nat
  /-- sends issued, puts issued, arms committed here -/
  sends : Nat
  puts : Nat
  arms : Nat
  /-- LEN of the arms announced by the far end and not matched yet -/
  far : List Nat
  /-- packets of commands that this end has not armed yet -/
  early : List Flit
  stale : Nat
  /-- flits that wait for the port, and whether its next turn is on the agenda -/
  out : List OutFlit
  pumping : Bool
deriving DecidableEq, Repr

/-- A partition (R16, R321, R322, R335). -/
structure Part where
  ctl : Word
  xlat : List (Nat × Word)
  trowels : List TRec
  grants : List Grant
  chans : List ChanRec
  queues : Vector Queue 8
  tidx : BitVec 18
  tstat : BitVec 2
  tentry : Option (Nat × Word)
  seq : BitVec 32
  /-- records waiting for the harvest slot, in SEQ order -/
  pend : List ErrRecord
  /-- W of the error ring (R334) -/
  ringW : Word
  launches : List Launch
  /-- readonly regions: first place and bytes (R164) -/
  readonly : List (Nat × Nat)
  /-- round counter of each group (R293) -/
  rounds : List (Nat × Nat)
  /-- RESET_NOTICE records that wait for the ring to be mapped, oldest first (R338) -/
  notice : List ErrRecord
  /-- reset-cause registers of resets that found no such partition: its notices, once it is created (R338) -/
  owing : List Word
  /-- groups' stale-packet count (R290) -/
  stale : Nat
  /-- first cycle of resource 18 that no contribution of the partition takes (R297) -/
  aggAt : Nat
  /-- a teardown of its address space is under way (R315) -/
  torn : Bool
deriving DecidableEq, Repr

/-- An aggregation group entry (R289) and its last closed round (R301). -/
structure Group where
  w0 : Word
  w1 : Word
  mem : Vector W32 64
  stage1 : Word
  stageMem : Vector W32 64
  /-- reference time from which a freed group may be configured again (R290) -/
  heldUntil : Nat
  lastCount : Nat
  lastTimeout : Bool
  lastAudit : Bool
  closed : Nat
deriving DecidableEq, Repr

/-- A round that has opened and is not released to every member (R293). -/
structure Round where
  group : Nat
  round : Nat
  /-- the entry as it stood when the round opened: it may be written again while the round is released (R290) -/
  entry : Group
  /-- reference time at which it opened -/
  opened : Nat
  arrived : List AggWork
  /-- members that are absent whatever comes: their partition was torn down before they joined (R315) -/
  gone : List Nat
  isClosed : Bool
  /-- members included at close, and the count of absent ones -/
  included : List Nat
  absent : Nat
  audit : Bool
  /-- result integers, once the home has drawn the noise -/
  result : List Int
deriving DecidableEq, Repr

/-- A Clamer port's link layer (R283). -/
structure Port where
  sent : BitVec 16
  got : BitVec 16
  /-- flits kept until acknowledged -/
  replay : List Flit
  /-- SEQ from which a replay is requested of the far end, and how often the replay has failed -/
  asking : Option (BitVec 16)
  fails : Nat
  retraining : Bool
  /-- receive-buffer credits to return -/
  owed : Nat
  /-- first cycle in which the port can transmit its next packet (R272) -/
  txAt : Nat
  /-- flits of no launch that wait for a cycle of the port: their partition, or none for one that is passed on (R17) -/
  wait : List (Option Nat × Flit)
  /-- whether the turn of those flits is on the agenda -/
  turning : Bool
deriving DecidableEq, Repr

/-- A frame of the indirection table (R236, R244, R247, R248, R315). -/
structure Frame where
  num : Nat
  part : Option Nat
  pool : Bool
  /-- cluster whose devices hold it (R15, R16, R244) -/
  home : Nat
  /-- where the page is: none on this chip, else the remote chip and its frame -/
  far : Option (Nat × Nat)
  /-- completion times of the last three moves, and the settled-until time, on the reference timer -/
  moves : List Nat
  settled : Option Nat
  written : Bool
  /-- key slot and virtual page that its sectors are encrypted under, none before its first mapping (R248) -/
  cipher : Option (Nat × Nat)
  /-- sectors encrypted otherwise since: number in the frame, key slot and page -/
  rekeyed : List (Nat × Nat × Nat)
  /-- the home a move under way goes to: this chip, or a remote chip and its frame; sectors of it that have arrived here (R246) -/
  moving : Option (Option (Nat × Nat))
  came : Nat
  /-- writes of links and of the hub that wait for the end of the move: key, bytes, and syndromes of their sectors (R246) -/
  held : List (Option (Nat × Nat) × Run × List (Nat × W32))
  /-- chip whose page a frame of the incoming pool holds -/
  guest : Option Nat
  /-- cycle from which no handle to it is left, after the last change of an entry that named it (R241, R242) -/
  freeAt : Nat
deriving DecidableEq, Repr

/-- What a key slot is bound to (R248): a partition, or a partition and grant index. -/
structure KeyBind where
  slot : Nat
  part : Nat
  grant : Option Nat
deriving DecidableEq, Repr

/-- Clock and power (R12, R350, R351). -/
structure Power where
  off : Bool
  /-- 0 to 4: 800, 760, 720, 680, 640 MHz -/
  step : Nat
  /-- cycle of the last change of step, and the reference timer then (R244) -/
  stepAt : Nat
  refAt : Nat
  throttled : Bool
  /-- ROM recovery (R346) -/
  recovery : Bool
  /-- firmware images that run, in the order loaded, and the images as power-on found them -/
  booted : Nat
  flash : List FwImage
  /-- whether each die's sensor last read below 95 and below 80 degrees is the controller's own knowledge; tripped -/
  tripped : Bool
deriving DecidableEq, Repr

/-- A put on its way in (R275, R277): partition, channel, command, its descriptor, FLAGV, bytes arrived of each chunk,
chunks that are flagged, and chunks refused or aborted. -/
structure PutIn where
  part : Nat
  ch : Nat
  cmd : Nat
  src : Nat
  desc : Nat
  flagv : Word
  got : List Nat
  flagged : List Nat
  dead : List Nat
deriving DecidableEq, Repr

/-- The hub. -/
structure Hub where
  parts : Vector Part 16
  slots : Vector (Vector Byte 64) 19
  chipid : Word
  admstat : Word
  resetCause : Word
  /-- cycle, scope (1 a partition, 2 the package) and number of the last reset (R337) -/
  causeAt : Nat × Nat × Nat
  route : Vector (BitVec 5) 512
  budgets : Vector Word 256
  groups : Vector Group 64
  rounds : List Round
  mr : Vector (BitVec 384) 8
  /-- management log (R334), newest first, and its own count of records without a partition (R335) -/
  log : List ErrRecord
  logSeq : BitVec 32
  frames : List Frame
  keys : List KeyBind
  ports : Vector Port 12
  puts : List PutIn
  power : Power
  /-- answers given by the management controller and not yet taken (R352) -/
  answers : List (Nat × Word)
deriving DecidableEq, Repr

end Sys2Proof.Machine
end

