-- ==== Sys2Proof/Machine/State.lean ====
section
/-! DEFINITION. The state of a VX-64 package as plain data: its 64 cores with their four contexts, its memory and its
hub; what a step can end in; and the machine right after power-on reset. -/

namespace Sys2Proof.Machine

/-! ## Ways a step can stop -/

/-- Reasons for which the machine stops. -/
inductive Fault where
  /-- An access that R261 names a data race: the spec leaves the values, the later control flow and the contents of
  the partition's regions undefined without bound. Raised by memory, copy, scatter and link slots and by the events that
  read or write for them. Safe. Log 17. -/
  | dataRace
deriving DecidableEq, Repr

/-- Reasons for which an instruction has no meaning. -/
inductive Refusal where
  /-- An instruction whose meaning is not modelled. Raised by exec's own arms only. Safe. -/
  | notModelled (mnemonic : String)
deriving DecidableEq, Repr

/-! ## Memory -/

/-- What a byte that nothing has written reads as. DESIGN CHOICE, log 4. -/
def unlisted : Byte := 0

/-- The canonical form of memory: addresses strictly rising, no entry at the unlisted value. -/
def Memory.wf : Memory → Bool
  | [] => true
  | (_, v) :: [] => v != unlisted
  | (a, v) :: (b, w) :: r => v != unlisted && decide (a < b) && Memory.wf ((b, w) :: r)

/-! ## Contexts -/

/-- Context states (R219). -/
inductive CtxState where
  | empty | loaded | running | blocked | parked | stopping | stopped | debug | trapped | halted
deriving DecidableEq, Repr

/-- An active zero-overhead loop (R66, R68); its registers are lcL, lsaL and leaL of its level. -/
structure Loop where
  rot : Bool
  ilk : Bool
  /-- first and last bundle of the body as they count in this pass: a wrs of lsaL or leaL counts from the next wrap (R84) -/
  first : Nat
  last : Nat
  /-- the cycle at which the group after an .ilk loop issues -/
  exit : Nat
deriving DecidableEq, Repr

/-- The registers that the bay shadow copies (R59, R76, R83, R311). -/
structure Regs where
  s : Vector Word 64
  p : Vector LaneMask 32
  gm : Vector Byte 8
  a : Vector AddrReg 16
  h : Vector Word 32
  v : Vector Lanes 32
  /-- producer tags of scalars, of predicates, and of each vector register in each lane group -/
  ts : Vector Tag 64
  tp : Vector Tag 32
  tv : Vector (Vector Tag 8) 32
  lc : Vector Word 4
  lsa : Vector (BitVec 14) 4
  lea : Vector (BitVec 14) 4
  dm : Vector (BitVec 6) 8
  lnk : Word
  rrb : BitVec 4
  skim : Word
  /-- active loops, innermost first; the level of the head is the number of loops outside it -/
  loops : List Loop
deriving DecidableEq, Repr

/-- A taken transfer on its way through its delay groups (R62). -/
structure Xfer where
  /-- delay groups still to issue -/
  left : Nat
  target : Nat
  /-- call: lnk is written when the second delay group has issued (R64) -/
  call : Bool
  /-- lbreak: the level to end (R69) -/
  brk : Option Nat
deriving DecidableEq, Repr

/-- A sync this context waits at (R54). -/
structure SyncWait where
  line : Nat
  /-- die or cluster number of a line that exists once per die or cluster; 0 otherwise -/
  scope : Nat
  domain : Nat
  /-- cycle at which the next group is due, and the cycle of the assertion -/
  due : Nat
  at_ : Nat
  bundle : Nat
  /-- G, once the line has completed -/
  g : Option Nat
deriving DecidableEq, Repr

/-- One level of a roll (R70). -/
structure RollLevel where
  cnt : Nat
  a1 : Fin 16
  a2 : Fin 16
  d1 : BitVec 20
  d2 : BitVec 20
  /-- iterations of this level done in its current pass -/
  iter : Nat
deriving DecidableEq, Repr

/-- A running roll (R71). -/
structure Roll where
  first : Nat
  length : Nat
  groups : Nat
  lead : Nat
  trail : Nat
  useSkim : Bool
  /-- levels, innermost first -/
  levels : List RollLevel
  /-- group of the block that comes next -/
  g : Nat
  /-- whether the current innermost iteration is skipped by its skim bit -/
  skip : Bool
deriving DecidableEq, Repr

/-- Why a group is withheld: the snag cause it counts under in a timetable context, 0 for none (R52), and whether a
free context blocks on it (R221). -/
structure Hold where
  cause : Nat
  blocks : Bool
deriving DecidableEq, Repr

/-- The model's own record of what the slot just executed did to its group. Log 9. -/
inductive Status where
  | running
  | held (h : Hold)
  /-- the slot raised a fault -/
  | trapped (r : ErrRecord)
  /-- the slot detected a recoverable event (R59) -/
  | recover (r : ErrRecord)
deriving DecidableEq, Repr

/-- What a bay's commit publishes (R169, R178, R199, R273): each acts at the commit cycle m. -/
inductive Pub where
  /-- tret of a trowel in entry t: the lender's flush, then home -/
  | ret (t : Nat)
  /-- tret of a swatch whose content was e -/
  | unswatch (e : TEntry)
  /-- tshare: the grantee's core, context and entry, and the trowel shared -/
  | share (core ctx entry : Nat) (e : TEntry)
  /-- tunshare: the trowel, the grantee's core and entry -/
  | unshare (e : TEntry) (core entry : Nat)
  /-- tclean of the trowel of an entry: its swatch entries lose the taint; the zeroing form -/
  | clean (e : TEntry) (zero : Bool)
  /-- a freed bank -/
  | bankFree (b : Nat)
  /-- an arm of recv, allred or agfwd -/
  | arm (c : LinkCmd)
deriving DecidableEq, Repr

/-- Effects of a slot that count from the next group on, or that the group's end performs (R79, R84, R85, R149,
R169, R185, R251). They wait here until the group's last slot has executed. -/
inductive Post where
  | stg (e : StgId) (v : Word)
  | gm (d : Nat) (v : Byte)
  | sreg (n : Nat) (v : Word)
  | finj (v : Word)
  /-- gated bytes, and what is kept of their sectors -/
  | gate (cells : List Host.Cell) (notes : List GateNote)
  /-- spill bytes -/
  | spill (cells : List Host.Cell)
  /-- trowel-board entry t becomes e -/
  | board (t : Nat) (e : TEntry)
  /-- the same by a tlend, which no rollback undoes -/
  | leave (t : Nat) (e : TEntry)
  /-- the partition's trowel table, from the commit on: each record as it was and as it will be; one of COUNT 0 is free -/
  | table (l : List (TRec × TRec))
  /-- a trowel leaves for its target (R172) -/
  | lend (m : TrowelMove)
  /-- a trowel in an entry leaves for the remote chip of a grant (R173) -/
  | lendRemote (t grant flag : Nat)
  | publish (p : Pub)
  /-- a swatch entry reserved at another core (R176) -/
  | reserve (core entry : Nat)
  /-- shares an agg takes: trowels in custody, trowels that lend a swatch (R179); no rollback takes them back -/
  | shares (custody swatches : List TEntry)
  | bank (b : Nat) (w : Byte) (zero : Bool)
  /-- n slots popped, read until the given cycle -/
  | pop (q n : Nat) (retire : Nat)
  | push (q n : Nat)
  | ringReset (q : Nat)
  | swap
  | enq (es : List SaEntry)
  /-- a commit point: the next group must hold a mark (R57) -/
  | commitPoint
  /-- a send or put has issued: its chunks await their acknowledgements (R258) -/
  | sent (l : LinkCmd)
  /-- commits: of a mark, of a tlend, of a halt -/
  | mark
  | flush
  | halt
  | xfer (x : Xfer)
  | loop (l : Loop) (count : Word)
  | roll (r : Roll)
  | yield
  | hold (n : Nat)
  | sync (w : SyncWait)
  /-- lateness at a checkpoint, compared with slack once every check of the group has passed (R51, R353) -/
  | late (n : Int)
  /-- trap: the context traps after its group (R74) -/
  | trapAfter (r : ErrRecord)
  /-- brk: the context enters debug stop after its group (R74) -/
  | debugAfter (r : ErrRecord)
deriving DecidableEq, Repr

/-- An entry of the row journal (R204): the row's value, and the format code of its last writer, before its first write,
once that write has performed. -/
structure JEntry where
  bank : Nat
  row : Nat
  old : Option (Lanes × Option Nat)
deriving DecidableEq, Repr

/-- A dust-sheet entry (R90): the landing and its count k. -/
structure DustEntry where
  land : Landing
  k : Nat
deriving DecidableEq, Repr

/-- An element of a drain-to-lanes product that waits in the array's drain stage while its context is stopped, with its
count k (R90, R192). -/
structure DrainEntry where
  elem : DrainLand
  k : Nat
deriving DecidableEq, Repr

/-- Values fixed by the launch, and the context's own counters of issue (R48, R50, R83, R316). -/
structure CtxCfg where
  free : Bool
  lcore : Nat
  ttb : Word
  ttoff : Word
  slack : BitVec 32
  ilkpad : BitVec 16
  usem : Word
  finj : Word
  /-- mma still to come before an armed injection fires (R317) -/
  finjLeft : Nat
  /-- the launch the context belongs to, by its tag -/
  launch : Nat
  /-- bundles of the core's instruction store that its stream takes (R8) -/
  code : Nat
  /-- deviation count (R50) -/
  dv : Nat
deriving DecidableEq, Repr

/-- A ring slot popped and not yet released (R182). -/
structure PopSlot where
  ctx : Nat
  /-- retirement cycle of its reader -/
  retire : Nat
  released : Bool
deriving DecidableEq, Repr

/-- Ring indices as the bay shadow keeps them (R186). -/
structure RingIdx where
  head : BitVec 16
  tail : BitVec 16
  hr : BitVec 16
  pops : List PopSlot
deriving DecidableEq, Repr

/-- Roles, loaded bits and tags of the two weight buffers (R188). -/
structure WeightRoles where
  live : Bool
  loaded0 : BitVec 8
  loaded1 : BitVec 8
  tag0 : Option Nat
  tag1 : Option Nat
  pending : Bool
deriving DecidableEq, Repr

/-- The bay-entry shadow (R56, R59). Ring indices, weight roles, board entries and bank words are copied on their
first change in the bay; the registers and spill memory as a whole at bay entry, which reads the same. -/
structure Shadow where
  regs : Regs
  spill : Memory
  bundle : Nat
  pos : Nat
  xfer : Option Xfer
  roll : Option Roll
  hold : Option (Nat × Nat)
  rings : List (Nat × RingIdx)
  roles : Option WeightRoles
  board : List (Nat × TEntry)
  banks : List (Nat × Byte)
  /-- what the bay's instructions change of the trowel table at its commit: records as they were, as they will be -/
  table : List (List (TRec × TRec))
  /-- swatch entries reserved at other cores: core, entry -/
  reserved : List (Nat × Nat)
deriving DecidableEq, Repr

/-- The current bay (R56-R60). -/
structure Bay where
  /-- the model's own serial number of the bay, for R92 -/
  serial : Nat
  /-- groups issued since bay entry -/
  groups : Nat
  /-- cycle at which the bay-entry group first issued -/
  first : Option Nat
  /-- events already recovered: code and group number in the bay (R60) -/
  seen : List (Nat × Nat)
  /-- a rollback is under way: its snag is written when the entry group issues again -/
  redo : Bool
  /-- a bswap has issued in this bay (R188) -/
  swapped : Bool
  /-- what the bay's commit publishes, in issue order -/
  publish : List Pub
deriving DecidableEq, Repr

/-- The part of a context that says where it issues next and what it waits for. -/
structure Flow where
  bundle : Nat
  pos : Nat
  xfer : Option Xfer
  roll : Option Roll
  sync : Option SyncWait
  /-- earliest cycle at which the next group may issue -/
  nextAt : Nat
  /-- hold region: groups still in it, groups counted from its first group (R61) -/
  hold : Option (Nat × Nat)
  /-- the group just issued held a commit point (R57) -/
  needMark : Bool
  /-- a snag episode under way: cause, cycles so far (R52) -/
  snag : Option (Nat × Nat)
  /-- what the next group was last withheld by -/
  held : Option Hold
  /-- the first cycle in which the next group was withheld (R345) -/
  heldFrom : Option Nat
  /-- .ilk exit cycle waited for, and the loop's bundle -/
  ilkExit : Option Nat
  /-- a fault detected after issue: the context traps at its next group (R214, R218, R278, R299) -/
  doomed : Option ErrRecord
  /-- stop request P (R226), stop boundary b once reached -/
  stopAt : Option Nat
  stopB : Nat
  /-- one group only, then debug stop (R341); the resume group escapes the comparators -/
  step : Bool
  resumed : Bool
  /-- eviction stop: stop again after the next commit, with this P (R224) -/
  evict : Option Nat
  /-- stopped by fast pre-emption: the core's parked contexts wait for S (R220, R231) -/
  fast : Bool
  /-- bundle of the group last issued -/
  last : Nat
  /-- board entries lent by the group just issued: the next waits for the lender's commands (R172) -/
  flush : List Nat
deriving DecidableEq, Repr

/-- An agg that is not released yet (R296), with its footprints for R152: address and bytes. -/
structure AggRun where
  group : Nat
  round : Nat
  ac : Nat
  src : Nat × Nat
  /-- cycle by which the contribution has been read -/
  readEnd : Nat
  res : Nat × Nat
  /-- its place in issue order -/
  issue : Nat
deriving DecidableEq, Repr

/-- A hardware context (R219-R222). -/
structure Ctx where
  id : Nat
  st : CtxState
  cfg : CtxCfg
  regs : Regs
  flow : Flow
  bay : Bay
  shadow : Shadow
  /-- the 13 staging sets cp.0-3, sa.0-1, ln.0-3, ro.0-1, ag.0 (R205, R206, R270, R70, R295) -/
  staging : Vector (Vector Word 8) 13
  spill : Memory
  /-- spill slots with an error: slot, and whether it is uncorrectable (R151) -/
  spillErr : List (Nat × Bool)
  /-- the context's part of the core's instruction store, which its bundle indices address (R8, R38) -/
  istore : Memory
  /-- gated bytes by physical address (R148, R150) -/
  gate : List Host.Cell
  gateNotes : List GateNote
  enq : List SaEntry
  journal : List JEntry
  dust : List DustEntry
  /-- elements of drain-to-lanes products in the drain stage (R90) -/
  drain : List DrainEntry
  /-- remote chunks issued and not acknowledged: channel, command number, chunk (R258) -/
  acks : List (Nat × Nat × Nat)
  /-- board entries published and not yet seen by other parties: entry, as they see it, cycle from which they see the change (R169) -/
  lag : List (Nat × TEntry × Nat)
  agg : Option AggRun
  post : List Post
  status : Status
  /-- scalar unit, vector pipe or port unit of the slot being issued (R100, R121, R203) -/
  unit : Nat
  /-- bundle of the slot being issued and its position in the group; last bundle and position of the group -/
  slotBundle : Nat
  slotPos : Nat
  endBundle : Nat
  endPos : Nat
  /-- issue number of the machine when the group began: what its own slots have started stands behind it -/
  groupSeq : Nat
  /-- the group being issued holds a commit point, so that a recoverable event in it is not rolled back (R169) -/
  commitGroup : Bool
deriving DecidableEq, Repr

/-! ## Cores -/

/-- A producer's reservation (R182), with the producer's own number: bay it was made in, whether its data has performed. -/
structure Resv where
  id : Nat
  ctx : Nat
  bay : Nat
  landed : Bool
deriving DecidableEq, Repr

/-- An operand ring (R181, R182). -/
structure Ring where
  base : BitVec 19
  size : BitVec 5
  head : BitVec 16
  tail : BitVec 16
  hr : BitVec 16
  pr : BitVec 16
  /-- slots from HR up to HEAD, in index order -/
  pops : List PopSlot
  /-- reservations in the order made -/
  resv : List Resv
deriving DecidableEq, Repr

/-- Storage of one weight buffer: slice s is eight runs of 16 KiB; the list holds the bytes loaded, empty before. -/
abbrev WBuf := Vector (List Byte) 8

/-- Accumulator rows that differ from what an unlisted row reads as, +0 in every column, and their writer's tag. -/
structure AccRow where
  bank : Nat
  row : Nat
  val : Lanes
  /-- format code of an mma landing that wrote it last; none after a port slot -/
  fmt : Option Nat
deriving DecidableEq, Repr

/-- A scale-buffer change on its way (R195): cycle from which an mma sees it, part (0 A, 1 B, 2 zpclr), bytes. -/
structure ScaleOp where
  due : Nat
  part : Nat
  bytes : List Byte
deriving DecidableEq, Repr

/-- The copy engine (R207, R213): stream end, the chain it runs, chains and commands queued behind it. -/
structure CopyEngine where
  streamEnd : Nat
  chain : Option Chain
  /-- commands that have not started: a copy, or a chain -/
  queue : List (CopyCmd ⊕ Chain)
deriving DecidableEq, Repr

/-- The scatter-accumulate engine (R207, R215, R217). -/
structure SaEngine where
  streamEnd : Nat
  /-- commands that have not started -/
  queue : List SaCmd
  window : List SaEntry
  w : Nat
deriving DecidableEq, Repr

/-- A word of the hub's per-core capability table (R308). -/
structure CapEntry where
  capm : BitVec 32
  ft : Byte
  inService : Bool
  cnt : Vector Byte 32
  coreCnt : Byte
  corrected : BitVec 32
deriving DecidableEq, Repr

/-- A core's debug block (R339). -/
structure DebugBlock where
  cmp : Vector (BitVec 19) 4
  dbg : BitVec 4
  stopped : BitVec 4
  period : BitVec 5
deriving DecidableEq, Repr

/-- An entry of the hot-spot table (R344): slot, bundle, reason, context, count. -/
structure HotEntry where
  slot : Nat
  bundle : Nat
  reason : Nat
  ctx : Nat
  count : Nat
deriving DecidableEq, Repr

/-- Profile buffers of a core (R342): snags, samples and spills waiting for the page, and the counts W, L of each. -/
structure Profile where
  hot : List HotEntry
  buf : Vector (List (List Byte)) 3
  written : Vector Nat 3
  lost : Vector Nat 3
  /-- snags of the core since launch (R343) -/
  snagSeq : Nat
deriving DecidableEq, Repr

/-- How the core passes the issue point between its free contexts (R221, R232). -/
structure Switch where
  /-- the cycle at which the core chooses, while no context holds the core -/
  chooseAt : Option Nat
  /-- number of the context that held the core last -/
  from_ : Nat
deriving DecidableEq, Repr

/-- A link command queue of a core's link-port unit (R271). -/
structure LinkUnit where
  cmds : List LinkCmd
deriving DecidableEq, Repr

/-- One core (R8). `ctx` is the context that holds the issue point. -/
structure Core where
  phys : Nat
  part : BitVec 4
  ctx : Ctx
  rest : List Ctx
  switch : Switch
  rings : Vector Ring 16
  roles : WeightRoles
  wbuf0 : WBuf
  wbuf1 : WBuf
  arrayUntil : Nat
  scaleA : Memory
  scaleB : Memory
  scaleQ : List ScaleOp
  acc : List AccRow
  banks : Vector Byte 32
  copy : CopyEngine
  sa : SaEngine
  link : LinkUnit
  board : Vector TEntry 64
  /-- entries reserved by a tlend or tshare and still empty (R176) -/
  reserved : List Nat
  /-- FLAG of each entry that waits for a remote chip's acknowledgement (R173) -/
  remote : List (Nat × Nat)
  /-- mirror of the capability mask (R308, R310) -/
  capm : Word
  cap : CapEntry
  dblk : DebugBlock
  profile : Profile
deriving DecidableEq, Repr

/-! ## The machine -/

/-- A timed event waiting for its cycle (R250): phase of the cycle (R251), order within the phase. -/
structure Due where
  cyc : Nat
  phase : Nat
  seq : Nat
  ev : Instr
deriving DecidableEq, Repr

/-- A context saved by eviction (R224, R326, R329): its launch, its place, P of its stop, the address of its save image, or the image
itself where the partition has no room for it, and what the image has no place for. Log 21. -/
structure SavedCtx where
  part : Nat
  tag : Nat
  core : Nat
  ctx : Nat
  p : Nat
  place : Option Nat
  image : List Byte
  rest : Ctx
  /-- the core as it stood, for a full eviction (R222) -/
  unit : Core
  /-- bytes of the scratchpad regions that a full eviction moved, and the syndromes of their sectors (R222) -/
  regions : Option (List Run × List (Nat × W32))
  /-- tag of the urgent launch that took the place (R329) -/
  forTag : Option Nat
deriving DecidableEq, Repr

/-- The package. `core` is the core that takes the next issue turn of the cycle, `others` the other 63 in the order
of their turns; `turn` counts the turns taken in the current cycle. -/
structure State where
  now : Nat
  agenda : List Due
  core : Core
  others : List Core
  turn : Nat
  mem : Memory
  /-- stored check word XOR the right one, for the sectors where they differ: sector address, syndrome (R153) -/
  bad : List (Nat × W32)
  hostMem : Memory
  hub : Hub
  /-- counters that give each free value of the mask generator, the stipple stream and the sampling generator its own argument -/
  draws : Nat
  noise : Nat
  fetched : Nat
  /-- the model's issue-order counter -/
  issueSeq : Nat
  /-- kernel images in memory, by their partition and virtual address (R33 gives no byte layout) -/
  images : List (Nat × Nat × Image)
  saved : List SavedCtx
deriving DecidableEq, Repr

/-! ## Reset -/

def Lanes.zero : Lanes := Vector.replicate 128 0

def AddrReg.zero : AddrReg := { offset := 0, space := 0, index := 0 }

/-- Launch values of R76 and R83, which the model takes for reset too. -/
def Regs.reset : Regs :=
  { s := Vector.replicate 64 0, p := (Vector.replicate 32 0).set 0 (BitVec.allOnes 128),
    gm := (Vector.replicate 8 0).set 0 0xFF, a := Vector.replicate 16 AddrReg.zero, h := Vector.replicate 32 0,
    v := Vector.replicate 32 Lanes.zero, ts := Vector.replicate 64 0, tp := Vector.replicate 32 0,
    tv := Vector.replicate 32 (Vector.replicate 8 0), lc := Vector.replicate 4 0, lsa := Vector.replicate 4 0,
    lea := Vector.replicate 4 0, dm := Vector.replicate 8 0, lnk := 0, rrb := 0, skim := 0, loops := [] }

def Flow.reset : Flow :=
  { bundle := 0, pos := 0, xfer := none, roll := none, sync := none, nextAt := 0, hold := none, needMark := false,
    snag := none, held := none, heldFrom := none, ilkExit := none, doomed := none, stopAt := none, stopB := 0, step := false,
    resumed := false, evict := none, fast := false, last := 0, flush := [] }

def Bay.reset : Bay :=
  { serial := 0, groups := 0, first := none, seen := [], redo := false, swapped := false, publish := [] }

def Shadow.reset : Shadow :=
  { regs := Regs.reset, spill := [], bundle := 0, pos := 0, xfer := none, roll := none, hold := none, rings := [], roles := none, board := [],
    banks := [], table := [], reserved := [] }

def CtxCfg.reset : CtxCfg :=
  { free := false, lcore := 0, ttb := 0, ttoff := 0, slack := 0, ilkpad := 0, usem := 0, finj := 0, finjLeft := 0,
    launch := 0, code := 0, dv := 0 }

def Ctx.reset (id : Nat) : Ctx :=
  { id := id, st := .empty, cfg := CtxCfg.reset, regs := Regs.reset, flow := Flow.reset, bay := Bay.reset,
    shadow := Shadow.reset, staging := Vector.replicate 13 (Vector.replicate 8 0), spill := [], spillErr := [],
    istore := [], gate := [], gateNotes := [], enq := [], journal := [], dust := [], drain := [], acks := [], lag := [], agg := none, post := [],
    status := .running, unit := 0, slotBundle := 0, slotPos := 0, endBundle := 0, endPos := 3, groupSeq := 0, commitGroup := false }

def Ring.reset : Ring := { base := 0, size := 0, head := 0, tail := 0, hr := 0, pr := 0, pops := [], resv := [] }

def WeightRoles.reset : WeightRoles :=
  { live := false, loaded0 := 0, loaded1 := 0, tag0 := none, tag1 := none, pending := false }

def CapEntry.reset : CapEntry :=
  { capm := BitVec.allOnes 32, ft := 2, inService := true, cnt := Vector.replicate 32 0, coreCnt := 0, corrected := 0 }

def Core.reset (phys : Nat) : Core :=
  { phys := phys, part := 0, ctx := Ctx.reset 0, rest := [Ctx.reset 1, Ctx.reset 2, Ctx.reset 3],
    switch := { chooseAt := none, from_ := 3 }, rings := Vector.replicate 16 Ring.reset, roles := WeightRoles.reset,
    wbuf0 := Vector.replicate 8 [], wbuf1 := Vector.replicate 8 [], arrayUntil := 0, scaleA := [], scaleB := [],
    scaleQ := [], acc := [], banks := Vector.replicate 32 0, copy := { streamEnd := 0, chain := none, queue := [] },
    sa := { streamEnd := 0, queue := [], window := [], w := 64 }, link := { cmds := [] },
    board := Vector.replicate 64 TEntry.empty, reserved := [], remote := [], capm := 0xFFFFFFFF, cap := CapEntry.reset,
    dblk := { cmp := Vector.replicate 4 0, dbg := 0, stopped := 0, period := 0 },
    profile := { hot := [], buf := Vector.replicate 3 [], written := Vector.replicate 3 0,
                 lost := Vector.replicate 3 0, snagSeq := 0 } }

def Queue.reset : Queue := { base := 0, log2n := 0, head := 0, tail := 0, active := none }

def Part.reset : Part :=
  { ctl := 0, xlat := [], trowels := [], grants := [], chans := [], queues := Vector.replicate 8 Queue.reset,
    tidx := 0, tstat := 0, tentry := none, seq := 0, pend := [], ringW := 0, launches := [], readonly := [],
    rounds := [], notice := [], owing := [0xFFFF001], stale := 0, aggAt := 0, torn := false }

def Group.reset : Group :=
  { w0 := 0, w1 := 0, mem := Vector.replicate 64 0, stage1 := 0, stageMem := Vector.replicate 64 0, heldUntil := 0,
    lastCount := 0, lastTimeout := false, lastAudit := false, closed := 0 }

def Port.reset : Port :=
  { sent := 0, got := 0, replay := [], asking := none, fails := 0, retraining := false, owed := 0, txAt := 0, wait := [], turning := false }

/-- CAUSE 0x01 and LAST 0 after power-on, PARTS 0xFFFF (R337). -/
def Hub.reset : Hub :=
  { parts := Vector.replicate 16 Part.reset, slots := Vector.replicate 19 (Vector.replicate 64 0), chipid := 0,
    admstat := 0, resetCause := 0xFFFF001, causeAt := (0, 2, 0), route := Vector.replicate 512 0, budgets := Vector.replicate 256 0,
    groups := Vector.replicate 64 Group.reset, rounds := [], mr := Vector.replicate 8 0, log := [], logSeq := 0,
    frames := [], keys := [], ports := Vector.replicate 12 Port.reset, puts := [],
    power := { off := false, step := 0, stepAt := 0, refAt := 0, throttled := false, recovery := false, booted := 3, flash := [], tripped := false }, answers := [] }

/-- The package after power-on reset (R337): no context bound (R219), nothing in memory. -/
def State.reset : State :=
  { now := 0, agenda := [], core := Core.reset 0, others := (List.range' 1 63).map Core.reset, turn := 0, mem := [],
    bad := [], hostMem := [], hub := Hub.reset, draws := 0, noise := 0, fetched := 0, issueSeq := 0, images := [], saved := [] }

end Sys2Proof.Machine
end

