-- ==== Sys2Proof/Machine/Bits.lean ====
section
/-! DEFINITION. Helpers over numbers, bytes and lanes: little-endian bytes (R101), building lanes and masks lane by
lane, bit counts, integer square root, CRC-32C (R153). -/

namespace Sys2Proof.Machine

/-- The low n bits of v as n bytes, least significant first (R101). -/
def leBytes : Nat → Nat → List Byte
  | 0, _ => []
  | n + 1, v => BitVec.ofNat 8 v :: leBytes n (v / 256)

/-- The number whose bytes are given, least significant first (R101). -/
def leVal : List Byte → Nat
  | [] => 0
  | b :: r => b.toNat + 256 * leVal r

/-- The 128 lanes with f l in lane l. -/
def lanesOf (f : Nat → W32) : Lanes := ⟨((List.range 128).map f).toArray, by simp⟩

/-- The mask whose bit l is f l. -/
def maskOf (f : Nat → Bool) : LaneMask :=
  BitVec.ofNat 128 ((List.range 128).foldr (fun l n => (if f l then 1 else 0) * 2 ^ l + n) 0)

/-- Lane l. -/
def lane (x : Lanes) (l : Nat) : W32 := x[l]?.getD 0

/-- The lanes of m from x, the others from y. -/
def mergeLanes (m : LaneMask) (x y : Lanes) : Lanes := lanesOf fun l => if m.getLsbD l then lane x l else lane y l

/-- Count of one bits among the low n bits. -/
def popCount : Nat → Nat → Nat
  | 0, _ => 0
  | n + 1, v => v % 2 + popCount n (v / 2)

/-- Number of bits needed to write v; 0 for 0. -/
def bitLen (v : Nat) : Nat := if v = 0 then 0 else v.log2 + 1

/-- ⌊√v⌋, found bit by bit: the fuel is the number of result bits still to try. -/
def isqrtAux : Nat → Nat → Nat → Nat
  | 0, _, r => r
  | n + 1, v, r => isqrtAux n v (if (r + 2 ^ n) * (r + 2 ^ n) ≤ v then r + 2 ^ n else r)

def isqrt (v : Nat) : Nat := isqrtAux (bitLen v / 2 + 1) v 0

def ceilDiv (a b : Nat) : Nat := (a + b - 1) / b

/-- One byte of a reflected CRC with polynomial 0x1EDC6F41. -/
def crcBits : Nat → Nat → Nat
  | 0, c => c
  | n + 1, c => crcBits n (if c % 2 = 1 then (c / 2) ^^^ 0x82F63B78 else c / 2)

/-- CRC-32C (R153). -/
def crc32c (bs : List Byte) : W32 :=
  BitVec.ofNat 32 ((bs.foldl (fun c b => crcBits 8 (c ^^^ b.toNat)) 0xFFFFFFFF) ^^^ 0xFFFFFFFF)

/-- n consecutive numbers of a list's elements paired with their addresses from a on. -/
def cellsAt (a : Nat) : List Byte → List Host.Cell
  | [] => []
  | b :: r => (a, b) :: cellsAt (a + 1) r

/-- Elements i·n to i·n+n-1 as one list for each i. -/
def chunks (n : Nat) : Nat → List Byte → List (List Byte)
  | 0, _ => []
  | k + 1, l => l.take n :: chunks n k (l.drop n)

/-- x with element i replaced by f of it. -/
def vmod {α : Type} {n : Nat} (x : Vector α n) (i : Nat) (f : α → α) : Vector α n :=
  if h : i < n then x.set i (f x[i]) else x

/-- Replace the first element that satisfies p. -/
def listMod {α : Type} (p : α → Bool) (f : α → α) : List α → List α
  | [] => []
  | x :: r => if p x then f x :: r else x :: listMod p f r

/-- Element i of a list replaced by f of it. -/
def listAt {α : Type} (f : α → α) : Nat → List α → List α
  | _, [] => []
  | 0, x :: r => f x :: r
  | n + 1, x :: r => x :: listAt f n r

/-- Signed value of the low n bits of v (n > 0). -/
def sintOf (n v : Nat) : Int := if v % 2 ^ n < 2 ^ (n - 1) then (v % 2 ^ n : Nat) else ((v % 2 ^ n : Nat) : Int) - 2 ^ n

/-- b rounded up to a multiple of 64 that is at least a. -/
def up64 (a : Nat) : Nat := (a + 63) / 64 * 64

end Sys2Proof.Machine
end

