-- ==== Sys2Proof/Machine/Mem.lean ====
section
/-! DEFINITION. Memory in its canonical form (R101, R142), the place of every store in the one physical address space
of the model, and the check words of sectors (R153, R154). -/

namespace Sys2Proof.Machine

/-- The byte at an address. -/
def readByte : Memory → Nat → Byte
  | [], _ => unlisted
  | (b, v) :: r, a => if b = a then v else readByte r a

/-- The listed cells of a run. -/
def runCells (a : Nat) (bs : List Byte) : Memory := (cellsAt a bs).filter (fun c => c.2 != unlisted)

/-- Write consecutive bytes from an address on. -/
def writeRun (m : Memory) (a : Nat) (bs : List Byte) : Memory :=
  m.filter (fun c => decide (c.1 < a)) ++ (runCells a bs ++ m.filter (fun c => decide (a + bs.length ≤ c.1)))

def writeByte (m : Memory) (a : Nat) (v : Byte) : Memory := writeRun m a [v]

/-- Write cells in list order: of two cells for one byte the later stands. -/
def writeCells (m : Memory) (cs : List Host.Cell) : Memory := cs.foldl (fun m c => writeByte m c.1 c.2) m

/-- n bytes from an address on. -/
def readRun (m : Memory) (a : Nat) : Nat → List Byte
  | 0 => []
  | n + 1 => readByte m a :: readRun m (a + 1) n

/-- The n-byte little-endian number at an address (R101). -/
def readLe (m : Memory) (a n : Nat) : Nat := leVal (readRun m a n)

/-! ## The physical address space of the model

Unit scratchpads from 0, cluster scratchpads from 2^32, die scratchpads from 2^33, GDDR frames from 2^40. The spec
numbers these stores apart; the one line of addresses is the model's own. DESIGN CHOICE, log 12. -/

def unitBase (phys : Nat) : Nat := phys * 2 ^ 19
def clusterBase (k : Nat) : Nat := 2 ^ 32 + k * 2 ^ 23
def dieBase (d : Nat) : Nat := 2 ^ 33 + d * 2 ^ 26
def frameBase (f : Nat) : Nat := 2 ^ 40 + f * 2 ^ 21

/-- Frame of an address of the model's line. -/
def frameOf (a : Nat) : Option Nat := if 2 ^ 40 ≤ a then some ((a - 2 ^ 40) / 2 ^ 21) else none

/-- Cluster and die of a core (R7). -/
def clusterOf (phys : Nat) : Nat := phys / 4
def dieOf (phys : Nat) : Nat := phys / 16

/-- Size of a space in bytes as addressed (R142). -/
def spaceSize (sp : Nat) : Nat :=
  match sp with
  | 0 => 2 ^ 19
  | 1 => 2 ^ 14
  | 2 => 2 ^ 23
  | 3 => 2 ^ 26
  | 4 => 2 ^ 21
  | 5 => 2 ^ 19
  | _ => 0

/-- Granule of a space (R142, R164). -/
def granule (sp : Nat) : Nat :=
  match sp with
  | 0 => 2 ^ 12
  | 2 => 2 ^ 16
  | 3 => 2 ^ 19
  | 4 => 2 ^ 21
  | 5 => 2 ^ 12
  | _ => 1

/-- First byte of the sector of an address (R142). -/
def sectorOf (a : Nat) : Nat := a / 64 * 64

/-- Sectors that n bytes from an address on touch. -/
def sectorsOf (a n : Nat) : List Nat :=
  if n = 0 then [] else (List.range (sectorOf (a + n - 1) / 64 - sectorOf a / 64 + 1)).map (fun i => sectorOf a + 64 * i)

/-! ## Check words -/

/-- Syndrome of a sector: stored check word XOR the right one. -/
def syndrome (bad : List (Nat × W32)) (a : Nat) : W32 := ((bad.find? (fun p => p.1 == a)).map (·.2)).getD 0

/-- Set a sector's syndrome; the list stays sorted and holds no zero. -/
def setSyndrome (bad : List (Nat × W32)) (a : Nat) (v : W32) : List (Nat × W32) :=
  bad.filter (fun p => decide (p.1 < a)) ++ ((if v = 0 then [] else [(a, v)]) ++ bad.filter (fun p => decide (a < p.1)))

/-- The syndrome of a poisoned sector: its check word is inverted (R154). -/
def poison : W32 := BitVec.allOnes 32

/-- The sectors of a run that fail verification, in address order. -/
def badIn (bad : List (Nat × W32)) (a n : Nat) : List Nat :=
  (bad.filter (fun p => decide (sectorOf a ≤ p.1) && decide (p.1 < a + n))).map (·.1)

end Sys2Proof.Machine
end

