-- ==== Sys2Proof/Machine/Ops.lean ====
section
/-! DEFINITION. The named operations that every meaning is written with: reaching cores and contexts, the agenda,
registers and landings, error records, taking a trap and returning from a recoverable event, and what a slot's checks
can find. -/

namespace Sys2Proof.Machine

/-! ## Cores and contexts -/

def State.coreAt (s : State) (p : Nat) : Core :=
  if s.core.phys = p then s.core else (s.others.find? (fun c => c.phys == p)).getD s.core

def State.updCore (p : Nat) (f : Core → Core) (s : State) : State :=
  if s.core.phys = p then { s with core := f s.core }
  else { s with others := s.others.map (fun c => if c.phys = p then f c else c) }

def Core.ctxAt (c : Core) (k : Nat) : Ctx := if c.ctx.id = k then c.ctx else (c.rest.find? (fun x => x.id == k)).getD c.ctx

def Core.updCtx (k : Nat) (f : Ctx → Ctx) (c : Core) : Core :=
  if c.ctx.id = k then { c with ctx := f c.ctx }
  else { c with rest := c.rest.map (fun x => if x.id = k then f x else x) }

def State.ctxAt (s : State) (p k : Nat) : Ctx := (s.coreAt p).ctxAt k

def State.updCtx (p k : Nat) (f : Ctx → Ctx) (s : State) : State := s.updCore p (Core.updCtx k f)

/-- Change the core that has the turn. -/
def State.onCore (f : Core → Core) (s : State) : State := { s with core := f s.core }

/-- Change the context that issues. -/
def State.onCtx (f : Ctx → Ctx) (s : State) : State := { s with core := { s.core with ctx := f s.core.ctx } }

def State.onFlow (f : Flow → Flow) (s : State) : State := s.onCtx fun c => { c with flow := f c.flow }

def State.onHub (f : Hub → Hub) (s : State) : State := { s with hub := f s.hub }

def State.onPart (n : Nat) (f : Part → Part) (s : State) : State :=
  s.onHub fun h => { h with parts := vmod h.parts n f }

def State.partAt (s : State) (n : Nat) : Part := (s.hub.parts[n]?).getD Part.reset

/-- All contexts of a core. -/
def Core.ctxs (c : Core) : List Ctx := c.ctx :: c.rest

def Core.mapCtx (f : Ctx → Ctx) (c : Core) : Core := { c with ctx := f c.ctx, rest := c.rest.map f }

def State.allCores (s : State) : List Core := s.core :: s.others

def State.mapCores (f : Core → Core) (s : State) : State := { s with core := f s.core, others := s.others.map f }

/-! ## The reference timer (R4, R12, R244)

Times of links and of memory run on a timer that does not throttle; the agenda counts arithmetic cycles. -/

/-- The arithmetic clock in MHz at a step. -/
def mhz (step : Nat) : Nat := 800 - 40 * min step 4

/-- The reference timer. -/
def State.ticks (s : State) : Nat := s.hub.power.refAt + (s.now - s.hub.power.stepAt) * (Config.tick / mhz s.hub.power.step)

/-- The reference timer in µs. -/
def State.micros (s : State) : Nat := s.ticks / Config.tick

/-- Cycles that n µs of the reference timer take at the present clock step. -/
def State.us (s : State) (n : Nat) : Nat := n * mhz s.hub.power.step

/-! ## The agenda (R250, R251) -/

/-- Phases of a cycle: events from outside, commits, landings of engines and links, flag words, arrivals of trowels,
results of registers. -/
def phExternal : Nat := 0
def phCommit : Nat := 1
def phLand : Nat := 2
def phFlag : Nat := 3
def phArrive : Nat := 4
def phReg : Nat := 5

/-- Whether a is to be taken before b. -/
def Due.before (a b : Due) : Bool :=
  decide (a.cyc < b.cyc) || (a.cyc == b.cyc && (decide (a.phase < b.phase) || (a.phase == b.phase && decide (a.seq < b.seq))))

/-- Insert behind everything that is not to be taken later. -/
def insertDue (d : Due) : List Due → List Due
  | [] => [d]
  | x :: r => if d.before x then d :: x :: r else x :: insertDue d r

def State.scheduleAs (cyc phase seq : Nat) (ev : Instr) (s : State) : State :=
  { s with agenda := insertDue { cyc := cyc, phase := phase, seq := seq, ev := ev } s.agenda }

/-- Schedule an event under the current issue number. -/
def State.schedule (cyc phase : Nat) (ev : Instr) (s : State) : State := s.scheduleAs cyc phase s.issueSeq ev

/-- Drop the events that satisfy f. -/
def State.cancel (f : Instr → Bool) (s : State) : State := { s with agenda := s.agenda.filter (fun d => !f d.ev) }

/-- Move the events that satisfy f by n cycles. -/
def State.shift (f : Instr → Bool) (n : Nat) (s : State) : State :=
  (s.agenda.filter (fun d => f d.ev)).foldl (fun t d => t.scheduleAs (d.cyc + n) d.phase d.seq d.ev) (s.cancel f)

/-! ## Registers as a slot names them (R67, R76) -/

/-- Physical number of a rotating name. -/
def physOf (rrb : BitVec 4) (k : Nat) : Nat := if k < 16 then k else 16 + (k - 16 + rrb.toNat) % 16

def Ctx.rs (c : Ctx) (n : Fin 64) : Word := if n = 0 then 0 else c.regs.s[n]

def Ctx.rp (c : Ctx) (n : Fin 32) : LaneMask :=
  if n = 0 then BitVec.allOnes 128 else (c.regs.p[physOf c.regs.rrb n.val]?).getD 0

def Ctx.rv (c : Ctx) (n : Nat) : Lanes := (c.regs.v[physOf c.regs.rrb n]?).getD Lanes.zero

def Ctx.rgm (c : Ctx) (n : Fin 8) : Byte := if n = 0 then 0xFF else c.regs.gm[n]

def Ctx.ra (c : Ctx) (n : Fin 16) : AddrReg := c.regs.a[n]

/-- The lanes of the lane groups a mask selects (R119, R120). -/
def groupLanes (g : Byte) : LaneMask := maskOf fun l => g.getLsbD (l / 16)

/-- The lend word's predicate under its sense, lane by lane (R77). -/
def Ctx.gateLanes (c : Ctx) (g : Gate) : LaneMask := if g.neg then ~~~(c.rp g.p) else c.rp g.p

/-- The single-bit gate, read from lane 0 (R77). -/
def Ctx.gate0 (c : Ctx) (g : Gate) : Bool := (c.gateLanes g).getLsbD 0

/-- The value of a condition that must be uniform (R63); none when it is not. -/
def Ctx.uniform (c : Ctx) (g : Gate) : Option Bool :=
  let m := c.gateLanes g
  if m = BitVec.allOnes 128 then some true else if m = 0 then some false else none

/-- Active lanes of a vector-type slot (R77). -/
def Ctx.active (c : Ctx) (g : Gate) (m : Fin 8) : LaneMask := c.gateLanes g &&& groupLanes (c.rgm m)

/-- Whether an .ilk loop's body is running (R83). -/
def Ctx.inIlk (c : Ctx) : Bool := c.regs.loops.any (fun l => l.ilk)

/-- Whether register interlocks hold (R88). -/
def Ctx.interlocked (c : Ctx) : Bool := c.cfg.free || c.inIlk

/-- Whether FP32, BF16 and FP16 subnormals are flushed (R109). -/
def Ctx.flushes (c : Ctx) : Bool := !c.interlocked

def State.ctx (s : State) : Ctx := s.core.ctx

/-- Timetable cycle of a context (R48). -/
def Ctx.ttc (c : Ctx) (now : Nat) : Word := BitVec.ofNat 64 now - c.cfg.ttb - c.cfg.ttoff

/-! ## Landings (R86-R92) -/

/-- Producer tag fields (R311). -/
def mkTag (kind unit op fmt : Nat) : Tag := BitVec.ofNat 16 (kind + unit * 8 + op * 256 + fmt * 16384)

/-- A result on its way to a register of the issuing context, due L cycles on (R86). -/
def State.land (L : Nat) (r : Res) (tag : Tag) (s : State) : State :=
  s.schedule (s.now + L) phReg
    (.registerResultLand
      { core := s.core.phys, ctx := s.core.ctx.id, res := r, tag := tag, bay := s.core.ctx.bay.serial,
        seq := s.issueSeq, frame := none })

/-- Writes to s0 and p0 are discarded (R76). -/
def State.landS (L : Nat) (d : Fin 64) (v : Word) (tag : Tag) (s : State) : State :=
  if d = 0 then s else s.land L (.s d.val v) tag

def State.landP (L : Nat) (d : Fin 32) (m v : LaneMask) (tag : Tag) (s : State) : State :=
  if d = 0 then s else s.land L (.p (physOf s.core.ctx.regs.rrb d.val) m v) tag

/-- A vector result by the name's number, resolved at issue (R67). -/
def State.landV (L : Nat) (d : Nat) (m : LaneMask) (x : Lanes) (tag : Tag) (s : State) : State :=
  s.land L (.v (physOf s.core.ctx.regs.rrb d) m x) tag

/-- A tag as lane group g carries it: that of a vector pipe names the group (R311). -/
def tagIn (g : Nat) (t : Tag) : Tag := if t.toNat % 8 = 2 then (t &&& ~~~0xE0#16) ||| BitVec.ofNat 16 (g * 32) else t

/-- The lowest lane group that a mask touches; 0 for none. -/
def lowGroup (m : LaneMask) : Nat := ((List.range 8).find? fun g => m &&& groupLanes (BitVec.ofNat 8 (2 ^ g)) != 0).getD 0

/-- A result enters its register (R87, R89), and its tag with it (R311). A predicate has one tag: a vector slot's names the lowest
lane group written (DESIGN CHOICE, log 56). -/
def Regs.put (r : Regs) (x : Res) (tag : Tag) : Regs :=
  match x with
  | .s n v => if n = 0 then r else { r with s := r.s.setIfInBounds n v, ts := r.ts.setIfInBounds n tag }
  | .p n m v =>
    if n = 0 then r
    else { r with p := vmod r.p n (fun o => (o &&& ~~~m) ||| (v &&& m)), tp := r.tp.setIfInBounds n (tagIn (lowGroup m) tag) }
  | .v n m x =>
    { r with
      v := vmod r.v n (fun o => mergeLanes m x o)
      tv := vmod r.tv n (fun t => (List.range 8).foldl (fun t g =>
        if m &&& groupLanes (BitVec.ofNat 8 (2 ^ g)) = 0 then t
        else t.setIfInBounds g (tagIn g tag)) t) }
  | .a n v => { r with a := r.a.setIfInBounds n v }
  | .h n v => { r with h := r.h.setIfInBounds n v }
  | .skim m v => { r with skim := (r.skim &&& ~~~m) ||| (v &&& m) }

/-- A landing into its context: the bank, and the shadow when it was issued before the bay (R92). -/
def Ctx.putLanding (c : Ctx) (l : Landing) : Ctx :=
  let c := { c with regs := c.regs.put l.res l.tag }
  if l.bay < c.bay.serial then { c with shadow := { c.shadow with regs := c.shadow.regs.put l.res l.tag } } else c

/-- Append to the effects that the group's end performs. -/
def State.post (p : Post) (s : State) : State := s.onCtx fun c => { c with post := c.post ++ [p] }

/-! ## Error records (R331-R335) -/

/-- Partition a core belongs to. -/
def Core.partNo (c : Core) : Nat := c.part.toNat

def Part.owner (p : Part) : Option Nat :=
  if p.ctl.getLsbD 27 then some (p.ctl.toNat / 2 ^ 19 % 256) else none

/-- SCYC of the group that issues: ttc in a timetable context, 0 in a free one (R331). -/
def State.scyc (s : State) : Word := if s.core.ctx.cfg.free then 0 else s.core.ctx.ttc s.now

/-- A record about a context's group (R331). -/
def State.record (s : State) (p k code sev engine object : Nat) (aux0 aux1 : Word) (addr : Option (Nat × Nat × Nat)) :
    ErrRecord :=
  let c := s.coreAt p
  let x := c.ctxAt k
  { code := code, sev := sev, part := some c.partNo, owner := (s.partAt c.partNo).owner,
    who := some (p, x.cfg.lcore, k), engine := engine, bundle := x.flow.bundle, object := object,
    scyc := if x.cfg.free then 0 else x.ttc s.now, gcyc := BitVec.ofNat 64 s.now, addr := addr, aux0 := aux0,
    aux1 := aux1, seq := 0 }

/-- A record about a partition and no context. -/
def State.partRecord (s : State) (n code sev engine object : Nat) (aux0 aux1 : Word) : ErrRecord :=
  { code := code, sev := sev, part := some n, owner := (s.partAt n).owner, who := none, engine := engine, bundle := 0,
    object := object, scyc := 0, gcyc := BitVec.ofNat 64 s.now, addr := none, aux0 := aux0, aux1 := aux1, seq := 0 }

/-- Whether r stands before x among the records of one core and cycle: by ENGINE, then CTX (R335). -/
def recPrecedes (r x : ErrRecord) : Bool :=
  match r.who, x.who with
  | some (p, _, k), some (q, _, j) =>
    p == q && r.gcyc == x.gcyc && (decide (r.engine < x.engine) || (r.engine == x.engine && decide (k < j)))
  | _, _ => false

/-- The record that stands before a newest-first list once r has gone behind the records of its cycle that it precedes, and the list
then: records that change places exchange their numbers. Those not of `open_` have left for the ring and keep theirs. -/
def settleRecord (open_ : ErrRecord → Bool) (r : ErrRecord) : List ErrRecord → ErrRecord × List ErrRecord
  | [] => (r, [])
  | x :: t =>
    if x.gcyc ≠ r.gcyc then (r, x :: t)
    else if recPrecedes r x && open_ x then
      let u := settleRecord open_ { r with seq := x.seq } t
      ({ x with seq := r.seq }, u.1 :: u.2)
    else
      let u := settleRecord open_ r t
      (u.1, x :: u.2)

/-- Put a record into a newest-first list, behind the ones it precedes (R335). -/
def placeRecord (open_ : ErrRecord → Bool) (r : ErrRecord) (l : List ErrRecord) : List ErrRecord :=
  let u := settleRecord open_ r l
  u.1 :: u.2

/-- The management log keeps the last 65,536 records (R334). -/
def logSize : Nat := 65536

/-- The first cycle after now at which the executive's frame is at an offset (R323). The frame is counted from cycle 0.
Log 22. -/
def nextSlot (now off : Nat) : Nat := now + 1 + (off + Config.frame - (now + 1) % Config.frame) % Config.frame

/-- Offsets of the executive's slots in a frame, in arithmetic cycles (R323). -/
def pollSlot (q : Nat) : Nat := 128 * q
def bindSlot : Nat := 1024
def harvestSlot : Nat := 2048
def budgetSlot : Nat := 3072
def repairSlot : Nat := 3584

def isHarvest (n : Nat) : Instr → Bool
  | .recordHarvest m => n == m
  | _ => false

/-- The next harvest slot has something to take. -/
def State.wakeHarvest (n : Nat) (s : State) : State :=
  if s.agenda.any (fun d => isHarvest n d.ev) then s else s.schedule (nextSlot s.now harvestSlot) phExternal (.recordHarvest n)

/-- Write a record to the management log and, where it names a partition, to its ring's queue (R334, R335). -/
def State.addRecord (r : ErrRecord) (s : State) : State :=
  match r.part with
  | none =>
    s.onHub fun h => { h with log := (placeRecord (fun _ => true) { r with seq := h.logSeq.toNat } h.log).take logSize, logSeq := h.logSeq + 1 }
  | some n =>
    let r' := { r with seq := (s.partAt n).seq.toNat }
    let waits := fun x => (s.partAt n).pend.contains x
    ((s.onHub fun h => { h with log := (placeRecord waits r' h.log).take logSize }).onPart n fun p =>
      { p with pend := placeRecord waits r' p.pend, seq := p.seq + 1 }).wakeHarvest n

/-! ## Stopping a context (R90, R91) -/

/-- Whether an event is a register result in flight of a context (R90). -/
def isLanding (p k : Nat) : Instr → Bool
  | .registerResultLand l => l.core == p && l.ctx == k
  | .dustSheetLand l => l.core == p && l.ctx == k
  | _ => false

/-- The drain-to-lanes element of a context that an event lands. -/
def drainOf (p k : Nat) : Instr → Option DrainLand
  | .mmaDrainLand d => if d.core = p ∧ d.ctx = k then some d else none
  | _ => none

def isDrain (p k : Nat) (e : Instr) : Bool := (drainOf p k e).isSome

/-- The landing of such an event; a drain-to-lanes element is one lane of a vector register with the tag of the array
(R192, R311). -/
def landingOf : Instr → Option Landing
  | .registerResultLand l => some l
  | .dustSheetLand l => some l
  | .mmaDrainLand d =>
    some { core := d.core, ctx := d.ctx, res := .v d.reg (BitVec.ofNat 128 (2 ^ d.lane)) (Vector.replicate 128 d.val)
           tag := mkTag 5 0 d.fmt 0, bay := d.bay, seq := d.seq, frame := none }
  | _ => none

/-- Capture a context's results in flight in its dust sheet, with their counts from the cycle e; elements of
drain-to-lanes products wait in the drain stage with theirs (R90). -/
def State.capture (p k e : Nat) (s : State) : State :=
  let ds := (s.agenda.filter (fun d => isLanding p k d.ev)).filterMap
    (fun d => (landingOf d.ev).map (fun l => ({ land := l, k := d.cyc - e } : DustEntry)))
  let es := s.agenda.filterMap fun d => (drainOf p k d.ev).map fun l => ({ elem := l, k := d.cyc - e } : DrainEntry)
  ((s.cancel (isLanding p k)).cancel (isDrain p k)).updCtx p k fun c =>
    { c with dust := (c.dust.filter fun x => !ds.any fun y => y.land == x.land) ++ ds, drain := c.drain ++ es }

/-- Whether a context's stop is due: at or after P, outside every hold region. -/
def Ctx.stopDue (now : Nat) (x : Ctx) : Bool :=
  (x.st == .running || x.st == .blocked || x.st == .parked) && x.flow.hold.isNone &&
  match x.flow.stopAt with
  | none => false
  | some P => decide (P ≤ now)

/-- Lowest armed comparator that matches the bundle of a context's next group (R339, R340). -/
def Core.breaks (c : Core) (x : Ctx) : Option Nat :=
  if !c.dblk.dbg.getLsbD x.id || x.flow.resumed then none
  else (List.range 4).find? fun n =>
    let v := (c.dblk.cmp[n]?).getD 0
    v.getLsbD 14 && v.getLsbD (15 + x.id) && v.toNat % 2 ^ 14 == x.flow.bundle

/-- Whether a context's stop cycle is this one, by a pre-emption or a comparator: a result that would land in it is one of
the dust sheet's (R90). -/
def Core.stopsNow (c : Core) (now k : Nat) : Bool :=
  let x := c.ctxAt k
  x.stopDue now ||
  (c.switch.chooseAt.isNone && c.ctx.id == k && x.st == .running && x.flow.sync.isNone && decide (x.flow.nextAt ≤ now) &&
    (c.breaks x).isSome)

/-- A register result at its landing cycle (R86, R87, R90, R91). -/
def State.landResult (l : Landing) (s : State) : State :=
  let stops := (s.coreAt l.core).stopsNow s.now l.ctx
  s.updCtx l.core l.ctx fun x =>
    let x := { x with dust := x.dust.eraseP fun d => d.land == l }
    if stops then { x with dust := x.dust ++ [{ land := l, k := 1 }] } else x.putLanding l

/-- An element of a drain-to-lanes product at its landing cycle; in a stop cycle it stays in the drain stage (R90). -/
def State.landDrain (r : DrainLand) (l : Landing) (s : State) : State :=
  let stops := (s.coreAt l.core).stopsNow s.now l.ctx
  s.updCtx l.core l.ctx fun x => if stops then { x with drain := x.drain ++ [{ elem := r, k := 1 }] } else x.putLanding l

/-- Dust-sheet entries and the elements in the drain stage land at d − 1 + k (R90, R91). -/
def State.releaseDust (p k d : Nat) (s : State) : State :=
  let s := (s.ctxAt p k).dust.foldl (fun (t : State) x => t.scheduleAs (d - 1 + x.k) phReg x.land.seq (.dustSheetLand x.land)) s
  ((s.ctxAt p k).drain.foldl (fun (t : State) x => t.scheduleAs (d - 1 + x.k) phReg x.elem.seq (.mmaDrainLand x.elem)) s).updCtx p k
    fun c => { c with drain := [] }

/-! ## Snags and profile entries (R50, R52, R342, R343) -/

/-- Put a profile entry of a kind (0 snags, 1 samples, 2 hot spots) into the core's buffer, or count it lost (R342). -/
def Profile.push (kind : Nat) (e : List Byte) (f : Profile) : Profile :=
  if (f.buf[kind]?.getD []).length < 64 then { f with buf := vmod f.buf kind (fun l => l ++ [e]) }
  else { f with lost := vmod f.lost kind (· + 1) }

/-- The kind that a core drains next, from one on. -/
def Profile.nextKind (from_ : Nat) (f : Profile) : Option Nat :=
  ([from_, from_ + 1, from_ + 2].map (· % 3)).find? fun k => !((f.buf[k]?).getD []).isEmpty

/-- The first entry in a buffer starts its drain, one entry per 16 cycles (R342). -/
def State.profile (p kind : Nat) (e : List Byte) (s : State) : State :=
  let empty := ((s.coreAt p).profile.nextKind 0).isNone
  let s := s.updCore p fun c => { c with profile := c.profile.push kind (c.part.setWidth 8 :: e) }
  if empty then s.schedule (s.now + 16) phLand (.profileDrain p kind) else s

/-- A snag entry (R343). -/
def snagBytes (bundle cause ctx phys lost ttc gcyc seq dv : Nat) : List Byte :=
  leBytes 2 bundle ++ (leBytes 1 cause ++ (leBytes 1 (ctx + phys * 4) ++ (leBytes 4 (min lost (2 ^ 32 - 1)) ++
    (leBytes 8 ttc ++ (leBytes 8 gcyc ++ (leBytes 4 seq ++ leBytes 4 (min dv (2 ^ 32 - 1))))))))

/-- Write a snag of a timetable context (R52); a free context writes none. -/
def State.snag (p k cause lost bundle : Nat) (s : State) : State :=
  let c := s.coreAt p
  let x := c.ctxAt k
  if x.cfg.free || lost = 0 then s
  else
    (s.profile p 0 (snagBytes bundle cause k p lost (x.ttc s.now).toNat s.now c.profile.snagSeq x.cfg.dv)).updCore p
      fun c => { c with profile := { c.profile with snagSeq := c.profile.snagSeq + 1 } }

/-- End the snag episode of a context, if one is open. -/
def State.endSnag (p k : Nat) (s : State) : State :=
  match (s.ctxAt p k).flow.snag with
  | none => s
  | some (cause, n) =>
    (s.snag p k cause n (s.ctxAt p k).flow.bundle).updCtx p k fun c => { c with flow := { c.flow with snag := none } }

/-! ## Taking a trap (R43, R90, R219, R353)

The one operation that every fault at issue goes through. The record says what failed; the context becomes TRAPPED and
issues nothing more; its results in flight go to the dust sheet and land at their own cycles; the core's free contexts
go on after a switch, and stay parked when the context was the timetable's (R220, R232). Nothing of the group that
raised the fault executes: the state given is the one from before the group. -/

/-- The core gives up the issue point as for a group first held at cycle h (R221, R232). -/
def State.giveUp (p k h : Nat) (s : State) : State :=
  s.updCore p fun c => { c with switch := { chooseAt := some (h + 3), from_ := k } }

/-- Whether a context holds the core's issue point. -/
def State.holdsCore (s : State) (p k : Nat) : Bool := (s.coreAt p).ctx.id == k && (s.coreAt p).switch.chooseAt.isNone

/-- A context of a core stops on a trap whose record is written and whose first idle cycle is b. -/
def State.trapStop (p k b : Nat) (r : ErrRecord) (s : State) : State :=
  let free := (s.ctxAt p k).cfg.free && s.holdsCore p k
  let s := s.capture p k (b - 1)
  let s := s.releaseDust p k b
  let s := s.updCtx p k fun c =>
    { c with st := .trapped, status := .trapped r, post := [], flow := { c.flow with doomed := none, sync := none } }
  if free then s.giveUp p k (s.now + 1) else s

/-- A context of a core takes a trap whose first idle cycle is b: its record, then the stop. -/
def State.trapAt (p k b : Nat) (r : ErrRecord) (s : State) : State := ((s.endSnag p k).addRecord r).trapStop p k b r

/-- The issuing context takes a trap at its group's issue. -/
def State.takeTrap (r : ErrRecord) (s : State) : State := s.trapAt s.core.phys s.core.ctx.id s.now r

/-- A fault of the issuing context detected by the core's issue (engine ID 0). -/
def State.fault (s : State) (code object : Nat) (aux0 aux1 : Word) : ErrRecord :=
  s.record s.core.phys s.core.ctx.id code 3 0 object aux0 aux1 none

/-- The same with an engine ID and an address. -/
def State.faultOf (s : State) (code engine object : Nat) (aux0 aux1 : Word) (addr : Option (Nat × Nat × Nat)) : ErrRecord :=
  s.record s.core.phys s.core.ctx.id code 3 engine object aux0 aux1 addr

/-! ## Returning to the bay's entry (R59, R60, R92, R186, R204) -/

/-- Whether an event belongs to a bay of a context and is undone with it: results in flight, drain-to-lanes columns,
port slots, mma landings and slice loads. -/
def inBay (p k bay : Nat) : Instr → Bool
  | .registerResultLand l => l.core == p && l.ctx == k && l.bay == bay
  | .dustSheetLand l => l.core == p && l.ctx == k && l.bay == bay
  | .mmaDrainLand d => d.core == p && d.ctx == k && d.bay == bay
  | .accPortPerform o => o.core == p && o.ctx == k && o.bay == bay
  | .mmaRowLand r => r.core == p && r.ctx == k && r.bay == bay
  | .mmaExtraRowLand r => r.core == p && r.ctx == k && r.bay == bay
  | .bldLand b => b.core == p && b.ctx == k && b.bay == bay
  | _ => false

/-- Accumulator row as stored; an unlisted row is +0 (R198). -/
def Core.accRow (c : Core) (b r : Nat) : Lanes :=
  ((c.acc.find? (fun x => x.bank == b && x.row == r)).map (·.val)).getD Lanes.zero

/-- Replace an accumulator row; a row of +0 that no landing wrote is not listed. -/
def Core.setAcc (b r : Nat) (x : Lanes) (fmt : Option Nat) (c : Core) : Core :=
  let rest := c.acc.filter (fun y => !(y.bank == b && y.row == r))
  if x = Lanes.zero ∧ fmt = none then { c with acc := rest }
  else { c with acc := { bank := b, row := r, val := x, fmt := fmt } :: rest }

/-- Undo a ring's part in the bay: indices from the shadow, the bay's pops and reservations taken back (R186). -/
def Ring.restore (k bay : Nat) (o : Option RingIdx) (r : Ring) : Ring :=
  let r := match o with
    | none => r
    | some i =>
      { r with head := i.head, tail := i.tail, hr := i.hr, pops := i.pops }
  { r with
    pr := r.pr - BitVec.ofNat 16 ((r.resv.filter (fun v => v.ctx == k && v.bay == bay)).length)
    resv := r.resv.filter (fun v => !(v.ctx == k && v.bay == bay)) }

/-- The context's and core's state as it stood at bay entry; the entry group issues again at c + 4. -/
def Core.rewind (k : Nat) (now : Nat) (c : Core) : Core :=
  let x := c.ctxAt k
  let sh := x.shadow
  let bay := x.bay.serial
  let c : Core :=
    { c with
      rings := (List.range 16).foldl (fun (rs : Vector Ring 16) n =>
        vmod rs n (Ring.restore k bay ((sh.rings.find? (fun (y : Nat × RingIdx) => y.1 == n)).map (·.2)))) c.rings
      roles := sh.roles.getD c.roles
      board := sh.board.foldl (fun (b : Vector TEntry 64) y => b.setIfInBounds y.1 y.2) c.board
      banks := sh.banks.foldl (fun (b : Vector Byte 32) y => b.setIfInBounds y.1 y.2) c.banks
      link := { c.link with cmds := c.link.cmds.filter fun l =>
        !(l.ctx == k && l.bay == bay && !l.armed && (l.op == .recv || l.op == .allred || l.op == .agfwd)) } }
  let c := x.journal.foldl (fun c j => match j.old with
    | none => c
    | some v => c.setAcc j.bank j.row v.1 v.2) c
  c.updCtx k fun x =>
    { x with
      regs := sh.regs, spill := sh.spill, gate := [], gateNotes := [], enq := [], journal := [], post := [],
      dust := x.dust.filter (fun d => d.land.bay != bay), drain := x.drain.filter (fun d => d.elem.bay != bay)
      flow := { x.flow with
        bundle := sh.bundle, pos := sh.pos, xfer := sh.xfer, roll := sh.roll, sync := none, ilkExit := none,
        needMark := false, held := none, heldFrom := none, hold := sh.hold, nextAt := now + 4 }
      bay := { x.bay with groups := 0, redo := true, swapped := false, publish := [] }
      shadow := { sh with rings := [], roles := none, board := [], banks := [], table := [], reserved := [] } }

/-- Whether the event was already recovered at this group of the bay (R60). -/
def Bay.again (b : Bay) (code : Nat) : Bool := b.seen.contains (code, b.groups)

/-- ISSUE, and ISSUE plus LAND, of a sample entry (R345). -/
def sampleIssue (e : List Byte) : Nat := leVal ((e.drop 16).take 8)
def sampleEnd (e : List Byte) : Nat := sampleIssue e + leVal ((e.drop 24).take 2)

/-- Whether a sample entry is one of a context. -/
def sampleOf (p k : Nat) : Instr → Bool
  | .sampleEntryWrite q e => q == p && leVal ((e.drop 2).take 1) % 4 == k
  | _ => false

/-- Whether an event is the sample entry of a group that a context issued at or after a cycle. -/
def sampleSince (p k t : Nat) : Instr → Bool
  | .sampleEntryWrite q e => sampleOf p k (.sampleEntryWrite q e) && decide (t ≤ sampleIssue e)
  | _ => false

/-- Roll the issuing context back: the record of severity recovered, the rewind, the re-issue at c + 4. -/
def State.rollback (r : ErrRecord) (s : State) : State :=
  let p := s.core.phys
  let k := s.core.ctx.id
  let sh := s.core.ctx.shadow
  let bay := s.core.ctx.bay.serial
  let s := (s.endSnag p k).addRecord { r with sev := 1 }
  let s := (s.cancel (inBay p k bay)).cancel (sampleSince p k (s.core.ctx.bay.first.getD s.now))
  let s := sh.reserved.foldl (fun t x => t.updCore x.1 fun c => { c with reserved := c.reserved.filter (· != x.2) }) s
  let s := s.onCtx fun c =>
    { c with bay := { c.bay with seen := (r.code, c.bay.groups) :: c.bay.seen, first := c.bay.first.orElse fun _ => some s.now } }
  let s := s.onCore (Core.rewind k s.now)
  let s := s.onCtx fun c => { c with status := .recover r }
  s.schedule (s.now + 4) phReg (.bayReexecute p k)

/-- A recoverable event: a rollback the first time, the fault when the same event comes again at the same group (R60,
R73, R153, R240), and at once in the group of a commit point (R169). -/
def State.recoverable (r : ErrRecord) (s : State) : State :=
  if s.core.ctx.bay.again r.code || s.core.ctx.commitGroup then s.takeTrap r else s.rollback r

/-! ## What a slot's checks find -/

/-- The outcome of a slot's checks at issue. -/
inductive Verdict where
  | go
  | trap (r : ErrRecord)
  | hold (h : Hold)
  | recover (r : ErrRecord)
  /-- an access that R261 names a data race -/
  | race
deriving DecidableEq, Repr

/-- The first check that does not pass. -/
def Verdict.andThen (a : Verdict) (b : Unit → Verdict) : Verdict :=
  match a with
  | .go => b ()
  | v => v

/-- The first of a list of checks that does not pass. -/
def firstOf : List Verdict → Verdict
  | [] => .go
  | .go :: r => firstOf r
  | v :: _ => v

def Verdict.require (ok : Bool) (r : ErrRecord) : Verdict := if ok then .go else .trap r

/-- The group is withheld in this cycle (R52, R221). -/
def State.withhold (h : Hold) (s : State) : State := s.onCtx fun c => { c with status := .held h, post := [] }

/-- What follows from a slot's checks: its effect, or the trap, the wait, the rollback. -/
def Verdict.settle (v : Verdict) (eff : State → State) (s : State) : Host.Outcome State Fault Refusal :=
  match v with
  | .go => .next (eff s)
  | .trap r => .next (s.takeTrap r)
  | .hold h => .next (s.withhold h)
  | .recover r => .next (s.recoverable r)
  | .race => .fault .dataRace

/-- The capability check (R20, R309): the lowest bit needed that the image did not declare or the core has fenced. -/
def State.capCheck (need : W32) (s : State) : Verdict :=
  match (List.range 32).find? (fun b => need.getLsbD b && !(s.core.ctx.cfg.usem.getLsbD b && s.core.capm.getLsbD b)) with
  | none => .go
  | some b =>
    if !s.core.ctx.cfg.usem.getLsbD b then .trap (s.fault 0x0B02 0 (BitVec.ofNat 64 b) s.core.ctx.cfg.usem)
    else .trap (s.fault 0x0B01 0 (BitVec.ofNat 64 b) s.core.capm)

/-- The lane-group bits 8 to 15 of a group mask (R20). -/
def laneNeed (g : Byte) : W32 := BitVec.ofNat 32 (g.toNat * 256)

/-- A slot: squashed, it does nothing (R78); otherwise its capability check, its own checks, its effect (R353). -/
def State.slot (s : State) (sq : Bool) (need : W32) (chk : State → Verdict) (eff : State → State) :
    Host.Outcome State Fault Refusal :=
  if sq then .next s
  else ((s.capCheck need).andThen fun _ => chk s).settle eff s

/-- A slot that makes no check of its own. -/
def State.plain (s : State) (sq : Bool) (need : W32) (eff : State → State) : Host.Outcome State Fault Refusal :=
  s.slot sq need (fun _ => .go) eff

end Sys2Proof.Machine
end

