-- ==== Sys2Proof/Machine/Operands.lean ====
section
/-! DEFINITION. What a slot names: its class and gate, the registers it reads and writes (R45), the capability bits it
needs (R20), the places its addresses denote (R142, R144), and whether the context may access them (R146, R168, R239). -/

namespace Sys2Proof.Machine

/-! ## Class, gate and mask -/

/-- Class of a slot, 1 to 14 in the order of R42; 0 for an event. -/
def clsOf : Instr → Nat
  | .nop _ => 1
  | .add _ _ _ _ _ => 1
  | .sub _ _ _ _ _ => 1
  | .mul _ _ _ _ _ => 1
  | .mulh _ _ _ _ _ => 1
  | .mulhn _ _ _ _ _ => 1
  | .div _ _ _ _ _ => 1
  | .divn _ _ _ _ _ => 1
  | .rem _ _ _ _ _ => 1
  | .remn _ _ _ _ _ => 1
  | .and _ _ _ _ _ => 1
  | .or _ _ _ _ _ => 1
  | .xor _ _ _ _ _ => 1
  | .andn _ _ _ _ _ => 1
  | .shl _ _ _ _ _ => 1
  | .shr _ _ _ _ _ => 1
  | .sar _ _ _ _ _ => 1
  | .rotl _ _ _ _ _ => 1
  | .min _ _ _ _ _ => 1
  | .max _ _ _ _ _ => 1
  | .minn _ _ _ _ _ => 1
  | .maxn _ _ _ _ _ => 1
  | .clz _ _ _ _ => 1
  | .popc _ _ _ _ => 1
  | .cmp _ _ _ _ _ => 1
  | .sel _ _ _ _ => 1
  | .mov _ _ _ _ => 1
  | .addi _ _ _ _ => 1
  | .andi _ _ _ _ => 1
  | .ori _ _ _ _ => 1
  | .xori _ _ _ _ => 1
  | .shli _ _ _ _ => 1
  | .shri _ _ _ _ => 1
  | .sari _ _ _ _ => 1
  | .cmpi _ _ _ _ _ => 1
  | .movi _ _ _ => 1
  | .movhi _ _ _ => 1
  | .rds _ _ _ => 1
  | .wrs _ _ _ => 1
  | .stgw _ _ _ => 1
  | .stgr _ _ _ => 1
  | .gmsetReg _ _ _ => 1
  | .gmsetImm _ _ _ => 1
  | .amkLocation _ _ _ _ => 1
  | .amkRegister _ _ _ _ _ => 1
  | .aaddImm _ _ _ _ => 1
  | .aaddReg _ _ _ _ => 1
  | .fadd _ _ _ _ _ _ _ => 2
  | .fsub _ _ _ _ _ _ _ => 2
  | .fmul _ _ _ _ _ _ _ => 2
  | .fma _ _ _ _ _ _ _ => 2
  | .fms _ _ _ _ _ _ _ => 2
  | .fnma _ _ _ _ _ _ _ => 2
  | .fmin _ _ _ _ _ _ => 2
  | .fmax _ _ _ _ _ _ => 2
  | .fneg _ _ _ _ _ => 2
  | .fabs _ _ _ _ _ => 2
  | .fcmp _ _ _ _ _ _ _ => 2
  | .fclass _ _ _ _ _ _ => 2
  | .iadd _ _ _ _ _ _ _ => 2
  | .isub _ _ _ _ _ _ _ => 2
  | .imul _ _ _ _ _ _ => 2
  | .imulh _ _ _ _ _ _ => 2
  | .iand _ _ _ _ _ _ => 2
  | .ior _ _ _ _ _ _ => 2
  | .ixor _ _ _ _ _ _ => 2
  | .iandn _ _ _ _ _ _ => 2
  | .ishl _ _ _ _ _ _ => 2
  | .ishlImm _ _ _ _ _ _ => 2
  | .ishr _ _ _ _ _ _ => 2
  | .ishrImm _ _ _ _ _ _ => 2
  | .isar _ _ _ _ _ _ => 2
  | .isarImm _ _ _ _ _ _ => 2
  | .imin _ _ _ _ _ _ => 2
  | .imax _ _ _ _ _ _ => 2
  | .icmp _ _ _ _ _ _ _ => 2
  | .vmov _ _ _ _ => 2
  | .vsel _ _ _ _ _ => 2
  | .vbcast _ _ _ _ _ => 2
  | .vlane _ _ _ _ _ => 2
  | .vidx _ _ _ => 2
  | .vperm _ _ _ _ _ => 2
  | .vred _ _ _ _ _ => 2
  | .xg _ _ _ _ _ => 2
  | .cvt _ _ _ _ _ _ _ _ _ => 2
  | .qnt _ _ _ _ _ _ _ _ _ => 2
  | .dqnt _ _ _ _ _ _ _ _ _ => 2
  | .pack _ _ _ _ _ _ => 2
  | .unpack _ _ _ _ _ _ _ => 2
  | .vskim _ _ _ => 2
  | .vbern _ _ _ _ => 2
  | .vrand _ _ _ => 2
  | .vimm _ _ _ _ _ => 2
  | .frcp _ _ _ _ _ => 3
  | .fdiv _ _ _ _ _ _ => 3
  | .fsqrt _ _ _ _ _ => 3
  | .frsqrt _ _ _ _ _ => 3
  | .fexp2 _ _ _ _ _ => 3
  | .flog2 _ _ _ _ _ => 3
  | .lds _ _ _ _ _ => 4
  | .sts _ _ _ _ _ => 4
  | .ldv _ _ _ _ _ _ => 4
  | .stv _ _ _ _ _ _ => 4
  | .ldvq _ _ _ _ _ _ => 4
  | .stvq _ _ _ _ _ _ => 4
  | .ldsp _ _ _ => 4
  | .stsp _ _ _ => 4
  | .ldvsp _ _ _ _ => 4
  | .stvsp _ _ _ _ => 4
  | .ldx _ _ _ _ _ _ => 4
  | .stx _ _ _ _ _ _ => 4
  | .ldh _ _ _ _ _ => 4
  | .sth _ _ _ _ _ => 4
  | .xlat _ _ _ => 4
  | .hinv _ _ => 4
  | .drain _ => 4
  | .br _ _ => 5
  | .brr _ _ => 5
  | .call _ _ => 5
  | .ret _ => 5
  | .loop _ _ _ _ _ => 5
  | .loopi _ _ _ _ _ => 5
  | .lbreak _ _ => 5
  | .roll _ _ => 5
  | .yield => 5
  | .halt => 5
  | .mma _ _ _ _ _ _ _ _ _ => 6
  | .mmaz _ _ _ _ _ _ _ _ _ => 6
  | .mmaDl _ _ _ _ _ _ _ => 6
  | .mmazDl _ _ _ _ _ _ _ => 6
  | .bld _ _ _ => 6
  | .bswap _ => 6
  | .qpop _ _ _ => 6
  | .qadv _ _ _ => 6
  | .qrst _ _ => 6
  | .accrd _ _ _ _ _ => 7
  | .accwr _ _ _ _ _ => 7
  | .accadd _ _ _ _ _ => 7
  | .accclr _ _ _ _ => 7
  | .cp _ _ => 8
  | .cpq _ _ _ => 8
  | .tmv _ _ => 8
  | .cpfill _ _ => 8
  | .cpchain _ _ => 8
  | .cphalt _ => 8
  | .saenq _ _ _ _ _ _ => 9
  | .sarun _ _ => 9
  | .saflush _ => 9
  | .sawin _ _ => 9
  | .send _ _ _ => 10
  | .put _ _ _ => 10
  | .recv _ _ _ => 10
  | .allred _ _ _ => 10
  | .agfwd _ _ _ => 10
  | .agg _ _ => 11
  | .aggq _ _ _ _ => 11
  | .tlend _ _ _ => 12
  | .tret _ _ => 12
  | .tsplit _ _ _ _ => 12
  | .tjoin _ _ _ => 12
  | .tshare _ _ _ => 12
  | .tunshare _ _ _ => 12
  | .tprobe _ _ _ => 12
  | .tcleanKeep _ _ => 12
  | .tcleanZero _ _ => 12
  | .bkalloc _ _ => 12
  | .bkallocNamed _ _ _ _ => 12
  | .bkfree _ _ => 12
  | .scld _ _ _ => 13
  | .scldb _ _ _ => 13
  | .zpclr _ => 13
  | .sync _ _ => 14
  | .mark _ => 14
  | .hold _ => 14
  | .ckeq _ _ _ => 14
  | .ckeqv _ _ _ _ => 14
  | .ckeqp _ _ _ => 14
  | .trap _ _ => 14
  | .brk _ _ => 14
  | .wflag _ _ _ _ _ => 14
  | .tflag _ _ _ _ _ _ => 14
  | _ => 0

/-- The lend word of a slot that takes one (R41, R42); a nop's predicate changes nothing (R99). -/
def gateOf : Instr → Option Gate
  | .add g _ _ _ _ => some g
  | .sub g _ _ _ _ => some g
  | .mul g _ _ _ _ => some g
  | .mulh g _ _ _ _ => some g
  | .mulhn g _ _ _ _ => some g
  | .div g _ _ _ _ => some g
  | .divn g _ _ _ _ => some g
  | .rem g _ _ _ _ => some g
  | .remn g _ _ _ _ => some g
  | .and g _ _ _ _ => some g
  | .or g _ _ _ _ => some g
  | .xor g _ _ _ _ => some g
  | .andn g _ _ _ _ => some g
  | .shl g _ _ _ _ => some g
  | .shr g _ _ _ _ => some g
  | .sar g _ _ _ _ => some g
  | .rotl g _ _ _ _ => some g
  | .min g _ _ _ _ => some g
  | .max g _ _ _ _ => some g
  | .minn g _ _ _ _ => some g
  | .maxn g _ _ _ _ => some g
  | .clz g _ _ _ => some g
  | .popc g _ _ _ => some g
  | .cmp g _ _ _ _ => some g
  | .sel g _ _ _ => some g
  | .mov g _ _ _ => some g
  | .addi g _ _ _ => some g
  | .andi g _ _ _ => some g
  | .ori g _ _ _ => some g
  | .xori g _ _ _ => some g
  | .shli g _ _ _ => some g
  | .shri g _ _ _ => some g
  | .sari g _ _ _ => some g
  | .cmpi g _ _ _ _ => some g
  | .movi g _ _ => some g
  | .movhi g _ _ => some g
  | .rds g _ _ => some g
  | .wrs g _ _ => some g
  | .stgw g _ _ => some g
  | .stgr g _ _ => some g
  | .gmsetReg g _ _ => some g
  | .gmsetImm g _ _ => some g
  | .amkLocation g _ _ _ => some g
  | .amkRegister g _ _ _ _ => some g
  | .aaddImm g _ _ _ => some g
  | .aaddReg g _ _ _ => some g
  | .fadd g _ _ _ _ _ _ => some g
  | .fsub g _ _ _ _ _ _ => some g
  | .fmul g _ _ _ _ _ _ => some g
  | .fma g _ _ _ _ _ _ => some g
  | .fms g _ _ _ _ _ _ => some g
  | .fnma g _ _ _ _ _ _ => some g
  | .fmin g _ _ _ _ _ => some g
  | .fmax g _ _ _ _ _ => some g
  | .fneg g _ _ _ _ => some g
  | .fabs g _ _ _ _ => some g
  | .fcmp g _ _ _ _ _ _ => some g
  | .fclass g _ _ _ _ _ => some g
  | .iadd g _ _ _ _ _ _ => some g
  | .isub g _ _ _ _ _ _ => some g
  | .imul g _ _ _ _ _ => some g
  | .imulh g _ _ _ _ _ => some g
  | .iand g _ _ _ _ _ => some g
  | .ior g _ _ _ _ _ => some g
  | .ixor g _ _ _ _ _ => some g
  | .iandn g _ _ _ _ _ => some g
  | .ishl g _ _ _ _ _ => some g
  | .ishlImm g _ _ _ _ _ => some g
  | .ishr g _ _ _ _ _ => some g
  | .ishrImm g _ _ _ _ _ => some g
  | .isar g _ _ _ _ _ => some g
  | .isarImm g _ _ _ _ _ => some g
  | .imin g _ _ _ _ _ => some g
  | .imax g _ _ _ _ _ => some g
  | .icmp g _ _ _ _ _ _ => some g
  | .vmov g _ _ _ => some g
  | .vsel g _ _ _ _ => some g
  | .vbcast g _ _ _ _ => some g
  | .vlane g _ _ _ _ => some g
  | .vidx g _ _ => some g
  | .vperm g _ _ _ _ => some g
  | .vred g _ _ _ _ => some g
  | .xg g _ _ _ _ => some g
  | .cvt g _ _ _ _ _ _ _ _ => some g
  | .qnt g _ _ _ _ _ _ _ _ => some g
  | .dqnt g _ _ _ _ _ _ _ _ => some g
  | .pack g _ _ _ _ _ => some g
  | .unpack g _ _ _ _ _ _ => some g
  | .vskim g _ _ => some g
  | .vbern g _ _ _ => some g
  | .vrand g _ _ => some g
  | .vimm g _ _ _ _ => some g
  | .frcp g _ _ _ _ => some g
  | .fdiv g _ _ _ _ _ => some g
  | .fsqrt g _ _ _ _ => some g
  | .frsqrt g _ _ _ _ => some g
  | .fexp2 g _ _ _ _ => some g
  | .flog2 g _ _ _ _ => some g
  | .lds g _ _ _ _ => some g
  | .sts g _ _ _ _ => some g
  | .ldv g _ _ _ _ _ => some g
  | .stv g _ _ _ _ _ => some g
  | .ldvq g _ _ _ _ _ => some g
  | .stvq g _ _ _ _ _ => some g
  | .ldsp g _ _ => some g
  | .stsp g _ _ => some g
  | .ldvsp g _ _ _ => some g
  | .stvsp g _ _ _ => some g
  | .ldx g _ _ _ _ _ => some g
  | .stx g _ _ _ _ _ => some g
  | .ldh g _ _ _ _ => some g
  | .sth g _ _ _ _ => some g
  | .xlat g _ _ => some g
  | .hinv g _ => some g
  | .drain g => some g
  | .br g _ => some g
  | .brr g _ => some g
  | .call g _ => some g
  | .ret g => some g
  | .lbreak g _ => some g
  | .mma g _ _ _ _ _ _ _ _ => some g
  | .mmaz g _ _ _ _ _ _ _ _ => some g
  | .mmaDl g _ _ _ _ _ _ => some g
  | .mmazDl g _ _ _ _ _ _ => some g
  | .bld g _ _ => some g
  | .bswap g => some g
  | .qpop g _ _ => some g
  | .qadv g _ _ => some g
  | .qrst g _ => some g
  | .accrd g _ _ _ _ => some g
  | .accwr g _ _ _ _ => some g
  | .accadd g _ _ _ _ => some g
  | .accclr g _ _ _ => some g
  | .cp g _ => some g
  | .cpq g _ _ => some g
  | .tmv g _ => some g
  | .cpfill g _ => some g
  | .cpchain g _ => some g
  | .cphalt g => some g
  | .saenq g _ _ _ _ _ => some g
  | .sarun g _ => some g
  | .saflush g => some g
  | .sawin g _ => some g
  | .send g _ _ => some g
  | .put g _ _ => some g
  | .recv g _ _ => some g
  | .allred g _ _ => some g
  | .agfwd g _ _ => some g
  | .agg g _ => some g
  | .aggq g _ _ _ => some g
  | .tlend g _ _ => some g
  | .tret g _ => some g
  | .tsplit g _ _ _ => some g
  | .tjoin g _ _ => some g
  | .tshare g _ _ => some g
  | .tunshare g _ _ => some g
  | .tprobe g _ _ => some g
  | .tcleanKeep g _ => some g
  | .tcleanZero g _ => some g
  | .bkalloc g _ => some g
  | .bkallocNamed g _ _ _ => some g
  | .bkfree g _ => some g
  | .scld g _ _ => some g
  | .scldb g _ _ => some g
  | .zpclr g => some g
  | .ckeq g _ _ => some g
  | .ckeqv g _ _ _ => some g
  | .ckeqp g _ _ => some g
  | .trap g _ => some g
  | .brk g _ => some g
  | .wflag g _ _ _ _ => some g
  | .tflag g _ _ _ _ _ => some g
  | _ => none

/-- The lane-group mask selector of a slot that takes one (R42). -/
def maskOf? : Instr → Option (Fin 8)
  | .fadd _ m _ _ _ _ _ => some m
  | .fsub _ m _ _ _ _ _ => some m
  | .fmul _ m _ _ _ _ _ => some m
  | .fma _ m _ _ _ _ _ => some m
  | .fms _ m _ _ _ _ _ => some m
  | .fnma _ m _ _ _ _ _ => some m
  | .fmin _ m _ _ _ _ => some m
  | .fmax _ m _ _ _ _ => some m
  | .fneg _ m _ _ _ => some m
  | .fabs _ m _ _ _ => some m
  | .fcmp _ m _ _ _ _ _ => some m
  | .fclass _ m _ _ _ _ => some m
  | .iadd _ m _ _ _ _ _ => some m
  | .isub _ m _ _ _ _ _ => some m
  | .imul _ m _ _ _ _ => some m
  | .imulh _ m _ _ _ _ => some m
  | .iand _ m _ _ _ _ => some m
  | .ior _ m _ _ _ _ => some m
  | .ixor _ m _ _ _ _ => some m
  | .iandn _ m _ _ _ _ => some m
  | .ishl _ m _ _ _ _ => some m
  | .ishlImm _ m _ _ _ _ => some m
  | .ishr _ m _ _ _ _ => some m
  | .ishrImm _ m _ _ _ _ => some m
  | .isar _ m _ _ _ _ => some m
  | .isarImm _ m _ _ _ _ => some m
  | .imin _ m _ _ _ _ => some m
  | .imax _ m _ _ _ _ => some m
  | .icmp _ m _ _ _ _ _ => some m
  | .vmov _ m _ _ => some m
  | .vsel _ m _ _ _ => some m
  | .vbcast _ m _ _ _ => some m
  | .vlane _ m _ _ _ => some m
  | .vidx _ m _ => some m
  | .vperm _ m _ _ _ => some m
  | .vred _ m _ _ _ => some m
  | .xg _ m _ _ _ => some m
  | .cvt _ m _ _ _ _ _ _ _ => some m
  | .qnt _ m _ _ _ _ _ _ _ => some m
  | .dqnt _ m _ _ _ _ _ _ _ => some m
  | .pack _ m _ _ _ _ => some m
  | .unpack _ m _ _ _ _ _ => some m
  | .vskim _ m _ => some m
  | .vbern _ m _ _ => some m
  | .vrand _ m _ => some m
  | .vimm _ m _ _ _ => some m
  | .frcp _ m _ _ _ => some m
  | .fdiv _ m _ _ _ _ => some m
  | .fsqrt _ m _ _ _ => some m
  | .frsqrt _ m _ _ _ => some m
  | .fexp2 _ m _ _ _ => some m
  | .flog2 _ m _ _ _ => some m
  | .ldv _ m _ _ _ _ => some m
  | .stv _ m _ _ _ _ => some m
  | .ldvq _ m _ _ _ _ => some m
  | .stvq _ m _ _ _ _ => some m
  | .ldvsp _ m _ _ => some m
  | .stvsp _ m _ _ => some m
  | .ldx _ m _ _ _ _ => some m
  | .stx _ m _ _ _ _ => some m
  | .accrd _ m _ _ _ => some m
  | .accwr _ m _ _ _ => some m
  | .accadd _ m _ _ _ => some m
  | .accclr _ m _ _ => some m
  | .saenq _ m _ _ _ _ => some m
  | .ckeqv _ m _ _ => some m
  | _ => none

/-- sel and vsel use their lend word as a selector, the relative branches and lbreak as a condition (R42, R77). -/
def ungated : Instr → Bool
  | .sel _ _ _ _ => true
  | .vsel _ _ _ _ _ => true
  | _ => false

/-- Whether a slot is squashed (R78); a branch or lbreak whose condition is not true changes nothing either. -/
def squashed (i : Instr) (c : Ctx) : Bool :=
  match maskOf? i, gateOf i with
  | some m, some g => (if ungated i then groupLanes (c.rgm m) else c.active g m) == 0
  | _, some g =>
    match i with
    | .sel _ _ _ _ => false
    | .ckeqp _ _ _ => c.gateLanes g == 0
    | _ => !c.gate0 g
  | _, none => false

/-! ## Registers read and written (R45) -/

/-- A register as a slot names it; special registers by number. -/
inductive Reg where
  | s (n : Nat)
  | p (n : Nat)
  | v (n : Nat)
  | a (n : Nat)
  | h (n : Nat)
  | gm (n : Nat)
  | sp (n : Nat)
deriving DecidableEq, Repr

/-- Reads of s0 and p0 give the fixed value (R45). -/
def sr (n : Fin 64) : List Reg := if n = 0 then [] else [.s n.val]
def pr (n : Fin 32) : List Reg := if n = 0 then [] else [.p n.val]
def vr (n : Fin 32) : List Reg := [.v n.val]

/-- Data operands of a slot; a gate or a branch condition is none (R45). -/
def readsOf : Instr → List Reg
  | .add _ _ a b _ => sr a ++ sr b
  | .sub _ _ a b _ => sr a ++ sr b
  | .mul _ _ a b _ => sr a ++ sr b
  | .mulh _ _ a b _ => sr a ++ sr b
  | .mulhn _ _ a b _ => sr a ++ sr b
  | .div _ _ a b _ => sr a ++ sr b
  | .divn _ _ a b _ => sr a ++ sr b
  | .rem _ _ a b _ => sr a ++ sr b
  | .remn _ _ a b _ => sr a ++ sr b
  | .and _ _ a b _ => sr a ++ sr b
  | .or _ _ a b _ => sr a ++ sr b
  | .xor _ _ a b _ => sr a ++ sr b
  | .andn _ _ a b _ => sr a ++ sr b
  | .shl _ _ a b _ => sr a ++ sr b
  | .shr _ _ a b _ => sr a ++ sr b
  | .sar _ _ a b _ => sr a ++ sr b
  | .rotl _ _ a b _ => sr a ++ sr b
  | .min _ _ a b _ => sr a ++ sr b
  | .max _ _ a b _ => sr a ++ sr b
  | .minn _ _ a b _ => sr a ++ sr b
  | .maxn _ _ a b _ => sr a ++ sr b
  | .clz _ _ a _ => sr a
  | .popc _ _ a _ => sr a
  | .cmp _ _ a b _ => sr a ++ sr b
  | .sel g _ a b => pr g.p ++ (sr a ++ sr b)
  | .mov _ _ a _ => sr a
  | .addi _ _ a _ => sr a
  | .andi _ _ a _ => sr a
  | .ori _ _ a _ => sr a
  | .xori _ _ a _ => sr a
  | .shli _ _ a _ => sr a
  | .shri _ _ a _ => sr a
  | .sari _ _ a _ => sr a
  | .cmpi _ _ a _ _ => sr a
  | .movhi _ d _ => sr d
  | .rds _ _ r => [.sp r.toNat]
  | .wrs _ a _ => sr a
  | .stgw _ a _ => sr a
  | .gmsetReg _ _ a => sr a
  | .amkRegister _ _ _ a b => sr a ++ sr b
  | .aaddImm _ _ a _ => [.a a.val]
  | .aaddReg _ _ a b => .a a.val :: sr b
  | .fadd _ _ _ _ a b _ => vr a ++ vr b
  | .fsub _ _ _ _ a b _ => vr a ++ vr b
  | .fmul _ _ _ _ a b _ => vr a ++ vr b
  | .fma _ _ _ d a b _ => vr d ++ (vr a ++ vr b)
  | .fms _ _ _ d a b _ => vr d ++ (vr a ++ vr b)
  | .fnma _ _ _ d a b _ => vr d ++ (vr a ++ vr b)
  | .fmin _ _ _ _ a b => vr a ++ vr b
  | .fmax _ _ _ _ a b => vr a ++ vr b
  | .fneg _ _ _ _ a => vr a
  | .fabs _ _ _ _ a => vr a
  | .fcmp _ _ _ _ a b _ => vr a ++ vr b
  | .fclass _ _ _ _ a _ => vr a
  | .iadd _ _ _ _ a b _ => vr a ++ vr b
  | .isub _ _ _ _ a b _ => vr a ++ vr b
  | .imul _ _ _ _ a b => vr a ++ vr b
  | .imulh _ _ _ _ a b => vr a ++ vr b
  | .iand _ _ _ _ a b => vr a ++ vr b
  | .ior _ _ _ _ a b => vr a ++ vr b
  | .ixor _ _ _ _ a b => vr a ++ vr b
  | .iandn _ _ _ _ a b => vr a ++ vr b
  | .ishl _ _ _ _ a b => vr a ++ vr b
  | .ishlImm _ _ _ _ a _ => vr a
  | .ishr _ _ _ _ a b => vr a ++ vr b
  | .ishrImm _ _ _ _ a _ => vr a
  | .isar _ _ _ _ a b => vr a ++ vr b
  | .isarImm _ _ _ _ a _ => vr a
  | .imin _ _ _ _ a b => vr a ++ vr b
  | .imax _ _ _ _ a b => vr a ++ vr b
  | .icmp _ _ _ _ a b _ => vr a ++ vr b
  | .vmov _ _ _ a => vr a
  | .vsel g _ _ a b => pr g.p ++ (vr a ++ vr b)
  | .vbcast _ _ _ a _ => sr a
  | .vlane _ _ _ a _ => vr a
  | .vperm _ _ _ a b => vr a ++ vr b
  | .vred _ _ _ _ a => vr a
  | .xg _ _ _ a _ => vr a
  | .cvt _ _ _ _ _ a _ _ _ => vr a
  | .qnt _ _ _ _ _ a _ _ _ => [.v a.val, .v (a.val + 1)]
  | .dqnt _ _ _ _ _ a _ _ _ => [.v a.val, .v (a.val + 1)]
  | .pack _ _ _ d a _ => vr d ++ vr a
  | .unpack _ _ _ _ a _ _ => vr a
  | .vskim _ _ p => pr p
  | .vbern _ _ _ a => sr a
  | .frcp _ _ _ _ a => vr a
  | .fdiv _ _ _ _ a b => vr a ++ vr b
  | .fsqrt _ _ _ _ a => vr a
  | .frsqrt _ _ _ _ a => vr a
  | .fexp2 _ _ _ _ a => vr a
  | .flog2 _ _ _ _ a => vr a
  | .lds _ _ n _ _ => [.a n.val]
  | .sts _ d n _ _ => .a n.val :: sr d
  | .ldv _ _ _ n _ _ => [.a n.val]
  | .stv _ _ d n _ _ => .a n.val :: vr d
  | .ldvq _ _ _ n _ _ => [.a n.val]
  | .stvq _ _ d n _ _ => [.a n.val, .v d.val, .v (d.val + 1), .v (d.val + 2), .v (d.val + 3)]
  | .stsp _ d _ => sr d
  | .stvsp _ _ d _ => vr d
  | .ldx _ _ _ n v _ => .a n.val :: vr v
  | .stx _ _ d n v _ => .a n.val :: (vr d ++ vr v)
  | .ldh _ _ n _ _ => [.a n.val]
  | .sth _ d n _ _ => .a n.val :: sr d
  | .xlat _ _ a => sr a
  | .brr _ a => sr a
  | .ret _ => [.sp 0x12]
  | .loop _ c _ _ _ => sr c
  | .accwr _ _ d _ _ => vr d
  | .accadd _ _ d _ _ => vr d
  | .saenq _ _ i v _ _ => vr i ++ vr v
  | .tlend _ _ a => sr a
  | .tsplit _ _ _ a => sr a
  | .tshare _ _ a => sr a
  | .tunshare _ _ a => sr a
  | .scld _ n _ => [.a n.val]
  | .scldb _ n _ => [.a n.val]
  | .sync d _ => [.sp (0x20 + d.val)]
  | .ckeq _ a b => sr a ++ sr b
  | .ckeqv _ _ a b => vr a ++ vr b
  | .ckeqp _ a b => pr a ++ pr b
  | .wflag _ n a _ _ => .a n.val :: sr a
  | .tflag _ _ n a _ _ => .a n.val :: sr a
  | _ => []

/-- Registers a slot writes; those of s0 and p0 are discarded (R45). DESIGN CHOICE: staging words stand in no list of R43 or R45, so
two stgw of one word in one group are legal here, and the value of the later position stands (log 9). -/
def writesOf : Instr → List Reg
  | .add _ d _ _ _ => sr d
  | .sub _ d _ _ _ => sr d
  | .mul _ d _ _ _ => sr d
  | .mulh _ d _ _ _ => sr d
  | .mulhn _ d _ _ _ => sr d
  | .div _ d _ _ _ => sr d
  | .divn _ d _ _ _ => sr d
  | .rem _ d _ _ _ => sr d
  | .remn _ d _ _ _ => sr d
  | .and _ d _ _ _ => sr d
  | .or _ d _ _ _ => sr d
  | .xor _ d _ _ _ => sr d
  | .andn _ d _ _ _ => sr d
  | .shl _ d _ _ _ => sr d
  | .shr _ d _ _ _ => sr d
  | .sar _ d _ _ _ => sr d
  | .rotl _ d _ _ _ => sr d
  | .min _ d _ _ _ => sr d
  | .max _ d _ _ _ => sr d
  | .minn _ d _ _ _ => sr d
  | .maxn _ d _ _ _ => sr d
  | .clz _ d _ _ => sr d
  | .popc _ d _ _ => sr d
  | .cmp _ p _ _ _ => pr p
  | .sel _ d _ _ => sr d
  | .mov _ d _ _ => sr d
  | .addi _ d _ _ => sr d
  | .andi _ d _ _ => sr d
  | .ori _ d _ _ => sr d
  | .xori _ d _ _ => sr d
  | .shli _ d _ _ => sr d
  | .shri _ d _ _ => sr d
  | .sari _ d _ _ => sr d
  | .cmpi _ p _ _ _ => pr p
  | .movi _ d _ => sr d
  | .movhi _ d _ => sr d
  | .rds _ d _ => sr d
  | .wrs _ _ r => [.sp r.toNat]
  | .sync d _ => [.sp (0x20 + d.val)]
  | .stgr _ d _ => sr d
  | .gmsetReg _ d _ => [.gm d.val]
  | .gmsetImm _ d _ => [.gm d.val]
  | .amkLocation _ d _ _ => [.a d.val]
  | .amkRegister _ d _ _ _ => [.a d.val]
  | .aaddImm _ d _ _ => [.a d.val]
  | .aaddReg _ d _ _ => [.a d.val]
  | .fadd _ _ _ d _ _ _ => vr d
  | .fsub _ _ _ d _ _ _ => vr d
  | .fmul _ _ _ d _ _ _ => vr d
  | .fma _ _ _ d _ _ _ => vr d
  | .fms _ _ _ d _ _ _ => vr d
  | .fnma _ _ _ d _ _ _ => vr d
  | .fmin _ _ _ d _ _ => vr d
  | .fmax _ _ _ d _ _ => vr d
  | .fneg _ _ _ d _ => vr d
  | .fabs _ _ _ d _ => vr d
  | .fcmp _ _ _ p _ _ _ => pr p
  | .fclass _ _ _ p _ _ => pr p
  | .iadd _ _ _ d _ _ _ => vr d
  | .isub _ _ _ d _ _ _ => vr d
  | .imul _ _ _ d _ _ => vr d
  | .imulh _ _ _ d _ _ => vr d
  | .iand _ _ _ d _ _ => vr d
  | .ior _ _ _ d _ _ => vr d
  | .ixor _ _ _ d _ _ => vr d
  | .iandn _ _ _ d _ _ => vr d
  | .ishl _ _ _ d _ _ => vr d
  | .ishlImm _ _ _ d _ _ => vr d
  | .ishr _ _ _ d _ _ => vr d
  | .ishrImm _ _ _ d _ _ => vr d
  | .isar _ _ _ d _ _ => vr d
  | .isarImm _ _ _ d _ _ => vr d
  | .imin _ _ _ d _ _ => vr d
  | .imax _ _ _ d _ _ => vr d
  | .icmp _ _ _ p _ _ _ => pr p
  | .vmov _ _ d _ => vr d
  | .vsel _ _ d _ _ => vr d
  | .vbcast _ _ d _ _ => vr d
  | .vlane _ _ d _ _ => vr d
  | .vidx _ _ d => vr d
  | .vperm _ _ d _ _ => vr d
  | .vred _ _ _ d _ => vr d
  | .xg _ _ d _ _ => vr d
  | .cvt _ _ _ _ d _ _ _ _ => vr d
  | .qnt _ _ _ _ d _ _ _ _ => vr d
  | .dqnt _ _ _ _ d _ _ _ _ => vr d
  | .pack _ _ _ d _ _ => vr d
  | .unpack _ _ _ d _ _ _ => vr d
  | .vskim _ _ _ => [.sp 0x14]
  | .vbern _ _ p _ => pr p
  | .vrand _ _ d => vr d
  | .vimm _ _ _ d _ => vr d
  | .frcp _ _ _ d _ => vr d
  | .fdiv _ _ _ d _ _ => vr d
  | .fsqrt _ _ _ d _ => vr d
  | .frsqrt _ _ _ d _ => vr d
  | .fexp2 _ _ _ d _ => vr d
  | .flog2 _ _ _ d _ => vr d
  | .lds _ d _ _ _ => sr d
  | .ldv _ _ d _ _ _ => vr d
  | .ldvq _ _ d _ _ _ => [.v d.val, .v (d.val + 1), .v (d.val + 2), .v (d.val + 3)]
  | .ldsp _ d _ => sr d
  | .ldvsp _ _ d _ => vr d
  | .ldx _ _ d _ _ _ => vr d
  | .ldh _ d _ _ _ => sr d
  | .xlat _ h _ => [.h h.val]
  | .hinv _ h => [.h h.val]
  | .call _ _ => [.sp 0x12]
  | .loop l _ _ rot _ => .sp (0x30 + l.val) :: .sp (0x34 + l.val) :: .sp (0x38 + l.val) :: (if rot then [.sp 0x13] else [])
  | .loopi l _ _ rot _ => .sp (0x30 + l.val) :: .sp (0x34 + l.val) :: .sp (0x38 + l.val) :: (if rot then [.sp 0x13] else [])
  | .mmaDl _ _ _ d _ _ _ => (List.range 16).map fun r => .v (d.val + r)
  | .mmazDl _ _ _ d _ _ _ => (List.range 16).map fun r => .v (d.val + r)
  | .accrd _ _ d _ _ => vr d
  | .aggq _ _ d _ => sr d
  | .tprobe _ _ d => sr d
  | .tflag _ p _ _ _ _ => pr p
  | _ => []

/-! ## Capability bits (R20, R122) -/

/-- One bit. -/
def capBit (b : Nat) : W32 := BitVec.ofNat 32 (2 ^ b)

def FFmt.cap : FFmt → W32
  | .f32 => capBit 16
  | .bf16 => capBit 17
  | .f16 => capBit 17

end Sys2Proof.Machine
end

