-- ==== Sys2Proof/Machine/Place.lean ====
section
/-! DEFINITION. Places in memory: where an address of a space stands (R142), whether the context may access it (R144 to
R147, R164 to R168, R239), what a load sees (R148, R253), and the waits of alias classes (R152). -/

namespace Sys2Proof.Machine

/-! ## Encryption of frames (R248)

A sector holds plain bytes in the model; what its key and tweak decide is whether it verifies. -/

/-- FRAME of a translation entry. -/
def entryFrame (e : Word) : Nat := e.toNat / 2 ^ 10 % 2 ^ 17

/-- Key slot and virtual page under which a frame is accessed: those of the valid entry that names it (R236). -/
def State.keyed (s : State) (f : Nat) : Option (Nat × Nat) :=
  s.hub.parts.toList.findSome? fun p =>
    (p.xlat.find? fun e => e.2.getLsbD 0 && entryFrame e.2 == f).map fun e => (e.2.toNat / 2 ^ 3 % 128, e.1)

/-- Whether a slot's binding stands: to a partition, or to a grant whose entry names the slot (R248). -/
def State.bindStands (s : State) (b : KeyBind) : Bool :=
  match b.grant with
  | none => true
  | some i => (((s.partAt b.part).grants[i]?).map (·.key)) == some b.slot

/-- Whether a valid translation entry names a key slot. -/
def State.slotNamed (s : State) (k : Nat) : Bool :=
  (List.range 16).any fun n => (s.partAt n).xlat.any fun e => e.2.getLsbD 0 && e.2.toNat / 2 ^ 3 % 128 == k

/-- Whether a valid entry other than entry k of partition n names a frame. -/
def State.frameNamed (s : State) (f : Nat) (but : Option (Nat × Nat)) : Bool :=
  (List.range 16).any fun n => (s.partAt n).xlat.any fun e => e.2.getLsbD 0 && entryFrame e.2 == f && but != some (n, e.1)

/-- Number of a sector in its frame. -/
def sectorNo (a : Nat) : Nat := a % 2 ^ 21 / 64

/-- What a sector of a frame is encrypted under. -/
def Frame.cipherAt (f : Frame) (k : Nat) : Option (Nat × Nat) :=
  match f.rekeyed.find? fun x => x.1 == k with
  | some x => some x.2
  | none => f.cipher

/-- Key slot and virtual page that an access uses. -/
abbrev CipherKey := Option (Nat × Nat)

/-- Those of the entry that names an address's frame, for an access without a handle. -/
def State.entryKey (s : State) (a : Nat) : CipherKey := (frameOf a).bind s.keyed

/-- A sector that is read under another key or tweak than it was written under. -/
def State.foreign (s : State) (k : CipherKey) (a : Nat) : Bool :=
  match frameOf a with
  | none => false
  | some f =>
    match k, (s.hub.frames.find? fun x => x.num == f).bind (·.cipherAt (sectorNo a)) with
    | some v, some w => v != w
    | _, _ => false

/-- The syndrome that a reader of a sector finds. -/
def State.syndromeAt (s : State) (k : CipherKey) (a : Nat) : W32 := if s.foreign k a then poison else syndrome s.bad a

/-- Bytes of a run as they are decrypted: a foreign sector gives nothing that is known. -/
def State.decrypted (s : State) (k : CipherKey) (a n : Nat) : List Byte :=
  let bs := readRun s.mem a n
  if (sectorsOf a n).any (s.foreign k) then
    bs.zipIdx.map fun x => if s.foreign k (sectorOf (a + x.2)) then Config.garbled s.now (a + x.2) else x.1
  else bs

/-- The sectors of a run that fail verification for a reader, in address order. -/
def State.failing (s : State) (k : CipherKey) (a n : Nat) : List Nat :=
  match frameOf a with
  | none => badIn s.bad a n
  | some _ => (sectorsOf a n).filter fun t => s.syndromeAt k t != 0

/-! ## Homes of frames (R244) -/

def State.frame (s : State) (f : Nat) : Option Frame := s.hub.frames.find? fun x => x.num == f

/-- Cluster whose devices hold a frame. -/
def State.homeOf (s : State) (f : Nat) : Nat := ((s.frame f).map (·.home)).getD 0

/-- Cycles that an access to a frame spends on the links: none for a page on this chip. -/
def State.farTime (s : State) (f : Nat) : Nat :=
  match s.frame f with
  | none => 0
  | some x => if x.far.isSome then Config.linkDelay s.issueSeq else 0

/-- Whether a move of an address's frame is under way: the controllers hold accesses to it (R246). -/
def State.heldByMove (s : State) (as : List Nat) : Bool :=
  as.any fun a => match (frameOf a).bind s.frame with
    | none => false
    | some x => x.moving.isSome

/-! ## Where an address stands -/

/-- The launch a context belongs to. -/
def State.launchOf (s : State) (c : Core) (x : Ctx) : Option Launch :=
  (s.partAt c.partNo).launches.find? (fun l => l.tag == x.cfg.launch)

/-- Physical core on which a launch of a partition runs a logical core. -/
def Part.coreFor (p : Part) (tag lcore : Nat) : Option Nat :=
  (p.launches.find? fun l => l.tag == tag).bind fun l => (l.members.find? fun m => m.2.2 == lcore).map (·.1)

/-- Physical core of a logical core of the context's launch (R142); the context's own core always answers to its own
number. -/
def State.physOfLcore (s : State) (c : Core) (x : Ctx) (n : Nat) : Option Nat :=
  if n = x.cfg.lcore then some c.phys
  else ((s.launchOf c x).bind (fun l => l.members.find? (fun m => m.2.2 == n))).map (·.1)

/-- Fields of a handle (R237). -/
def handleValid (h : Word) : Bool := h.getLsbD 0
def handlePerm (h : Word) : Nat := h.toNat / 2 % 4
def handleFrame (h : Word) : Nat := h.toNat / 2 ^ 10 % 2 ^ 17
def handleMob (h : Word) : Bool := h.getLsbD 27
def handleVpn (h : Word) : Nat := h.toNat / 2 ^ 28 % 2 ^ 18

/-- Key slot and virtual page of a handle: what an access through it uses (R248). -/
def handleKey (h : Word) : Nat × Nat := (h.toNat / 2 ^ 3 % 128, handleVpn h)

/-- The context's handle of an index; 0, which is not valid, beyond the registers (R239). -/
def Ctx.handle (x : Ctx) (n : Nat) : Word := (x.regs.h[n]?).getD 0

/-- What an access of the issuing context to an address of a space uses. -/
def State.keyOf (s : State) (sp idx : Nat) : CipherKey := if sp = 4 then some (handleKey (s.core.ctx.handle idx)) else none

/-- Address of byte 0 of a space in the model's line of addresses; none where the space names nothing. -/
def State.spaceBase (s : State) (c : Core) (x : Ctx) (sp idx : Nat) : Option Nat :=
  match sp with
  | 0 => some (unitBase c.phys)
  | 2 => some (clusterBase (clusterOf c.phys))
  | 3 => some (dieBase (dieOf c.phys))
  | 4 => some (frameBase (handleFrame (x.handle idx)))
  | 5 => (s.physOfLcore c x idx).map unitBase
  | _ => none

/-- Index j of a cluster among its partition's clusters (R164). -/
def Part.clusterIdx (p : Part) (k : Nat) : Nat := popCount k (p.ctl.toNat % 2 ^ k)

/-- Trowel space and location index of the granule of an address (R164). -/
def State.locOf (s : State) (c : Core) (x : Ctx) (sp idx off : Nat) : Nat × Nat :=
  match sp with
  | 0 => (0, x.cfg.lcore * 128 + off / 2 ^ 12)
  | 2 => (2, (s.partAt c.partNo).clusterIdx (clusterOf c.phys) * 128 + off / 2 ^ 16)
  | 3 => (3, dieOf c.phys * 128 + off / 2 ^ 19)
  | 4 => (4, handleVpn (x.handle idx))
  | 5 => (0, idx * 128 + off / 2 ^ 12)
  | n => (n, 0)

/-- Virtual pages in the same line of numbers, beyond every address. -/
def pageKey (page : Nat) : Nat := 2 ^ 50 + page * 2 ^ 21

/-- A byte's place for readonly regions: its address, or in GDDR its virtual page and offset. -/
def State.placeKey (s : State) (c : Core) (x : Ctx) (sp idx off : Nat) : Nat :=
  if sp = 4 then pageKey (handleVpn (x.handle idx)) + off else (s.spaceBase c x sp idx).getD (2 ^ 60) + off

/-! ## Trowel-board entries (R166, R168) -/

/-- Entries that serve a context; one that the core's copy engine holds, or that is on its way to it, serves none (R166). -/
def servesCtx (k : Nat) (e : TEntry) : Bool := e.kind != 0 && e.ctx == k && !(e.kind == 1 && e.state == 4)

def entryCovers (e : TEntry) (sp loc : Nat) : Bool :=
  e.space == sp && decide (e.loc ≤ loc) && decide (loc < e.loc + e.count)

/-- A table record that holds an entry's region. -/
def recHolds (r : TRec) (e : TEntry) : Bool :=
  r.launch == e.launch && r.space == e.space && decide (r.loc ≤ e.loc) && decide (e.loc < r.loc + r.count)

/-- A record that still stands as a change found it: its region, under the same generation. -/
def TRec.isStill (o r : TRec) : Bool :=
  r.launch == o.launch && r.space == o.space && r.loc == o.loc && r.count == o.count && r.gen % 256 == o.gen % 256

/-- One change of a list of records: to the new one, with the swatches that have come or gone meanwhile; a record of COUNT 0 is a free
place, the first or one at the end. -/
def putRecord (t : List TRec) (c : TRec × TRec) : List TRec :=
  if c.1.count = 0 then
    if t.any fun r => r.count == 0 then listMod (fun r => r.count == 0) (fun _ => c.2) t else t ++ [c.2]
  else listMod c.1.isStill (fun r => { c.2 with swatch := r.swatch + c.2.swatch - c.1.swatch }) t

/-- What an ownership instruction changes of the table, all of it or, once a record has changed hands, none. -/
def putRecords (t : List TRec) (l : List (TRec × TRec)) : List TRec :=
  if l.all fun c => c.1.count == 0 || t.any c.1.isStill then l.foldl putRecord t else t

/-- The table as a context sees it: with what its bay has changed and not yet published (R169). -/
def Ctx.tableView (x : Ctx) (p : Part) : Part := { p with trowels := x.shadow.table.foldl putRecords p.trowels }

/-- The issuing context's partition as it sees it. -/
def State.ownPart (s : State) : Part := s.core.ctx.tableView (s.partAt s.core.partNo)

/-- Position of the record of an entry's trowel in the table, 0 when there is none. -/
def Part.tableIdx (p : Part) (e : TEntry) : Nat := (p.trowels.findIdx? (fun r => recHolds r e)).getD 0

/-- An entry whose GEN differs from the table's (R167). -/
def Part.staleEntry (p : Part) (e : TEntry) : Bool :=
  match p.trowels.find? (fun r => recHolds r e) with
  | none => false
  | some r => r.gen % 256 != e.gen % 256

/-- The addresses an access fault names: offset, space, index. -/
def State.placeFault (s : State) (code engine object sp idx off : Nat) : ErrRecord :=
  s.faultOf code engine object 0 0 (some (off, sp, idx))

/-- What another party than the context whose change it is sees of a board entry: its value before a change that is not published, or
not two cycles ago (R169). `k` is the context that looks, if one does. -/
def Core.lagged (k : Option Nat) (now t : Nat) (c : Core) : Option TEntry :=
  c.ctxs.findSome? fun x =>
    if k == some x.id then none
    else ((x.lag.find? fun l => l.1 == t && decide (now < l.2.2)).map (·.2.1)).or ((x.shadow.board.find? fun l => l.1 == t).map (·.2))

/-- A board entry as a party sees it. -/
def Core.seen (k : Option Nat) (now t : Nat) (c : Core) : TEntry := (c.lagged k now t).getD ((c.board[t]?).getD TEntry.empty)

/-- Whether a board entry is empty for a party, as it stands and as it is published, and reserved by nobody (R170, R176). -/
def Core.entryFree (k : Option Nat) (now t : Nat) (c : Core) : Bool :=
  (c.seen k now t).kind == 0 && ((c.board[t]?).map (·.kind)) == some 0 && !c.reserved.contains t

/-- A board entry as it is published: changes of a bay that has not committed stand back (R169). -/
def Core.published (t : Nat) (c : Core) : TEntry :=
  (c.ctxs.findSome? fun x => (x.shadow.board.find? fun l => l.1 == t).map (·.2)).getD ((c.board[t]?).getD TEntry.empty)

/-- The board as a party sees it. -/
def Core.seenBoard (k : Option Nat) (now : Nat) (c : Core) : List TEntry := (List.range 64).map fun t => c.seen k now t

/-- Whether two regions are one. -/
def sameRegion (e f : TEntry) : Bool := e.launch == f.launch && e.space == f.space && e.loc == f.loc && e.count == f.count

/-- Whether a granule is still to be zeroed by a tclean (R178). -/
def State.zeroing (s : State) (n : Nat) (e : TEntry) (sp loc : Nat) : Bool :=
  s.agenda.any fun d => match d.ev with
    | .tcleanZeroDone q z => (s.coreAt q).partNo == n && z.launch == e.launch && entryCovers z sp loc
    | _ => false

/-- Ownership of one granule (R168). `copy` marks a command of the copy engine, which a STATE 4 entry serves too. -/
def State.ownGranule (s : State) (engine : Nat) (copy write : Bool) (sp idx off : Nat) : Verdict :=
  let c := s.core
  let x := c.ctx
  let p := s.ownPart
  let (tsp, loc) := s.locOf c x sp idx off
  let at_ := s.placeKey c x sp idx off
  let es := (c.seenBoard (some x.id) s.now).filter (fun e => e.kind != 0 && entryCovers e tsp loc &&
    ((e.ctx == x.id && decide (e.state ≤ 1)) || (copy && e.kind == 1 && e.state == 4)))
  let held := es.filter (fun e => e.state != 1)
  let t := (held.find? (fun e => e.kind == 1)).orElse fun _ => held.head?
  let unowned := s.placeFault (if write then 0x0502 else 0x0501) engine 0 sp idx off
  if es.isEmpty then
    .require (!write && p.readonly.any (fun r => decide (r.1 ≤ at_) && decide (at_ < r.1 + r.2))) unowned
  else
    match t with
    | none => .hold { cause := 8, blocks := true }
    | some e =>
      let n := p.tableIdx e
      if e.kind == 1 && s.zeroing c.partNo e tsp loc then .hold { cause := 8, blocks := true }
      else if p.staleEntry e then .trap (s.placeFault 0x050C engine n sp idx off)
      else if e.taint then .trap (s.placeFault 0x0504 engine n sp idx off)
      else if write && e.kind == 2 then .trap (s.placeFault 0x0502 engine n sp idx off)
      else if write && e.swatch != 0 then .trap (s.placeFault 0x0503 engine n sp idx off)
      else .go

/-- First offsets of the granules that len bytes from off on touch, the first being off itself (R145, R164). -/
def granuleStarts (sp off len : Nat) : List Nat :=
  if len = 0 then []
  else (List.range ((off + len - 1) / granule sp - off / granule sp + 1)).map
    (fun i => max off ((off / granule sp + i) * granule sp))

/-- Ownership of a footprint: the lowest failing sector with its first failing check (R146, R168). Spill memory needs
no trowel. -/
def State.own (s : State) (engine : Nat) (copy write : Bool) (sp idx off len : Nat) : Verdict :=
  if sp = 1 then .go
  else firstOf ((granuleStarts sp off len).map (fun o => s.ownGranule engine copy write sp idx o))

/-! ## Handles (R239, R240) -/

/-- A handle fault: recoverable in a free context, a trap in a timetable context (R240). -/
def State.handleFault (s : State) (code engine idx off : Nat) : Verdict :=
  let h := s.core.ctx.handle idx
  let r := s.faultOf code engine idx h 0 (some (off, 4, handleFrame h))
  if s.core.ctx.cfg.free then .recover r else .trap r

def State.handleCheck (s : State) (engine : Nat) (write : Bool) (idx off len : Nat) : Verdict :=
  let h := s.core.ctx.handle idx
  if 31 < idx || !handleValid h then s.handleFault 0x0605 engine idx off
  else if !(handlePerm h / (if write then 2 else 1) % 2 == 1) then s.handleFault 0x0606 engine idx off
  else if !s.core.ctx.cfg.free && handleMob h then
    .trap (s.faultOf 0x0607 engine idx h 0 (some (off, 4, handleFrame h)))
  else .require (decide (off + len ≤ 2 ^ 21)) (s.faultOf 0x0602 engine idx h 0 (some (off, 4, handleFrame h)))

/-- Range of a footprint (R142, R145 step 3): within the space, or the handle's checks. A row of negative offset lies beyond
its space. -/
def State.inRange (s : State) (engine : Nat) (write : Bool) (sp idx off len : Nat) (neg : Bool) : Verdict :=
  if sp = 4 then
    (s.handleCheck engine write idx off len).andThen fun _ =>
    .require (!neg) (s.faultOf 0x0602 engine idx (s.core.ctx.handle idx) 0 (some (off, 4, handleFrame (s.core.ctx.handle idx))))
  else .require (!neg && decide (off + len ≤ spaceSize sp) && (s.spaceBase s.core s.core.ctx sp idx).isSome || (sp == 1 && !neg && decide (off + len ≤ spaceSize sp)))
    (s.placeFault 0x0602 engine 0 sp idx off)

/-! ## Ring tiles (R147, R181-R183) -/

/-- The ring reservation of a tile of a link command: its number names the command, in the bits below 2^48. -/
def tileId (id i : Nat) : Nat := id + (i + 1) * 2 ^ 48

def Ring.tileOff (r : Ring) (i : Nat) : Nat := r.base.toNat + i % (max r.size.toNat 1) * 16384

/-- Slots of a ring with their busy bit set: reserved and not landed, or read by the array. What the issuing group's own
slots started stands behind it and holds none of its accesses (R147, R251). -/
def State.busySlots (s : State) (c : Core) (n : Nat) : List Nat :=
  match c.rings[n]? with
  | none => []
  | some r =>
    let g := s.core.ctx.groupSeq
    (r.resv.zipIdx.filter fun v => decide (v.1.id % 2 ^ 48 ≤ g)).map (fun v => (r.tail.toNat + v.2) % 65536 % (max r.size.toNat 1)) ++
    (s.agenda.filter fun d => decide (d.seq ≤ g)).filterMap (fun d => match d.ev with
      | .mmaTileRetire q m i => if q = c.phys ∧ m = n then some (i % (max r.size.toNat 1)) else none
      | .bldLand b => if b.core = c.phys ∧ b.ring = n then some (b.idx % (max r.size.toNat 1)) else none
      | _ => none)

/-- Whether len bytes at off of the unit scratchpad touch a busy ring slot. -/
def State.touchesBusy (s : State) (off len : Nat) : Bool :=
  (List.range 16).any fun n =>
    match s.core.rings[n]? with
    | none => false
    | some r => (s.busySlots s.core n).any fun i =>
      let t := r.base.toNat + i * 16384
      decide (t < off + len) && decide (off < t + 16384)

def State.ringWait (s : State) (sp off len : Nat) : Verdict :=
  if sp = 0 && s.touchesBusy off len then .hold { cause := 1, blocks := true } else .go

/-! ## What a load sees (R148, R253) -/

/-- The newest byte that a context's own pending commits hold for an address. -/
def State.pendingByte (s : State) (p k a : Nat) : Option Byte :=
  s.agenda.foldl (fun o d => match d.ev with
    | .gatedCommitPerform c =>
      if c.core = p ∧ c.ctx = k then
        match c.bytes.find? (fun x => x.1 == a) with
        | some x => some x.2
        | none => o
      else o
    | _ => o) none

/-- A byte forwarded to the issuing context: from its gate buffer, or from its pending commits. -/
def State.forwarded (s : State) (a : Nat) : Option Byte :=
  match s.core.ctx.gate.find? (fun x => x.1 == a) with
  | some x => some x.2
  | none => s.pendingByte s.core.phys s.core.ctx.id a

/-- The byte a memory-slot load sees. -/
def State.viewByte (s : State) (a : Nat) : Byte := (s.forwarded a).getD (readByte s.mem a)

/-- n bytes as a load of the issuing context sees them. -/
def State.view (s : State) (a : Nat) : Nat → List Byte
  | 0 => []
  | n + 1 => s.viewByte a :: s.view (a + 1) n

/-- Verification of the sectors of a load's footprint that are not wholly forwarded (R153): the lowest that fails. DESIGN CHOICE: R153
speaks of the gate buffer alone; here a byte forwarded from a pending commit counts too (log 18). -/
def State.badSector (s : State) (k : CipherKey) (a n : Nat) : Option Nat :=
  (s.failing k a n).find? (fun t => (List.range 64).any (fun i => (s.forwarded (t + i)).isNone))

/-- A check mismatch at a load: an uncorrectable error consumed (R153). -/
def State.verify (s : State) (engine sp idx base off len : Nat) : Verdict :=
  match s.badSector (s.keyOf sp idx) (base + off) len with
  | none => .go
  | some t => .recover (s.faultOf 0x0C01 engine 0 0 0 (some (t - base, sp, idx)))

/-! ## Alias classes (R152) -/

/-- Class 0 conflicts with every class. -/
def acConflict (a b : Nat) : Bool := a == 0 || b == 0 || a == b

/-- An engine command of a context that has not performed: its place in issue order, its class, read runs with the cycle
that ends them, write runs, flag words (which are there to be read as they come); whether it has still to write on this chip. -/
structure Outstanding where
  issue : Nat
  ac : Nat
  reads : List (Nat × Nat)
  readEnd : Nat
  writes : List (Nat × Nat)
  flags : List (Nat × Nat)
  writing : Bool
deriving DecidableEq, Repr

def copyOutstanding (c : CopyCmd) : Outstanding :=
  { issue := c.issue, ac := c.ac, reads := c.src, readEnd := c.stream, writes := c.runs.map (fun r => (r.addr, r.bytes.length))
    flags := [], writing := true }

def chainOutstanding (now : Nat) (h : Chain) : Outstanding :=
  { issue := h.issue, ac := h.ac, reads := [], readEnd := now + 1, writes := [], flags := [], writing := true }

/-- A command of the scatter-accumulate engine that only wakes the engine: no program issued it. -/
def isSaWake (c : SaCmd) : Bool := c.entries.isEmpty && !c.flush && c.win.isNone

def saOutstanding (c : SaCmd) (readEnd : Nat) : Outstanding :=
  { issue := c.issue, ac := c.ac, reads := [], readEnd := readEnd, writes := c.entries.map (fun e => (e.base + 4 * e.idx, 4))
    flags := [], writing := true }

/-- Ring slots that a link command has reserved and not landed yet. -/
def Core.slotsOf (c : Core) (l : LinkCmd) : List (Nat × Nat) :=
  match l.ring.bind fun q => c.rings[q]? with
  | none => []
  | some r => (r.resv.zipIdx.filter fun v => decide (2 ^ 48 ≤ v.1.id) && v.1.id % 2 ^ 48 == l.issue).map fun v =>
    (unitBase c.phys + r.tileOff (r.tail.toNat + v.2), 16384)

/-- A link command reads its source until LC (R272). A recv, allred or agfwd has still to write from its issue on (R152); it writes its
destination and its flag words once it is armed (R273). -/
def linkOutstanding (c : Core) (now : Nat) (l : LinkCmd) : Outstanding :=
  let writing := l.op == .recv || l.op == .allred || l.op == .agfwd
  let writes := l.armed && writing
  { issue := l.issue, ac := l.ac, reads := if now < l.lc then l.src else [], readEnd := l.lc,
    writes := if !writes then [] else if l.ring.isNone then [(l.dst, l.len)] else c.slotsOf l
    flags := if writes then [(l.flag, 8 * ((l.len + 4095) / 4096))] else [], writing := writing }

/-- An agg reads its contribution and writes its results; its flag word is there to be read as it comes (R295). -/
def aggOutstanding (a : AggRun) : Outstanding :=
  { issue := a.issue, ac := a.ac, reads := [a.src], readEnd := a.readEnd, writes := [(a.res.1 + 8, a.res.2 - 8)]
    flags := [(a.res.1, 8)], writing := true }

/-- The outstanding engine commands of a context: copies, running chains, scatter-accumulate commands, link commands, an agg
(R152, R272, R295). -/
def State.outstandingOf (s : State) (p k : Nat) : List Outstanding :=
  let core := s.coreAt p
  s.agenda.filterMap (fun d => match d.ev with
    | .copyRelease c => if c.core = p ∧ c.ctx = k then some (copyOutstanding c) else none
    | .sarunRelease c => if c.core = p ∧ c.ctx = k ∧ isSaWake c = false then some (saOutstanding c c.stream) else none
    | _ => none) ++
  (core.copy.queue.filterMap fun q => match q with
    | .inl c => if c.ctx = k then some { copyOutstanding c with readEnd := s.now + 1 } else none
    | .inr h => if h.ctx = k then some (chainOutstanding s.now h) else none) ++
  (match core.copy.chain with
    | some h => if h.ctx = k then [chainOutstanding s.now h] else []
    | none => []) ++
  (core.sa.queue.filter (fun c => c.ctx == k)).map (fun c => saOutstanding c (s.now + 1)) ++
  (core.link.cmds.filter (fun l => l.ctx == k)).map (linkOutstanding core s.now) ++
  (core.ctxAt k).agg.toList.map aggOutstanding

/-- Those issued before the group being issued. -/
def State.outstanding (s : State) : List Outstanding :=
  (s.outstandingOf s.core.phys s.core.ctx.id).filter fun o => decide (o.issue ≤ s.core.ctx.groupSeq)

def overlaps (rs : List (Nat × Nat)) (a n : Nat) : Bool :=
  rs.any fun r => decide (r.1 < a + n) && decide (a < r.1 + r.2)

/-- Whether a command holds up an access of a conflicting class: a load until its writes have performed, a store until its
reads have ended too (R152, R272). -/
def Outstanding.holds (o : Outstanding) (now : Nat) (store : Bool) (ac : Nat) : Bool :=
  acConflict o.ac ac && (o.writing || (store && decide (now < o.readEnd)))

/-- Whether an access to n bytes at a lies over a command's writes, or over what it has still to read. -/
def Outstanding.touches (o : Outstanding) (now : Nat) (store : Bool) (a n : Nat) : Bool :=
  overlaps o.writes a n || (store && decide (now ≤ o.readEnd) && overlaps o.reads a n)

/-- A free context's access in class ac to bytes of an address run, none of spill memory: withheld behind a conflicting
command; a data race where the classes written declare no conflict and the footprints overlap (R152, R261). -/
def State.alias_ (s : State) (store : Bool) (ac : Nat) (run : Option (Nat × Nat)) : Verdict :=
  if !s.core.ctx.cfg.free then .go
  else
    let os := s.outstanding
    if os.any (fun o => o.holds s.now store ac) then .hold { cause := 0, blocks := true }
    else if (run.map fun r => os.any fun o => o.touches s.now store r.1 r.2) == some true then .race
    else .go

end Sys2Proof.Machine
end

