-- ==== Sys2Proof/Machine/Memory.lean ====
section
/-! DEFINITION. The memory class (R142 to R161, R238): one meaning for each instruction. -/

namespace Sys2Proof.Machine

/-! ## Footprints (R144) -/

/-- Effective offset, without wrap. -/
def effOff (a : AddrReg) (off : Int) (unit : Nat) : Int := a.offset.toNat + off * unit

/-- Lane groups a mask selects. -/
def groupsOf (g : Byte) : List Nat := (List.range 8).filter fun k => g.getLsbD k

/-- Pieces of len bytes for each selected lane group. -/
def groupPieces (g : Byte) (ea : Int) (len : Nat) : List (Int × Nat) := (groupsOf g).map fun (k : Nat) => (ea + (len * k : Nat), len)

/-- Pieces of ldx and stx: one word for each lane of the selected lane groups. -/
def lanePieces (g : Byte) (a : AddrReg) (vo : Lanes) : List (Int × Nat) :=
  ((List.range 128).filter fun l => g.getLsbD (l / 16)).map fun l => ((a.offset.toNat : Int) + (lane vo l).toNat, 4)

/-- Insert a piece in rising order of its offset. -/
def insertPiece (p : Int × Nat) : List (Int × Nat) → List (Int × Nat)
  | [] => [p]
  | q :: r => if p.1 < q.1 then p :: q :: r else q :: insertPiece p r

def sortPieces (l : List (Int × Nat)) : List (Int × Nat) := l.foldl (fun t p => insertPiece p t) []

/-- Each number once. -/
def dedup (l : List Nat) : List Nat := l.foldl (fun t x => if t.contains x then t else t ++ [x]) []

/-! ## Checks (R145 to R147, R150, R152, R153) -/

/-- Gated bytes of the group's earlier slots, which are not in the buffer yet. -/
def postedGate (l : List Post) : List Host.Cell :=
  l.flatMap fun p => match p with
    | .gate cs _ => cs
    | _ => []

/-- Whether the gate buffer has room for the sectors of new bytes (R150). -/
def Ctx.gateRoom (x : Ctx) (new : List Host.Cell) : Bool :=
  let old := dedup ((x.gate ++ postedGate x.post).map fun c => sectorOf c.1)
  let fresh := (dedup (new.map fun c => sectorOf c.1)).filter fun a => !old.contains a
  decide (old.length + fresh.length ≤ Config.gateEntries)

/-- Where chunk i of a command stands: in its destination, or in a ring's slots, as far as their tiles have landed (before
that they are busy). -/
def chunkRuns (c : LinkCmd) (i : Nat) : List (Nat × Nat) :=
  if c.ring.isNone then [(c.dst + 4096 * i, min (4096 * (i + 1)) c.len - 4096 * i)]
  else (c.tiles.filter fun t => t.1 % (c.len / 16384) == i / 4).map fun t => (t.2 + 4096 * (i % 4), 4096)

/-- Whether n bytes at a touch an armed command's destination in a chunk whose flag is not written (R261, R281). A flag that
is written counts as seen. -/
def chunkOpen (c : LinkCmd) (a n : Nat) : Bool :=
  c.armed && (List.range (ceilDiv c.len 4096)).any fun i =>
    !c.flagged.contains i && !c.aborted.contains i && overlaps (chunkRuns c i) a n

/-- An access to a destination of any core whose flag is still to come (R261, R281). That of a put cannot be reached: its trowel
is lent (R275). -/
def State.chunkRace (s : State) (a n : Nat) : Verdict :=
  if s.allCores.any (fun k => k.link.cmds.any fun c => chunkOpen c a n) then .race else .go

/-- Whether writes perform over the source of a link command in the span from k cycles behind its issue to its local completion
(R272, R281). k is 1 for an engine's write. A commit that stands before the command performs in the cycle behind its issue at the
latest; Variations of 20_program_crossentropy.md gives that case its outcome, the snapshot without the write, so k is 2 for a
commit's. Log 17. -/
def State.sourceRace (s : State) (k : Nat) (runs : List (Nat × Nat)) : Bool :=
  s.allCores.any fun c => c.link.cmds.any fun l => decide (l.since + k ≤ s.now) && decide (s.now ≤ l.lc) && runs.any fun r => overlaps l.src r.1 r.2

/-- Address in the model's line of a byte of a space; none in spill memory. -/
def State.byteAddr (s : State) (sp idx off : Nat) : Nat := (s.spaceBase s.core s.core.ctx sp idx).getD 0 + off

/-- An offset as the record's 32 bits hold it. -/
def offBits (o : Int) : Nat := (o % 2 ^ 32).toNat

/-- The third check of R145 on one piece: within the space, or the handle's checks (R239). -/
def State.pieceRange (s : State) (write : Bool) (sp idx : Nat) (p : Int × Nat) : Verdict :=
  if sp = 4 then s.handleCheck 0 write idx (offBits p.1) p.2
  else if p.1 < 0 then .trap (s.placeFault 0x0602 0 0 sp idx (offBits p.1))
  else Verdict.require (decide (p.1.toNat + p.2 ≤ spaceSize sp)) (s.placeFault 0x0602 0 0 sp idx (max p.1.toNat (spaceSize sp)))

/-- The faults of R145 in their order. DESIGN CHOICE: no rule says which byte a GATE_OVERFLOW record names; here it is the lowest of the
whole footprint, inactive lanes' included (log 18). -/
def State.memFaults (s : State) (write : Bool) (spaces : List Nat) (align : Nat) (a : AddrReg) (ps : List (Int × Nat))
    (bytes : List Host.Cell) : Verdict :=
  let sp := a.space.toNat
  let idx := a.index.toNat
  let low := offBits ((ps.head?.map (·.1)).getD 0)
  if !spaces.contains sp then .trap (s.placeFault 0x0601 0 0 sp idx low)
  else match ps.find? (fun p => p.1 % (align : Int) != 0) with
  | some p => .trap (s.placeFault 0x0603 0 0 sp idx (offBits p.1))
  | none =>
    (firstOf (ps.map fun p => s.pieceRange write sp idx p)).andThen fun _ =>
    (firstOf (ps.map fun p => s.own 0 false write sp idx p.1.toNat p.2)).andThen fun _ =>
    Verdict.require (!write || sp == 1 || s.core.ctx.gateRoom bytes) (s.placeFault 0x0604 0 0 sp idx low)

/-- What one piece waits for (R147, R152), whether it is a race (R261), and for a load its sectors (R153). -/
def State.pieceWaits (s : State) (write : Bool) (sp idx : Nat) (ac : Option Nat) (p : Nat × Nat) : Verdict :=
  (s.ringWait sp p.1 p.2).andThen fun _ =>
  ((match ac with
    | none => Verdict.go
    | some k => s.alias_ write k (if sp = 1 then none else some (s.byteAddr sp idx p.1, p.2))).andThen fun _ =>
  if sp = 1 then .go
  else (s.chunkRace (s.byteAddr sp idx p.1) p.2).andThen fun _ =>
    if write then .go else s.verify 0 sp idx (s.byteAddr sp idx 0) p.1 p.2)

/-- The checks of a memory slot: the faults of R145, then each piece's waits and check words. -/
def State.memCheck (s : State) (write : Bool) (spaces : List Nat) (align : Nat) (a : AddrReg) (pieces : List (Int × Nat))
    (bytes : List Host.Cell) (ac : Option Nat) : Verdict :=
  let ps := sortPieces pieces
  (s.memFaults write spaces align a ps bytes).andThen fun _ =>
  firstOf (ps.map fun p => s.pieceWaits write a.space.toNat a.index.toNat ac (p.1.toNat, p.2))

/-- An uncorrectable spill slot among n bytes from off on (R151). -/
def State.spillCheck (s : State) (off n : Nat) : Verdict :=
  match s.core.ctx.spillErr.find? (fun e => e.2 && decide (8 * e.1 < off + n) && decide (off < 8 * e.1 + 8)) with
  | none => .go
  | some e => .recover (s.faultOf 0x0C01 0 0 0 0 (some (8 * e.1, 1, 0)))

/-- Spill slots read with a corrected error are counted, up to the counter's end (R151, R308). -/
def State.spillCount (off n : Nat) (s : State) : State :=
  let k := (s.core.ctx.spillErr.filter (fun e => !e.2 && decide (8 * e.1 < off + n) && decide (off < 8 * e.1 + 8))).length
  s.onCore fun c => { c with cap := { c.cap with corrected := BitVec.ofNat 32 (min (2 ^ 32 - 1) (c.cap.corrected.toNat + k)) } }

/-! ## Reading and gating -/

/-- n bytes that a load sees at an offset of a space. -/
def State.loadBytes (s : State) (sp idx off n : Nat) : List Byte :=
  if sp = 1 then readRun s.core.ctx.spill off n else s.view (s.byteAddr sp idx off) n

def State.loadWord (s : State) (sp idx off : Nat) : Word := BitVec.ofNat 64 (leVal (s.loadBytes sp idx off 8))

def State.loadLane (s : State) (sp idx off : Nat) : W32 := BitVec.ofNat 32 (leVal (s.loadBytes sp idx off 4))

/-- Sectors of cells, once each. -/
def cellSectors (cs : List Host.Cell) : List Nat := dedup (cs.map fun c => sectorOf c.1)

/-- What is kept of the sectors of a store of the issuing group. -/
def State.notesOf (s : State) (key : CipherKey) (cs : List Host.Cell) : List GateNote :=
  (cellSectors cs).map fun a => { sector := a, bundle := s.core.ctx.flow.bundle, scyc := s.scyc, key := key }

/-- Bytes written at offsets of a space: gated, or into spill memory (R148, R151, R156). -/
def State.storeCells (sp idx : Nat) (cs : List Host.Cell) (s : State) : State :=
  s.post (if sp = 1 then .spill cs else .gate cs (s.notesOf (s.keyOf sp idx) cs))

/-- Cells of an n-byte little-endian value at an offset; addresses count in the model's line, or within spill memory. -/
def State.cellsOf (s : State) (sp idx off n v : Nat) : List Host.Cell :=
  cellsAt (if sp = 1 then off else s.byteAddr sp idx off) (leBytes n v)

/-- The cells of active lanes at the offsets f gives. -/
def State.laneCells (s : State) (sp idx : Nat) (am : LaneMask) (f : Nat → Nat) (x : Lanes) : List Host.Cell :=
  ((List.range 128).filter fun l => am.getLsbD l).flatMap fun l => s.cellsOf sp idx (f l) 4 (lane x l).toNat

/-- Offset of lane l's word in a run of stride bytes for each lane group. -/
def laneOff (ea stride l : Nat) : Nat := ea + stride * (l / 16) + 4 * (l % 16)

/-- What loads of space 1 find besides R145. -/
def State.spillVerdict (s : State) (a : AddrReg) (ps : List (Int × Nat)) : Verdict :=
  if a.space.toNat = 1 then firstOf (ps.map fun p => s.spillCheck p.1.toNat p.2) else .go

def State.spillCounts (a : AddrReg) (ps : List (Int × Nat)) (s : State) : State :=
  if a.space.toNat = 1 then ps.foldl (fun t p => t.spillCount p.1.toNat p.2) s else s

/-! ## Scalar forms (R156, R159) -/

/-- Cycles after which the data of an ldh is in its register (R159, R210): 488, the distance term, and for a frame on
another chip the time on the links, which no rule bounds. DESIGN CHOICE: the rules give a bound, and the data lands at it (log 11). -/
def State.gddrLatency (s : State) (frame : Nat) : Nat :=
  let c := s.core.phys
  let k := s.homeOf frame
  let d := if k = clusterOf c then 0 else if k / 4 = dieOf c then 16 else 48
  488 + d + s.farTime frame

def State.scalarLoad (s : State) (g : Gate) (spaces : List Nat) (d : Fin 64) (n : Fin 16) (o : BitVec 12) (ac : Fin 8)
    (land : AddrReg → Word → State → State) : Host.Outcome State Fault Refusal :=
  let a := s.core.ctx.ra n
  let ps := [(effOff a o.toInt 8, 8)]
  s.slot (!s.core.ctx.gate0 g) 0
    (fun s => (s.memCheck false spaces 8 a ps [] (some ac.val)).andThen fun _ => s.spillVerdict a ps)
    fun s =>
      let t := s.spillCounts a ps
      if d = 0 then t else land a (s.loadWord a.space.toNat a.index.toNat (effOff a o.toInt 8).toNat) t

def State.scalarStore (s : State) (g : Gate) (spaces : List Nat) (d : Fin 64) (n : Fin 16) (o : BitVec 12) (ac : Fin 8) :
    Host.Outcome State Fault Refusal :=
  let a := s.core.ctx.ra n
  let cells := s.cellsOf a.space.toNat a.index.toNat (effOff a o.toInt 8).toNat 8 (s.core.ctx.rs d).toNat
  s.slot (!s.core.ctx.gate0 g) 0
    (fun s => s.memCheck true spaces 8 a [(effOff a o.toInt 8, 8)] cells (some ac.val))
    fun s => s.storeCells a.space.toNat a.index.toNat cells

/-- R156. -/
def execLds (g : Gate) (d : Fin 64) (n : Fin 16) (o : BitVec 12) (ac : Fin 8) (s : State) : Host.Outcome State Fault Refusal :=
  s.scalarLoad g [0, 1] d n o ac fun _ v s => s.landS 5 d v 0

/-- R156. -/
def execSts (g : Gate) (d : Fin 64) (n : Fin 16) (o : BitVec 12) (ac : Fin 8) (s : State) : Host.Outcome State Fault Refusal :=
  s.scalarStore g [0, 1] d n o ac

/-- R159. Decode rejects it in a timetable context. -/
def execLdh (g : Gate) (d : Fin 64) (n : Fin 16) (o : BitVec 12) (ac : Fin 8) (s : State) : Host.Outcome State Fault Refusal :=
  s.scalarLoad g [4] d n o ac fun a v s =>
    s.schedule (s.now + s.gddrLatency (handleFrame (s.core.ctx.handle a.index.toNat))) phReg
      (.registerResultLand
        { core := s.core.phys, ctx := s.core.ctx.id, res := .s d.val v, tag := 0, bay := s.core.ctx.bay.serial,
          seq := s.issueSeq, frame := some (handleFrame (s.core.ctx.handle a.index.toNat)) })

/-- R159. -/
def execSth (g : Gate) (d : Fin 64) (n : Fin 16) (o : BitVec 12) (ac : Fin 8) (s : State) : Host.Outcome State Fault Refusal :=
  s.scalarStore g [4] d n o ac

/-! ## Vector forms (R156) -/

/-- ldv and ldvq: q registers, each 64 bytes of every lane group's run of 64 q bytes. -/
def State.vectorLoad (s : State) (g : Gate) (m : Fin 8) (q L : Nat) (d : Fin 32) (n : Fin 16) (o : BitVec 9) (ac : Fin 8) :
    Host.Outcome State Fault Refusal :=
  let x := s.core.ctx
  let a := x.ra n
  let am := x.active g m
  let ea := effOff a o.toInt (64 * q)
  let ps := groupPieces (x.rgm m) ea (64 * q)
  s.slot (am == 0) (laneNeed (x.rgm m))
    (fun s => (s.memCheck false [0, 1] 64 a ps [] (some ac.val)).andThen fun _ => s.spillVerdict a ps)
    fun s =>
      (List.range q).foldl (fun t i =>
        t.landV L (d.val + i) am
          (lanesOf fun l => s.loadLane a.space.toNat a.index.toNat (laneOff (ea.toNat + 64 * i) (64 * q) l)) 0)
        (s.spillCounts a ps)

/-- stv and stvq. -/
def State.vectorStore (s : State) (g : Gate) (m : Fin 8) (q : Nat) (d : Fin 32) (n : Fin 16) (o : BitVec 9) (ac : Fin 8) :
    Host.Outcome State Fault Refusal :=
  let x := s.core.ctx
  let a := x.ra n
  let am := x.active g m
  let ea := effOff a o.toInt (64 * q)
  let cells := (List.range q).flatMap fun i =>
    s.laneCells a.space.toNat a.index.toNat am (laneOff (ea.toNat + 64 * i) (64 * q)) (x.rv (d.val + i))
  s.slot (am == 0) (laneNeed (x.rgm m))
    (fun s => s.memCheck true [0, 1] 64 a (groupPieces (x.rgm m) ea (64 * q)) cells (some ac.val))
    fun s => s.storeCells a.space.toNat a.index.toNat cells

/-- R156. -/
def execLdv (g : Gate) (m : Fin 8) (d : Fin 32) (n : Fin 16) (o : BitVec 9) (ac : Fin 8) (s : State) :
    Host.Outcome State Fault Refusal :=
  s.vectorLoad g m 1 6 d n o ac

/-- R156. -/
def execStv (g : Gate) (m : Fin 8) (d : Fin 32) (n : Fin 16) (o : BitVec 9) (ac : Fin 8) (s : State) :
    Host.Outcome State Fault Refusal :=
  s.vectorStore g m 1 d n o ac

/-- R156, R89. The four registers land together. -/
def execLdvq (g : Gate) (m : Fin 8) (d : Fin 32) (n : Fin 16) (o : BitVec 9) (ac : Fin 8) (s : State) :
    Host.Outcome State Fault Refusal :=
  s.vectorLoad g m 4 7 d n o ac

/-- R156. -/
def execStvq (g : Gate) (m : Fin 8) (d : Fin 32) (n : Fin 16) (o : BitVec 9) (ac : Fin 8) (s : State) :
    Host.Outcome State Fault Refusal :=
  s.vectorStore g m 4 d n o ac

/-! ## Spill forms (R157) -/

/-- R157. -/
def execLdsp (g : Gate) (d : Fin 64) (l : BitVec 11) (s : State) : Host.Outcome State Fault Refusal :=
  s.slot (!s.core.ctx.gate0 g) 0 (fun s => s.spillCheck (8 * l.toNat) 8)
    fun s => (s.landS 1 d (s.loadWord 1 0 (8 * l.toNat)) 0).spillCount (8 * l.toNat) 8

/-- R157. -/
def execStsp (g : Gate) (d : Fin 64) (l : BitVec 11) (s : State) : Host.Outcome State Fault Refusal :=
  s.plain (!s.core.ctx.gate0 g) 0 fun s => s.storeCells 1 0 (s.cellsOf 1 0 (8 * l.toNat) 8 (s.core.ctx.rs d).toNat)

/-- R157. -/
def execLdvsp (g : Gate) (m : Fin 8) (d : Fin 32) (l : BitVec 11) (s : State) : Host.Outcome State Fault Refusal :=
  let x := s.core.ctx
  let am := x.active g m
  let ps := groupPieces (x.rgm m) (8 * l.toNat : Nat) 64
  s.slot (am == 0) (laneNeed (x.rgm m)) (fun s => firstOf (ps.map fun p => s.spillCheck p.1.toNat p.2))
    fun s =>
      ps.foldl (fun t p => t.spillCount p.1.toNat p.2)
        (s.landV 1 d.val am (lanesOf fun i => s.loadLane 1 0 (laneOff (8 * l.toNat) 64 i)) 0)

/-- R157. -/
def execStvsp (g : Gate) (m : Fin 8) (d : Fin 32) (l : BitVec 11) (s : State) : Host.Outcome State Fault Refusal :=
  let x := s.core.ctx
  let am := x.active g m
  s.plain (am == 0) (laneNeed (x.rgm m)) fun s =>
    s.storeCells 1 0 (s.laneCells 1 0 am (laneOff (8 * l.toNat) 64) (x.rv d.val))

/-! ## Gather and scatter (R158) -/

/-- R158. -/
def execLdx (g : Gate) (m : Fin 8) (d : Fin 32) (n : Fin 16) (v : Fin 32) (ac : Fin 8) (s : State) :
    Host.Outcome State Fault Refusal :=
  let x := s.core.ctx
  let a := x.ra n
  let am := x.active g m
  let vo := x.rv v.val
  s.slot (am == 0) (laneNeed (x.rgm m))
    (fun s => s.memCheck false [0] 4 a (lanePieces (x.rgm m) a vo) [] (some ac.val))
    fun s => s.landV 10 d.val am (lanesOf fun l =>
      if am.getLsbD l then s.loadLane 0 0 (a.offset.toNat + (lane vo l).toNat) else 0) 0

/-- R158. Of two lanes for one byte the higher stands (R149). -/
def execStx (g : Gate) (m : Fin 8) (d : Fin 32) (n : Fin 16) (v : Fin 32) (ac : Fin 8) (s : State) :
    Host.Outcome State Fault Refusal :=
  let x := s.core.ctx
  let a := x.ra n
  let am := x.active g m
  let vo := x.rv v.val
  let cells := s.laneCells 0 0 am (fun l => a.offset.toNat + (lane vo l).toNat) (x.rv d.val)
  s.slot (am == 0) (laneNeed (x.rgm m))
    (fun s => s.memCheck true [0] 4 a (lanePieces (x.rgm m) a vo) cells (some ac.val))
    fun s => s.storeCells 0 0 cells

/-! ## xlat, hinv, drain (R160, R161, R238) -/

/-- The handle of a translation entry for a page (R236, R237): none of an absent or quarantined page. -/
def handleFor (e : Word) (vpn : Nat) : Word :=
  if e.getLsbD 0 && !e.getLsbD 28 then BitVec.ofNat 64 (e.toNat % 2 ^ 28 + vpn * 2 ^ 28) else BitVec.ofNat 64 (vpn * 2 ^ 28)

/-- A partition's translation entry. -/
def Part.xlatEntry (p : Part) (vpn : Nat) : Word := ((p.xlat.find? (fun e => e.1 == vpn)).map (·.2)).getD 0

/-- R238. -/
def execXlat (g : Gate) (h : Fin 32) (a : Fin 64) (s : State) : Host.Outcome State Fault Refusal :=
  s.plain (!s.core.ctx.gate0 g) 0 fun s =>
    let v := (s.core.ctx.rs a).toNat
    let vpn := v / 2 ^ 21 % 2 ^ 18
    s.land 24 (.h h.val (if v / 2 ^ 39 = 0 then handleFor ((s.partAt s.core.partNo).xlatEntry vpn) vpn else 0)) 0

/-- R160. The handle loses its V from the next group on. -/
def execHinv (g : Gate) (h : Fin 32) (s : State) : Host.Outcome State Fault Refusal :=
  s.plain (!s.core.ctx.gate0 g) 0 fun s => s.land 1 (.h h.val (s.core.ctx.handle h.val &&& ~~~1#64)) 0

/-- R161, R259. The group is withheld while a remote write of the context is unacknowledged. DESIGN CHOICE: R161 withholds the drain,
R259 the group behind it; here it is the drain's own group (log 59). -/
def execDrain (g : Gate) (s : State) : Host.Outcome State Fault Refusal :=
  s.slot (!s.core.ctx.gate0 g) 0
    (fun s => if s.core.ctx.acks.isEmpty then .go else .hold { cause := 8, blocks := true }) fun s => s

end Sys2Proof.Machine
end

