-- ==== Sys2Proof/WellFormed.lean ====
section
/-! DEFINITION. Which instruction terms a decoder may give: the operand values that R46, R47 and the entries of the
instructions reserve are refused. Events carry no encoding and are always well formed. -/

namespace Sys2Proof

/-- Special-register numbers that R83 assigns. -/
def sregAssigned (r : BitVec 12) : Bool :=
  let n := r.toNat
  n ≤ 5 || (8 ≤ n && n ≤ 0xD) || (0x10 ≤ n && n ≤ 0x14) || n == 0x18 || (0x20 ≤ n && n ≤ 0x27) ||
    (0x30 ≤ n && n ≤ 0x3B) || (0x40 ≤ n && n ≤ 0x7F)

/-- The engines' staging sets: cp 4, sa 2, ln 4, ro 2, ag 1 (R46). -/
def StgId.wf (e : StgId) : Bool :=
  match e.eng.val with
  | 0 => true
  | 1 => e.set.val < 2
  | 2 => true
  | 3 => e.set.val < 2
  | 4 => e.set.val < 1
  | _ => false

/-- The location bits that the amk location table of R46 lists for a space. -/
def locationOk (sp : Fin 8) (l : BitVec 13) : Bool :=
  match sp.val with
  | 0 => l.toNat < 128
  | 1 => l.toNat < 2048
  | 2 => l.toNat < 128
  | 3 => l.toNat < 128
  | 4 => l.toNat < 32
  | 5 => true
  | 6 => l.toNat < 1024
  | _ => false

/-- Widths' positions of pack and unpack (R138). -/
def packOk (w : PackW) (k : Fin 8) : Bool :=
  match w with
  | .h16 => k.val < 2
  | .b8 => k.val < 4
  | .n4 => true

/-- Group size and zero-point flag go with formats 5 and 6 only (R46). -/
def MFmt.flagsOk (f : MFmt) (zp : Bool) (gs : GroupSize) : Bool :=
  match f with
  | .i8 => gs != .none
  | .i8i4 => gs != .none
  | _ => gs == .none && !zp

/-- Operand values that no rule reserves. -/
def Instr.wf : Instr → Bool
  | .shli _ _ _ i => i.toNat ≤ 63
  | .shri _ _ _ i => i.toNat ≤ 63
  | .sari _ _ _ i => i.toNat ≤ 63
  | .rds _ _ r => sregAssigned r
  | .wrs _ _ r => sregAssigned r
  | .stgw _ _ e => e.wf
  | .stgr _ _ e => e.wf
  | .gmsetReg _ d _ => d != 0
  | .gmsetImm _ d _ => d != 0
  | .amkLocation _ _ sp l => locationOk sp l
  | .amkRegister _ _ sp _ b => sp.val != 7 && (4 ≤ sp.val || b == 0)
  | .cvt _ _ dt st _ _ _ sr r => st != .int4 && dt != st && (!sr || r == .rn)
  | .qnt _ _ dt st _ a _ sr r => st == .f32 && (dt == .int8 || dt == .int4) && a.val != 31 && (!sr || r == .rn)
  | .dqnt _ _ dt st _ a _ sr r => st == .i32 && dt == .f32 && a.val != 31 && (!sr || r == .rn)
  | .pack _ _ w _ _ k => packOk w k
  | .unpack _ _ w _ _ k sx => packOk w k && (!sx || w == .n4)
  | .ldvq _ _ d _ _ _ => d.val ≤ 28
  | .stvq _ _ d _ _ _ => d.val ≤ 28
  | .ldvsp _ _ _ l => l.toNat % 8 == 0 && l.toNat ≤ 1984
  | .stvsp _ _ _ l => l.toNat % 8 == 0 && l.toNat ≤ 1984
  | .loop _ _ n _ _ => n.toNat != 0
  | .loopi _ _ n _ _ => n.toNat != 0
  | .roll _ l => 1 ≤ l.toNat && l.toNat ≤ 256
  | .mma _ _ _ _ _ f _ zp gs => f.flagsOk zp gs
  | .mmaz _ _ _ _ _ f _ zp gs => f.flagsOk zp gs
  | .mmaDl _ _ _ d f zp gs => d.val ≤ 16 && f.flagsOk zp gs
  | .mmazDl _ _ _ d f zp gs => d.val ≤ 16 && f.flagsOk zp gs
  | .qpop _ _ n => n.val != 0
  | .qadv _ _ n => n.val != 0
  | .sawin _ n => 1 ≤ n.val && n.val ≤ 64
  | _ => true

end Sys2Proof
end

