-- ==== Sys2Proof/Decode.lean ====
section
/-! DEFINITION. Decoding of one slot from its 32-bit word and its lend word, total and rejecting with a reason of R43,
and the encoder, both written from the layouts of R41 to R47. -/

namespace Sys2Proof

/-- Bits lo+len-1 : lo of a word. -/
def fld (w lo len : Nat) : Nat := w / 2 ^ lo % 2 ^ len

/-- The value where the condition on reserved bits holds. -/
def guardB (c : Bool) (i : Option Instr) : Option Instr := if c then i else none

/-! ## Codes of the operand types (R46, R47) -/
/-- Scalar condition codes (R46). -/
def Cond.code : Cond → Nat
  | .eq => 0
  | .ne => 1
  | .lt => 2
  | .le => 3
  | .gt => 4
  | .ge => 5
  | .ltn => 6
  | .len => 7

/-- The value a code stands for; none where the code is reserved. -/
def Cond.ofCode : Nat → Option Cond
  | 0 => some .eq
  | 1 => some .ne
  | 2 => some .lt
  | 3 => some .le
  | 4 => some .gt
  | 5 => some .ge
  | 6 => some .ltn
  | 7 => some .len
  | _ => none

/-- fcmp condition codes (R127). -/
def FCond.code : FCond → Nat
  | .eq => 0
  | .ne => 1
  | .lt => 2
  | .le => 3
  | .gt => 4
  | .ge => 5
  | .un => 6
  | .or => 7

/-- The value a code stands for; none where the code is reserved. -/
def FCond.ofCode : Nat → Option FCond
  | 0 => some .eq
  | 1 => some .ne
  | 2 => some .lt
  | 3 => some .le
  | 4 => some .gt
  | 5 => some .ge
  | 6 => some .un
  | 7 => some .or
  | _ => none

/-- icmp condition codes (R132). -/
def ICond.code : ICond → Nat
  | .eq => 0
  | .ne => 1
  | .lt => 2
  | .le => 3
  | .gt => 4
  | .ge => 5

/-- The value a code stands for; none where the code is reserved. -/
def ICond.ofCode : Nat → Option ICond
  | 0 => some .eq
  | 1 => some .ne
  | 2 => some .lt
  | 3 => some .le
  | 4 => some .gt
  | 5 => some .ge
  | _ => none

/-- Floating-point fmt codes (R46). -/
def FFmt.code : FFmt → Nat
  | .f32 => 0
  | .bf16 => 1
  | .f16 => 2

/-- The value a code stands for; none where the code is reserved. -/
def FFmt.ofCode : Nat → Option FFmt
  | 0 => some .f32
  | 1 => some .bf16
  | 2 => some .f16
  | _ => none

/-- Integer fmt codes (R46). -/
def IFmt.code : IFmt → Nat
  | .i32 => 0
  | .n32 => 1

/-- The value a code stands for; none where the code is reserved. -/
def IFmt.ofCode : Nat → Option IFmt
  | 0 => some .i32
  | 1 => some .n32
  | _ => none

/-- Rounding codes (R107). -/
def Rnd.code : Rnd → Nat
  | .rn => 0
  | .rz => 1
  | .rp => 2
  | .rm => 3

/-- The value a code stands for; none where the code is reserved. -/
def Rnd.ofCode : Nat → Option Rnd
  | 0 => some .rn
  | 1 => some .rz
  | 2 => some .rp
  | 3 => some .rm
  | _ => none

/-- Type codes of a conversion field (R47). -/
def CvtTy.code : CvtTy → Nat
  | .f32 => 0
  | .bf16 => 1
  | .f16 => 2
  | .e4m3 => 3
  | .e5m2 => 4
  | .i32 => 5
  | .n32 => 6
  | .int8 => 7
  | .int4 => 8

/-- The value a code stands for; none where the code is reserved. -/
def CvtTy.ofCode : Nat → Option CvtTy
  | 0 => some .f32
  | 1 => some .bf16
  | 2 => some .f16
  | 3 => some .e4m3
  | 4 => some .e5m2
  | 5 => some .i32
  | 6 => some .n32
  | 7 => some .int8
  | 8 => some .int4
  | _ => none

/-- Width codes of pack and unpack (R46). -/
def PackW.code : PackW → Nat
  | .h16 => 1
  | .b8 => 2
  | .n4 => 3

/-- The value a code stands for; none where the code is reserved. -/
def PackW.ofCode : Nat → Option PackW
  | 1 => some .h16
  | 2 => some .b8
  | 3 => some .n4
  | _ => none

/-- Matrix format codes (R46). -/
def MFmt.code : MFmt → Nat
  | .e4m3 => 0
  | .e5m2 => 1
  | .e4m3e5m2 => 2
  | .bf16 => 3
  | .f16 => 4
  | .i8 => 5
  | .i8i4 => 6

/-- The value a code stands for; none where the code is reserved. -/
def MFmt.ofCode : Nat → Option MFmt
  | 0 => some .e4m3
  | 1 => some .e5m2
  | 2 => some .e4m3e5m2
  | 3 => some .bf16
  | 4 => some .f16
  | 5 => some .i8
  | 6 => some .i8i4
  | _ => none

/-- Group-size codes (R46). -/
def GroupSize.code : GroupSize → Nat
  | .none => 0
  | .g32 => 1
  | .g64 => 2
  | .g128 => 3

/-- The value a code stands for; none where the code is reserved. -/
def GroupSize.ofCode : Nat → Option GroupSize
  | 0 => some .none
  | 1 => some .g32
  | 2 => some .g64
  | 3 => some .g128
  | _ => Option.none

/-- Scatter-accumulate operation codes (R206). -/
def SaOp.code : SaOp → Nat
  | .add => 0
  | .min => 1
  | .max => 2

/-- The value a code stands for; none where the code is reserved. -/
def SaOp.ofCode : Nat → Option SaOp
  | 0 => some .add
  | 1 => some .min
  | 2 => some .max
  | _ => none

/-- Scatter-accumulate type codes (R206). -/
def SaTy.code : SaTy → Nat
  | .f32 => 0
  | .i32 => 1

/-- The value a code stands for; none where the code is reserved. -/
def SaTy.ofCode : Nat → Option SaTy
  | 0 => some .f32
  | 1 => some .i32
  | _ => none

/-- aggq selector codes (R300). -/
def AggSel.code : AggSel → Nat
  | .budget => 0
  | .status => 1
  | .cost => 2

/-- The value a code stands for; none where the code is reserved. -/
def AggSel.ofCode : Nat → Option AggSel
  | 0 => some .budget
  | 1 => some .status
  | 2 => some .cost
  | _ => none

/-- Operation code of vred (R134). -/
def RedOp.code : RedOp → Nat
  | .fadd _ => 0
  | .fmax _ => 1
  | .fmin _ => 2
  | .iadd _ => 3
  | .imax _ => 4
  | .imin _ => 5

/-- The fmt field of vred (R134). -/
def RedOp.fmtCode : RedOp → Nat
  | .fadd f => f.code
  | .fmax f => f.code
  | .fmin f => f.code
  | .iadd f => f.code
  | .imax f => f.code
  | .imin f => f.code

/-- vred's operation and format; any other pairing is reserved (R134). -/
def RedOp.ofCodes (o f : Nat) : Option RedOp :=
  match o with
  | 0 => (FFmt.ofCode f).map .fadd
  | 1 => (FFmt.ofCode f).map .fmax
  | 2 => (FFmt.ofCode f).map .fmin
  | 3 => (IFmt.ofCode f).map .iadd
  | 4 => (IFmt.ofCode f).map .imax
  | 5 => (IFmt.ofCode f).map .imin
  | _ => none

/-- Predicate and sense of a lend word in its bits 8:3 (R41). -/
def Gate.code (g : Gate) : Nat := g.p.val * 16 + g.neg.toNat * 8

/-- The gate a lend word gives (R41). -/
def Gate.ofLend (lend : Nat) : Gate := { p := Fin.ofNat 32 (lend / 16), neg := fld lend 3 1 == 1 }

/-! ## The opcode map (R46) -/

/-- Opcodes of the scalar class (R46): the outer option is none for an unlisted opcode (reason 8), the inner one for a reserved
field or value (reason 9). -/
def decodeScalar (w : Nat) (g : Gate) (x : Nat) : Option (Option Instr) :=
  match fld w 21 6 with
  | 0 => some (guardB (fld w 0 21 == 0) (some (.nop g)))
  | 1 => some (guardB (fld w 1 2 == 0) (some (.add g (Fin.ofNat 64 (w / 32768)) (Fin.ofNat 64 (w / 512)) (Fin.ofNat 64 (w / 8)) (fld w 0 1 == 1))))
  | 2 => some (guardB (fld w 1 2 == 0) (some (.sub g (Fin.ofNat 64 (w / 32768)) (Fin.ofNat 64 (w / 512)) (Fin.ofNat 64 (w / 8)) (fld w 0 1 == 1))))
  | 3 => some (guardB (fld w 1 2 == 0) (some (.mul g (Fin.ofNat 64 (w / 32768)) (Fin.ofNat 64 (w / 512)) (Fin.ofNat 64 (w / 8)) (fld w 0 1 == 1))))
  | 4 => some (guardB (fld w 1 2 == 0) (some (.mulh g (Fin.ofNat 64 (w / 32768)) (Fin.ofNat 64 (w / 512)) (Fin.ofNat 64 (w / 8)) (fld w 0 1 == 1))))
  | 5 => some (guardB (fld w 1 2 == 0) (some (.mulhn g (Fin.ofNat 64 (w / 32768)) (Fin.ofNat 64 (w / 512)) (Fin.ofNat 64 (w / 8)) (fld w 0 1 == 1))))
  | 6 => some (guardB (fld w 1 2 == 0) (some (.div g (Fin.ofNat 64 (w / 32768)) (Fin.ofNat 64 (w / 512)) (Fin.ofNat 64 (w / 8)) (fld w 0 1 == 1))))
  | 7 => some (guardB (fld w 1 2 == 0) (some (.divn g (Fin.ofNat 64 (w / 32768)) (Fin.ofNat 64 (w / 512)) (Fin.ofNat 64 (w / 8)) (fld w 0 1 == 1))))
  | 8 => some (guardB (fld w 1 2 == 0) (some (.rem g (Fin.ofNat 64 (w / 32768)) (Fin.ofNat 64 (w / 512)) (Fin.ofNat 64 (w / 8)) (fld w 0 1 == 1))))
  | 9 => some (guardB (fld w 1 2 == 0) (some (.remn g (Fin.ofNat 64 (w / 32768)) (Fin.ofNat 64 (w / 512)) (Fin.ofNat 64 (w / 8)) (fld w 0 1 == 1))))
  | 10 => some (guardB (fld w 1 2 == 0) (some (.and g (Fin.ofNat 64 (w / 32768)) (Fin.ofNat 64 (w / 512)) (Fin.ofNat 64 (w / 8)) (fld w 0 1 == 1))))
  | 11 => some (guardB (fld w 1 2 == 0) (some (.or g (Fin.ofNat 64 (w / 32768)) (Fin.ofNat 64 (w / 512)) (Fin.ofNat 64 (w / 8)) (fld w 0 1 == 1))))
  | 12 => some (guardB (fld w 1 2 == 0) (some (.xor g (Fin.ofNat 64 (w / 32768)) (Fin.ofNat 64 (w / 512)) (Fin.ofNat 64 (w / 8)) (fld w 0 1 == 1))))
  | 13 => some (guardB (fld w 1 2 == 0) (some (.andn g (Fin.ofNat 64 (w / 32768)) (Fin.ofNat 64 (w / 512)) (Fin.ofNat 64 (w / 8)) (fld w 0 1 == 1))))
  | 14 => some (guardB (fld w 1 2 == 0) (some (.shl g (Fin.ofNat 64 (w / 32768)) (Fin.ofNat 64 (w / 512)) (Fin.ofNat 64 (w / 8)) (fld w 0 1 == 1))))
  | 15 => some (guardB (fld w 1 2 == 0) (some (.shr g (Fin.ofNat 64 (w / 32768)) (Fin.ofNat 64 (w / 512)) (Fin.ofNat 64 (w / 8)) (fld w 0 1 == 1))))
  | 16 => some (guardB (fld w 1 2 == 0) (some (.sar g (Fin.ofNat 64 (w / 32768)) (Fin.ofNat 64 (w / 512)) (Fin.ofNat 64 (w / 8)) (fld w 0 1 == 1))))
  | 17 => some (guardB (fld w 1 2 == 0) (some (.rotl g (Fin.ofNat 64 (w / 32768)) (Fin.ofNat 64 (w / 512)) (Fin.ofNat 64 (w / 8)) (fld w 0 1 == 1))))
  | 18 => some (guardB (fld w 1 2 == 0) (some (.min g (Fin.ofNat 64 (w / 32768)) (Fin.ofNat 64 (w / 512)) (Fin.ofNat 64 (w / 8)) (fld w 0 1 == 1))))
  | 19 => some (guardB (fld w 1 2 == 0) (some (.max g (Fin.ofNat 64 (w / 32768)) (Fin.ofNat 64 (w / 512)) (Fin.ofNat 64 (w / 8)) (fld w 0 1 == 1))))
  | 20 => some (guardB (fld w 1 2 == 0) (some (.minn g (Fin.ofNat 64 (w / 32768)) (Fin.ofNat 64 (w / 512)) (Fin.ofNat 64 (w / 8)) (fld w 0 1 == 1))))
  | 21 => some (guardB (fld w 1 2 == 0) (some (.maxn g (Fin.ofNat 64 (w / 32768)) (Fin.ofNat 64 (w / 512)) (Fin.ofNat 64 (w / 8)) (fld w 0 1 == 1))))
  | 22 => some (guardB (fld w 1 8 == 0) (some (.clz g (Fin.ofNat 64 (w / 32768)) (Fin.ofNat 64 (w / 512)) (fld w 0 1 == 1))))
  | 23 => some (guardB (fld w 1 8 == 0) (some (.popc g (Fin.ofNat 64 (w / 32768)) (Fin.ofNat 64 (w / 512)) (fld w 0 1 == 1))))
  | 24 => some (guardB (fld w 20 1 == 0) ((Cond.ofCode (fld w 0 3)).bind fun c => some (.cmp g (Fin.ofNat 32 (w / 32768)) (Fin.ofNat 64 (w / 512)) (Fin.ofNat 64 (w / 8)) c)))
  | 25 => some (guardB (fld w 0 3 == 0) (some (.sel g (Fin.ofNat 64 (w / 32768)) (Fin.ofNat 64 (w / 512)) (Fin.ofNat 64 (w / 8)))))
  | 26 => some (guardB (fld w 1 8 == 0) (some (.mov g (Fin.ofNat 64 (w / 32768)) (Fin.ofNat 64 (w / 512)) (fld w 0 1 == 1))))
  | 27 => some (some (.addi g (Fin.ofNat 64 (w / 32768)) (Fin.ofNat 64 (w / 512)) (BitVec.ofNat 12 (x * 512 + fld w 0 9))))
  | 28 => some (some (.andi g (Fin.ofNat 64 (w / 32768)) (Fin.ofNat 64 (w / 512)) (BitVec.ofNat 12 (x * 512 + fld w 0 9))))
  | 29 => some (some (.ori g (Fin.ofNat 64 (w / 32768)) (Fin.ofNat 64 (w / 512)) (BitVec.ofNat 12 (x * 512 + fld w 0 9))))
  | 30 => some (some (.xori g (Fin.ofNat 64 (w / 32768)) (Fin.ofNat 64 (w / 512)) (BitVec.ofNat 12 (x * 512 + fld w 0 9))))
  | 31 => some (some (.shli g (Fin.ofNat 64 (w / 32768)) (Fin.ofNat 64 (w / 512)) (BitVec.ofNat 12 (x * 512 + fld w 0 9))))
  | 32 => some (some (.shri g (Fin.ofNat 64 (w / 32768)) (Fin.ofNat 64 (w / 512)) (BitVec.ofNat 12 (x * 512 + fld w 0 9))))
  | 33 => some (some (.sari g (Fin.ofNat 64 (w / 32768)) (Fin.ofNat 64 (w / 512)) (BitVec.ofNat 12 (x * 512 + fld w 0 9))))
  | 34 => some (guardB (fld w 20 1 == 0) ((Cond.ofCode (fld w 0 3)).bind fun c => some (.cmpi g (Fin.ofNat 32 (w / 32768)) (Fin.ofNat 64 (w / 512)) (BitVec.ofNat 9 (x * 64 + fld w 3 6)) c)))
  | 35 => some (some (.movi g (Fin.ofNat 64 (w / 32768)) (BitVec.ofNat 18 (x * 32768 + fld w 0 15))))
  | 36 => some (some (.movhi g (Fin.ofNat 64 (w / 32768)) (BitVec.ofNat 18 (x * 32768 + fld w 0 15))))
  | 37 => some (guardB (fld w 0 3 == 0) (some (.rds g (Fin.ofNat 64 (w / 32768)) (BitVec.ofNat 12 (w / 8)))))
  | 38 => some (guardB (fld w 0 3 == 0) (some (.wrs g (Fin.ofNat 64 (w / 32768)) (BitVec.ofNat 12 (w / 8)))))
  | 39 => some (guardB (fld w 0 7 == 0) (some (.stgw g (Fin.ofNat 64 (w / 32768)) { eng := Fin.ofNat 8 (w / 4096), set := Fin.ofNat 4 (w / 1024), word := Fin.ofNat 8 (w / 128) })))
  | 40 => some (guardB (fld w 0 7 == 0) (some (.stgr g (Fin.ofNat 64 (w / 32768)) { eng := Fin.ofNat 8 (w / 4096), set := Fin.ofNat 4 (w / 1024), word := Fin.ofNat 8 (w / 128) })))
  | 41 => some (if fld w 0 1 == 0 then guardB (fld w 0 9 == 0 && fld w 18 3 == 0) (some (.gmsetReg g (Fin.ofNat 8 (w / 32768)) (Fin.ofNat 64 (w / 512))))
      else guardB (fld w 9 6 == 0 && fld w 18 3 == 0) (some (.gmsetImm g (Fin.ofNat 8 (w / 32768)) (BitVec.ofNat 8 (w / 2)))))
  | 42 => some (if fld w 13 1 == 0 then guardB (fld w 13 1 == 0) (some (.amkLocation g (Fin.ofNat 16 (w / 131072)) (Fin.ofNat 8 (w / 16384)) (BitVec.ofNat 13 (w / 1))))
      else guardB (fld w 0 1 == 0) (some (.amkRegister g (Fin.ofNat 16 (w / 131072)) (Fin.ofNat 8 (w / 16384)) (Fin.ofNat 64 (w / 128)) (Fin.ofNat 64 (w / 2)))))
  | 43 => some (if fld w 12 1 == 0 then guardB (fld w 12 1 == 0) (some (.aaddImm g (Fin.ofNat 16 (w / 131072)) (Fin.ofNat 16 (w / 8192)) (BitVec.ofNat 15 (x * 4096 + fld w 0 12))))
      else guardB (fld w 0 6 == 0) (some (.aaddReg g (Fin.ofNat 16 (w / 131072)) (Fin.ofNat 16 (w / 8192)) (Fin.ofNat 64 (w / 64)))))
  | _ => none

/-- Opcodes of the vector class (R46): the outer option is none for an unlisted opcode (reason 8), the inner one for a reserved
field or value (reason 9). -/
def decodeVector (w : Nat) (g : Gate) (x : Nat) : Option (Option Instr) :=
  match fld w 21 6 with
  | 0 => some (guardB (fld w 2 2 == 0) ((FFmt.ofCode (fld w 19 2)).bind fun f => (Rnd.ofCode (fld w 0 2)).bind fun r => some (.fadd g (Fin.ofNat 8 x) f (Fin.ofNat 32 (w / 16384)) (Fin.ofNat 32 (w / 512)) (Fin.ofNat 32 (w / 16)) r)))
  | 1 => some (guardB (fld w 2 2 == 0) ((FFmt.ofCode (fld w 19 2)).bind fun f => (Rnd.ofCode (fld w 0 2)).bind fun r => some (.fsub g (Fin.ofNat 8 x) f (Fin.ofNat 32 (w / 16384)) (Fin.ofNat 32 (w / 512)) (Fin.ofNat 32 (w / 16)) r)))
  | 2 => some (guardB (fld w 2 2 == 0) ((FFmt.ofCode (fld w 19 2)).bind fun f => (Rnd.ofCode (fld w 0 2)).bind fun r => some (.fmul g (Fin.ofNat 8 x) f (Fin.ofNat 32 (w / 16384)) (Fin.ofNat 32 (w / 512)) (Fin.ofNat 32 (w / 16)) r)))
  | 3 => some (guardB (fld w 2 2 == 0) ((FFmt.ofCode (fld w 19 2)).bind fun f => (Rnd.ofCode (fld w 0 2)).bind fun r => some (.fma g (Fin.ofNat 8 x) f (Fin.ofNat 32 (w / 16384)) (Fin.ofNat 32 (w / 512)) (Fin.ofNat 32 (w / 16)) r)))
  | 4 => some (guardB (fld w 2 2 == 0) ((FFmt.ofCode (fld w 19 2)).bind fun f => (Rnd.ofCode (fld w 0 2)).bind fun r => some (.fms g (Fin.ofNat 8 x) f (Fin.ofNat 32 (w / 16384)) (Fin.ofNat 32 (w / 512)) (Fin.ofNat 32 (w / 16)) r)))
  | 5 => some (guardB (fld w 2 2 == 0) ((FFmt.ofCode (fld w 19 2)).bind fun f => (Rnd.ofCode (fld w 0 2)).bind fun r => some (.fnma g (Fin.ofNat 8 x) f (Fin.ofNat 32 (w / 16384)) (Fin.ofNat 32 (w / 512)) (Fin.ofNat 32 (w / 16)) r)))
  | 6 => some (guardB (fld w 0 4 == 0) ((FFmt.ofCode (fld w 19 2)).bind fun f => some (.fmin g (Fin.ofNat 8 x) f (Fin.ofNat 32 (w / 16384)) (Fin.ofNat 32 (w / 512)) (Fin.ofNat 32 (w / 16)))))
  | 7 => some (guardB (fld w 0 4 == 0) ((FFmt.ofCode (fld w 19 2)).bind fun f => some (.fmax g (Fin.ofNat 8 x) f (Fin.ofNat 32 (w / 16384)) (Fin.ofNat 32 (w / 512)) (Fin.ofNat 32 (w / 16)))))
  | 8 => some (guardB (fld w 0 9 == 0) ((FFmt.ofCode (fld w 19 2)).bind fun f => some (.fneg g (Fin.ofNat 8 x) f (Fin.ofNat 32 (w / 16384)) (Fin.ofNat 32 (w / 512)))))
  | 9 => some (guardB (fld w 0 9 == 0) ((FFmt.ofCode (fld w 19 2)).bind fun f => some (.fabs g (Fin.ofNat 8 x) f (Fin.ofNat 32 (w / 16384)) (Fin.ofNat 32 (w / 512)))))
  | 10 => some (guardB (fld w 3 1 == 0) ((FFmt.ofCode (fld w 19 2)).bind fun f => (FCond.ofCode (fld w 0 3)).bind fun c => some (.fcmp g (Fin.ofNat 8 x) f (Fin.ofNat 32 (w / 16384)) (Fin.ofNat 32 (w / 512)) (Fin.ofNat 32 (w / 16)) c)))
  | 11 => some (guardB (fld w 0 4 == 0) ((FFmt.ofCode (fld w 19 2)).bind fun f => some (.fclass g (Fin.ofNat 8 x) f (Fin.ofNat 32 (w / 16384)) (Fin.ofNat 32 (w / 512)) (BitVec.ofNat 5 (w / 16)))))
  | 12 => some (guardB (fld w 1 3 == 0) ((IFmt.ofCode (fld w 19 2)).bind fun f => some (.iadd g (Fin.ofNat 8 x) f (Fin.ofNat 32 (w / 16384)) (Fin.ofNat 32 (w / 512)) (Fin.ofNat 32 (w / 16)) (fld w 0 1 == 1))))
  | 13 => some (guardB (fld w 1 3 == 0) ((IFmt.ofCode (fld w 19 2)).bind fun f => some (.isub g (Fin.ofNat 8 x) f (Fin.ofNat 32 (w / 16384)) (Fin.ofNat 32 (w / 512)) (Fin.ofNat 32 (w / 16)) (fld w 0 1 == 1))))
  | 14 => some (guardB (fld w 0 4 == 0) ((IFmt.ofCode (fld w 19 2)).bind fun f => some (.imul g (Fin.ofNat 8 x) f (Fin.ofNat 32 (w / 16384)) (Fin.ofNat 32 (w / 512)) (Fin.ofNat 32 (w / 16)))))
  | 15 => some (guardB (fld w 0 4 == 0) ((IFmt.ofCode (fld w 19 2)).bind fun f => some (.imulh g (Fin.ofNat 8 x) f (Fin.ofNat 32 (w / 16384)) (Fin.ofNat 32 (w / 512)) (Fin.ofNat 32 (w / 16)))))
  | 16 => some (guardB (fld w 0 4 == 0) ((IFmt.ofCode (fld w 19 2)).bind fun f => some (.iand g (Fin.ofNat 8 x) f (Fin.ofNat 32 (w / 16384)) (Fin.ofNat 32 (w / 512)) (Fin.ofNat 32 (w / 16)))))
  | 17 => some (guardB (fld w 0 4 == 0) ((IFmt.ofCode (fld w 19 2)).bind fun f => some (.ior g (Fin.ofNat 8 x) f (Fin.ofNat 32 (w / 16384)) (Fin.ofNat 32 (w / 512)) (Fin.ofNat 32 (w / 16)))))
  | 18 => some (guardB (fld w 0 4 == 0) ((IFmt.ofCode (fld w 19 2)).bind fun f => some (.ixor g (Fin.ofNat 8 x) f (Fin.ofNat 32 (w / 16384)) (Fin.ofNat 32 (w / 512)) (Fin.ofNat 32 (w / 16)))))
  | 19 => some (guardB (fld w 0 4 == 0) ((IFmt.ofCode (fld w 19 2)).bind fun f => some (.iandn g (Fin.ofNat 8 x) f (Fin.ofNat 32 (w / 16384)) (Fin.ofNat 32 (w / 512)) (Fin.ofNat 32 (w / 16)))))
  | 20 => some (if fld w 3 1 == 0 then guardB (fld w 0 4 == 0) ((IFmt.ofCode (fld w 19 2)).bind fun f => some (.ishl g (Fin.ofNat 8 x) f (Fin.ofNat 32 (w / 16384)) (Fin.ofNat 32 (w / 512)) (Fin.ofNat 32 (w / 16))))
      else guardB (fld w 0 3 == 0) ((IFmt.ofCode (fld w 19 2)).bind fun f => some (.ishlImm g (Fin.ofNat 8 x) f (Fin.ofNat 32 (w / 16384)) (Fin.ofNat 32 (w / 512)) (BitVec.ofNat 5 (w / 16)))))
  | 21 => some (if fld w 3 1 == 0 then guardB (fld w 0 4 == 0) ((IFmt.ofCode (fld w 19 2)).bind fun f => some (.ishr g (Fin.ofNat 8 x) f (Fin.ofNat 32 (w / 16384)) (Fin.ofNat 32 (w / 512)) (Fin.ofNat 32 (w / 16))))
      else guardB (fld w 0 3 == 0) ((IFmt.ofCode (fld w 19 2)).bind fun f => some (.ishrImm g (Fin.ofNat 8 x) f (Fin.ofNat 32 (w / 16384)) (Fin.ofNat 32 (w / 512)) (BitVec.ofNat 5 (w / 16)))))
  | 22 => some (if fld w 3 1 == 0 then guardB (fld w 0 4 == 0) ((IFmt.ofCode (fld w 19 2)).bind fun f => some (.isar g (Fin.ofNat 8 x) f (Fin.ofNat 32 (w / 16384)) (Fin.ofNat 32 (w / 512)) (Fin.ofNat 32 (w / 16))))
      else guardB (fld w 0 3 == 0) ((IFmt.ofCode (fld w 19 2)).bind fun f => some (.isarImm g (Fin.ofNat 8 x) f (Fin.ofNat 32 (w / 16384)) (Fin.ofNat 32 (w / 512)) (BitVec.ofNat 5 (w / 16)))))
  | 23 => some (guardB (fld w 0 4 == 0) ((IFmt.ofCode (fld w 19 2)).bind fun f => some (.imin g (Fin.ofNat 8 x) f (Fin.ofNat 32 (w / 16384)) (Fin.ofNat 32 (w / 512)) (Fin.ofNat 32 (w / 16)))))
  | 24 => some (guardB (fld w 0 4 == 0) ((IFmt.ofCode (fld w 19 2)).bind fun f => some (.imax g (Fin.ofNat 8 x) f (Fin.ofNat 32 (w / 16384)) (Fin.ofNat 32 (w / 512)) (Fin.ofNat 32 (w / 16)))))
  | 25 => some (guardB (fld w 3 1 == 0) ((IFmt.ofCode (fld w 19 2)).bind fun f => (ICond.ofCode (fld w 0 3)).bind fun c => some (.icmp g (Fin.ofNat 8 x) f (Fin.ofNat 32 (w / 16384)) (Fin.ofNat 32 (w / 512)) (Fin.ofNat 32 (w / 16)) c)))
  | 26 => some (guardB (fld w 0 9 == 0 && fld w 19 2 == 0) (some (.vmov g (Fin.ofNat 8 x) (Fin.ofNat 32 (w / 16384)) (Fin.ofNat 32 (w / 512)))))
  | 27 => some (guardB (fld w 0 4 == 0 && fld w 19 2 == 0) (some (.vsel g (Fin.ofNat 8 x) (Fin.ofNat 32 (w / 16384)) (Fin.ofNat 32 (w / 512)) (Fin.ofNat 32 (w / 16)))))
  | 28 => some (guardB (fld w 1 7 == 0 && fld w 19 2 == 0) (some (.vbcast g (Fin.ofNat 8 x) (Fin.ofNat 32 (w / 16384)) (Fin.ofNat 64 (w / 256)) (fld w 0 1 == 1))))
  | 29 => some (guardB (fld w 0 4 == 0 && fld w 8 1 == 0 && fld w 19 2 == 0) (some (.vlane g (Fin.ofNat 8 x) (Fin.ofNat 32 (w / 16384)) (Fin.ofNat 32 (w / 512)) (Fin.ofNat 16 (w / 16)))))
  | 30 => some (guardB (fld w 0 14 == 0 && fld w 19 2 == 0) (some (.vidx g (Fin.ofNat 8 x) (Fin.ofNat 32 (w / 16384)))))
  | 31 => some (guardB (fld w 0 4 == 0 && fld w 19 2 == 0) (some (.vperm g (Fin.ofNat 8 x) (Fin.ofNat 32 (w / 16384)) (Fin.ofNat 32 (w / 512)) (Fin.ofNat 32 (w / 16)))))
  | 32 => some (guardB (fld w 3 6 == 0) ((RedOp.ofCodes (fld w 0 3) (fld w 19 2)).bind fun o => some (.vred g (Fin.ofNat 8 x) o (Fin.ofNat 32 (w / 16384)) (Fin.ofNat 32 (w / 512)))))
  | 33 => some (guardB (fld w 0 4 == 0 && fld w 7 2 == 0 && fld w 19 2 == 0) (some (.xg g (Fin.ofNat 8 x) (Fin.ofNat 32 (w / 16384)) (Fin.ofNat 32 (w / 512)) (Fin.ofNat 8 (w / 16)))))
  | 34 => some ((CvtTy.ofCode (fld w 19 2 * 4 + fld w 7 2)).bind fun dt => (CvtTy.ofCode (fld w 4 3)).bind fun st => (Rnd.ofCode (fld w 0 2)).bind fun r => some (.cvt g (Fin.ofNat 8 x) dt st (Fin.ofNat 32 (w / 16384)) (Fin.ofNat 32 (w / 512)) (fld w 3 1 == 1) (fld w 2 1 == 1) r))
  | 35 => some ((CvtTy.ofCode (fld w 19 2 * 4 + fld w 7 2)).bind fun dt => (CvtTy.ofCode (fld w 4 3)).bind fun st => (Rnd.ofCode (fld w 0 2)).bind fun r => some (.qnt g (Fin.ofNat 8 x) dt st (Fin.ofNat 32 (w / 16384)) (Fin.ofNat 32 (w / 512)) (fld w 3 1 == 1) (fld w 2 1 == 1) r))
  | 36 => some ((CvtTy.ofCode (fld w 19 2 * 4 + fld w 7 2)).bind fun dt => (CvtTy.ofCode (fld w 4 3)).bind fun st => (Rnd.ofCode (fld w 0 2)).bind fun r => some (.dqnt g (Fin.ofNat 8 x) dt st (Fin.ofNat 32 (w / 16384)) (Fin.ofNat 32 (w / 512)) (fld w 3 1 == 1) (fld w 2 1 == 1) r))
  | 37 => some (guardB (fld w 4 5 == 0 && fld w 3 1 == 0) ((PackW.ofCode (fld w 19 2)).bind fun pw => some (.pack g (Fin.ofNat 8 x) pw (Fin.ofNat 32 (w / 16384)) (Fin.ofNat 32 (w / 512)) (Fin.ofNat 8 w))))
  | 38 => some (guardB (fld w 4 5 == 0) ((PackW.ofCode (fld w 19 2)).bind fun pw => some (.unpack g (Fin.ofNat 8 x) pw (Fin.ofNat 32 (w / 16384)) (Fin.ofNat 32 (w / 512)) (Fin.ofNat 8 w) (fld w 3 1 == 1))))
  | 39 => some (guardB (fld w 0 9 == 0 && fld w 14 7 == 0) (some (.vskim g (Fin.ofNat 8 x) (Fin.ofNat 32 (w / 512)))))
  | 40 => some (guardB (fld w 0 8 == 0 && fld w 19 2 == 0) (some (.vbern g (Fin.ofNat 8 x) (Fin.ofNat 32 (w / 16384)) (Fin.ofNat 64 (w / 256)))))
  | 41 => some (guardB (fld w 0 14 == 0 && fld w 19 2 == 0) (some (.vrand g (Fin.ofNat 8 x) (Fin.ofNat 32 (w / 16384)))))
  | 42 => some (guardB (fld w 20 1 == 0) (some (.vimm g (Fin.ofNat 8 x) (fld w 19 1 == 1) (Fin.ofNat 32 (w / 16384)) (BitVec.ofNat 14 (w / 1)))))
  | _ => none

/-- Opcodes of the special class (R46): the outer option is none for an unlisted opcode (reason 8), the inner one for a reserved
field or value (reason 9). -/
def decodeSpecial (w : Nat) (g : Gate) (x : Nat) : Option (Option Instr) :=
  match fld w 22 5 with
  | 0 => some (guardB (fld w 0 10 == 0) ((FFmt.ofCode (fld w 20 2)).bind fun f => some (.frcp g (Fin.ofNat 8 x) f (Fin.ofNat 32 (w / 32768)) (Fin.ofNat 32 (w / 1024)))))
  | 1 => some (guardB (fld w 0 5 == 0) ((FFmt.ofCode (fld w 20 2)).bind fun f => some (.fdiv g (Fin.ofNat 8 x) f (Fin.ofNat 32 (w / 32768)) (Fin.ofNat 32 (w / 1024)) (Fin.ofNat 32 (w / 32)))))
  | 2 => some (guardB (fld w 0 10 == 0) ((FFmt.ofCode (fld w 20 2)).bind fun f => some (.fsqrt g (Fin.ofNat 8 x) f (Fin.ofNat 32 (w / 32768)) (Fin.ofNat 32 (w / 1024)))))
  | 3 => some (guardB (fld w 0 10 == 0) ((FFmt.ofCode (fld w 20 2)).bind fun f => some (.frsqrt g (Fin.ofNat 8 x) f (Fin.ofNat 32 (w / 32768)) (Fin.ofNat 32 (w / 1024)))))
  | 4 => some (guardB (fld w 0 10 == 0) ((FFmt.ofCode (fld w 20 2)).bind fun f => some (.fexp2 g (Fin.ofNat 8 x) f (Fin.ofNat 32 (w / 32768)) (Fin.ofNat 32 (w / 1024)))))
  | 5 => some (guardB (fld w 0 10 == 0) ((FFmt.ofCode (fld w 20 2)).bind fun f => some (.flog2 g (Fin.ofNat 8 x) f (Fin.ofNat 32 (w / 32768)) (Fin.ofNat 32 (w / 1024)))))
  | _ => none

/-- Opcodes of the memory class (R46): the outer option is none for an unlisted opcode (reason 8), the inner one for a reserved
field or value (reason 9). -/
def decodeMemory (w : Nat) (g : Gate) (x : Nat) : Option (Option Instr) :=
  match fld w 22 5 with
  | 0 => some (some (.lds g (Fin.ofNat 64 (w / 65536)) (Fin.ofNat 16 (w / 4096)) (BitVec.ofNat 12 (x * 512 + fld w 3 9)) (Fin.ofNat 8 (w / 1))))
  | 1 => some (some (.sts g (Fin.ofNat 64 (w / 65536)) (Fin.ofNat 16 (w / 4096)) (BitVec.ofNat 12 (x * 512 + fld w 3 9)) (Fin.ofNat 8 (w / 1))))
  | 2 => some (guardB (fld w 21 1 == 0) (some (.ldv g (Fin.ofNat 8 x) (Fin.ofNat 32 (w / 65536)) (Fin.ofNat 16 (w / 4096)) (BitVec.ofNat 9 (w / 8)) (Fin.ofNat 8 (w / 1)))))
  | 3 => some (guardB (fld w 21 1 == 0) (some (.stv g (Fin.ofNat 8 x) (Fin.ofNat 32 (w / 65536)) (Fin.ofNat 16 (w / 4096)) (BitVec.ofNat 9 (w / 8)) (Fin.ofNat 8 (w / 1)))))
  | 4 => some (guardB (fld w 21 1 == 0) (some (.ldvq g (Fin.ofNat 8 x) (Fin.ofNat 32 (w / 65536)) (Fin.ofNat 16 (w / 4096)) (BitVec.ofNat 9 (w / 8)) (Fin.ofNat 8 (w / 1)))))
  | 5 => some (guardB (fld w 21 1 == 0) (some (.stvq g (Fin.ofNat 8 x) (Fin.ofNat 32 (w / 65536)) (Fin.ofNat 16 (w / 4096)) (BitVec.ofNat 9 (w / 8)) (Fin.ofNat 8 (w / 1)))))
  | 6 => some (guardB (fld w 0 3 == 0 && fld w 14 2 == 0) (some (.ldsp g (Fin.ofNat 64 (w / 65536)) (BitVec.ofNat 11 (w / 8)))))
  | 7 => some (guardB (fld w 0 3 == 0 && fld w 14 2 == 0) (some (.stsp g (Fin.ofNat 64 (w / 65536)) (BitVec.ofNat 11 (w / 8)))))
  | 8 => some (guardB (fld w 0 3 == 0 && fld w 14 2 == 0 && fld w 21 1 == 0) (some (.ldvsp g (Fin.ofNat 8 x) (Fin.ofNat 32 (w / 65536)) (BitVec.ofNat 11 (w / 8)))))
  | 9 => some (guardB (fld w 0 3 == 0 && fld w 14 2 == 0 && fld w 21 1 == 0) (some (.stvsp g (Fin.ofNat 8 x) (Fin.ofNat 32 (w / 65536)) (BitVec.ofNat 11 (w / 8)))))
  | 10 => some (guardB (fld w 3 4 == 0 && fld w 21 1 == 0) (some (.ldx g (Fin.ofNat 8 x) (Fin.ofNat 32 (w / 65536)) (Fin.ofNat 16 (w / 4096)) (Fin.ofNat 32 (w / 128)) (Fin.ofNat 8 (w / 1)))))
  | 11 => some (guardB (fld w 3 4 == 0 && fld w 21 1 == 0) (some (.stx g (Fin.ofNat 8 x) (Fin.ofNat 32 (w / 65536)) (Fin.ofNat 16 (w / 4096)) (Fin.ofNat 32 (w / 128)) (Fin.ofNat 8 (w / 1)))))
  | 12 => some (some (.ldh g (Fin.ofNat 64 (w / 65536)) (Fin.ofNat 16 (w / 4096)) (BitVec.ofNat 12 (x * 512 + fld w 3 9)) (Fin.ofNat 8 (w / 1))))
  | 13 => some (some (.sth g (Fin.ofNat 64 (w / 65536)) (Fin.ofNat 16 (w / 4096)) (BitVec.ofNat 12 (x * 512 + fld w 3 9)) (Fin.ofNat 8 (w / 1))))
  | 14 => some (guardB (fld w 0 10 == 0 && fld w 21 1 == 0) (some (.xlat g (Fin.ofNat 32 (w / 65536)) (Fin.ofNat 64 (w / 1024)))))
  | 15 => some (guardB (fld w 0 16 == 0 && fld w 21 1 == 0) (some (.hinv g (Fin.ofNat 32 (w / 65536)))))
  | 16 => some (guardB (fld w 0 22 == 0) (some (.drain g)))
  | _ => none

/-- Opcodes of the branch class (R46): the outer option is none for an unlisted opcode (reason 8), the inner one for a reserved
field or value (reason 9). -/
def decodeBranch (w : Nat) (g : Gate) (x : Nat) : Option (Option Instr) :=
  match fld w 22 5 with
  | 0 => some (some (.br g (BitVec.ofNat 25 (x * 4194304 + fld w 0 22))))
  | 1 => some (guardB (fld w 0 16 == 0) (some (.brr g (Fin.ofNat 64 (w / 65536)))))
  | 2 => some (some (.call g (BitVec.ofNat 25 (x * 4194304 + fld w 0 22))))
  | 3 => some (guardB (fld w 0 22 == 0) (some (.ret g)))
  | 4 => some (guardB (fld w 0 1 == 0) (some (.loop (Fin.ofNat 4 (w / 1048576)) (Fin.ofNat 64 (w / 16384)) (BitVec.ofNat 11 (w / 8)) (fld w 2 1 == 1) (fld w 1 1 == 1))))
  | 5 => some (some (.loopi (Fin.ofNat 4 (w / 1048576)) (BitVec.ofNat 9 (w / 2048)) (BitVec.ofNat 9 (w / 4)) (fld w 1 1 == 1) (fld w 0 1 == 1)))
  | 6 => some (guardB (fld w 0 20 == 0) (some (.lbreak g (Fin.ofNat 4 (w / 1048576)))))
  | 7 => some (guardB (fld w 0 12 == 0) (some (.roll (Fin.ofNat 2 (w / 2097152)) (BitVec.ofNat 9 (w / 4096)))))
  | 8 => some (guardB (fld w 0 22 == 0) (some .yield))
  | 9 => some (guardB (fld w 0 22 == 0) (some .halt))
  | _ => none

/-- Opcodes of the matrix class (R46): the outer option is none for an unlisted opcode (reason 8), the inner one for a reserved
field or value (reason 9). -/
def decodeMatrix (w : Nat) (g : Gate) (_x : Nat) : Option (Option Instr) :=
  match fld w 24 3 with
  | 0 => some (if fld w 4 1 == 0 then guardB (fld w 4 1 == 0) ((MFmt.ofCode (fld w 6 3)).bind fun f => (GroupSize.ofCode (fld w 0 3)).bind fun gs => some (.mma g (Fin.ofNat 16 (w / 1048576)) (Fin.ofNat 16 (w / 65536)) (Fin.ofNat 32 (w / 2048)) (Fin.ofNat 4 (w / 512)) f (fld w 5 1 == 1) (fld w 3 1 == 1) gs))
      else guardB (fld w 5 1 == 0 && fld w 9 2 == 0) ((MFmt.ofCode (fld w 6 3)).bind fun f => (GroupSize.ofCode (fld w 0 3)).bind fun gs => some (.mmaDl g (Fin.ofNat 16 (w / 1048576)) (Fin.ofNat 16 (w / 65536)) (Fin.ofNat 32 (w / 2048)) f (fld w 3 1 == 1) gs)))
  | 1 => some (if fld w 4 1 == 0 then guardB (fld w 4 1 == 0) ((MFmt.ofCode (fld w 6 3)).bind fun f => (GroupSize.ofCode (fld w 0 3)).bind fun gs => some (.mmaz g (Fin.ofNat 16 (w / 1048576)) (Fin.ofNat 16 (w / 65536)) (Fin.ofNat 32 (w / 2048)) (Fin.ofNat 4 (w / 512)) f (fld w 5 1 == 1) (fld w 3 1 == 1) gs))
      else guardB (fld w 5 1 == 0 && fld w 9 2 == 0) ((MFmt.ofCode (fld w 6 3)).bind fun f => (GroupSize.ofCode (fld w 0 3)).bind fun gs => some (.mmazDl g (Fin.ofNat 16 (w / 1048576)) (Fin.ofNat 16 (w / 65536)) (Fin.ofNat 32 (w / 2048)) f (fld w 3 1 == 1) gs)))
  | 2 => some (guardB (fld w 0 6 == 0 && fld w 9 7 == 0 && fld w 20 4 == 0) (some (.bld g (Fin.ofNat 16 (w / 65536)) (Fin.ofNat 8 (w / 64)))))
  | 3 => some (guardB (fld w 0 24 == 0) (some (.bswap g)))
  | 4 => some (guardB (fld w 0 15 == 0) (some (.qpop g (Fin.ofNat 16 (w / 1048576)) (Fin.ofNat 32 (w / 32768)))))
  | 5 => some (guardB (fld w 0 15 == 0) (some (.qadv g (Fin.ofNat 16 (w / 1048576)) (Fin.ofNat 32 (w / 32768)))))
  | 6 => some (guardB (fld w 0 20 == 0) (some (.qrst g (Fin.ofNat 16 (w / 1048576)))))
  | _ => none

/-- Opcodes of the port class (R46): the outer option is none for an unlisted opcode (reason 8), the inner one for a reserved
field or value (reason 9). -/
def decodePort (w : Nat) (g : Gate) (x : Nat) : Option (Option Instr) :=
  match fld w 25 2 with
  | 0 => some (guardB (fld w 0 9 == 0) (some (.accrd g (Fin.ofNat 8 x) (Fin.ofNat 32 (w / 1048576)) (Fin.ofNat 32 (w / 32768)) (Fin.ofNat 64 (w / 512)))))
  | 1 => some (guardB (fld w 0 9 == 0) (some (.accwr g (Fin.ofNat 8 x) (Fin.ofNat 32 (w / 1048576)) (Fin.ofNat 32 (w / 32768)) (Fin.ofNat 64 (w / 512)))))
  | 2 => some (guardB (fld w 0 9 == 0) (some (.accadd g (Fin.ofNat 8 x) (Fin.ofNat 32 (w / 1048576)) (Fin.ofNat 32 (w / 32768)) (Fin.ofNat 64 (w / 512)))))
  | 3 => some (guardB (fld w 0 9 == 0 && fld w 20 5 == 0) (some (.accclr g (Fin.ofNat 8 x) (Fin.ofNat 32 (w / 32768)) (Fin.ofNat 64 (w / 512)))))
  | _ => none

/-- Opcodes of the copy class (R46): the outer option is none for an unlisted opcode (reason 8), the inner one for a reserved
field or value (reason 9). -/
def decodeCopy (w : Nat) (g : Gate) (_x : Nat) : Option (Option Instr) :=
  match fld w 24 3 with
  | 0 => some (guardB (fld w 0 22 == 0) (some (.cp g (Fin.ofNat 4 (w / 4194304)))))
  | 1 => some (guardB (fld w 0 18 == 0) (some (.cpq g (Fin.ofNat 4 (w / 4194304)) (Fin.ofNat 16 (w / 262144)))))
  | 2 => some (guardB (fld w 0 22 == 0) (some (.tmv g (Fin.ofNat 4 (w / 4194304)))))
  | 3 => some (guardB (fld w 0 22 == 0) (some (.cpfill g (Fin.ofNat 4 (w / 4194304)))))
  | 4 => some (guardB (fld w 0 22 == 0) (some (.cpchain g (Fin.ofNat 4 (w / 4194304)))))
  | 5 => some (guardB (fld w 0 24 == 0) (some (.cphalt g)))
  | _ => none

/-- Opcodes of the scatter class (R46): the outer option is none for an unlisted opcode (reason 8), the inner one for a reserved
field or value (reason 9). -/
def decodeScatter (w : Nat) (g : Gate) (x : Nat) : Option (Option Instr) :=
  match fld w 24 3 with
  | 0 => some (guardB (fld w 0 11 == 0) ((SaOp.ofCode (fld w 12 2)).bind fun o => (SaTy.ofCode (fld w 11 1)).bind fun t => some (.saenq g (Fin.ofNat 8 x) (Fin.ofNat 32 (w / 524288)) (Fin.ofNat 32 (w / 16384)) o t)))
  | 1 => some (guardB (fld w 0 23 == 0) (some (.sarun g (Fin.ofNat 2 (w / 8388608)))))
  | 2 => some (guardB (fld w 0 24 == 0) (some (.saflush g)))
  | 3 => some (guardB (fld w 0 17 == 0) (some (.sawin g (Fin.ofNat 128 (w / 131072)))))
  | _ => none

/-- Opcodes of the link class (R46): the outer option is none for an unlisted opcode (reason 8), the inner one for a reserved
field or value (reason 9). -/
def decodeLink (w : Nat) (g : Gate) (_x : Nat) : Option (Option Instr) :=
  match fld w 24 3 with
  | 0 => some (guardB (fld w 0 14 == 0) (some (.send g (Fin.ofNat 256 (w / 65536)) (Fin.ofNat 4 (w / 16384)))))
  | 1 => some (guardB (fld w 0 14 == 0) (some (.put g (Fin.ofNat 256 (w / 65536)) (Fin.ofNat 4 (w / 16384)))))
  | 2 => some (guardB (fld w 0 14 == 0) (some (.recv g (Fin.ofNat 256 (w / 65536)) (Fin.ofNat 4 (w / 16384)))))
  | 3 => some (guardB (fld w 0 14 == 0) (some (.allred g (Fin.ofNat 256 (w / 65536)) (Fin.ofNat 4 (w / 16384)))))
  | 4 => some (guardB (fld w 0 14 == 0) (some (.agfwd g (Fin.ofNat 256 (w / 65536)) (Fin.ofNat 4 (w / 16384)))))
  | _ => none

/-- Opcodes of the aggregate class (R46): the outer option is none for an unlisted opcode (reason 8), the inner one for a reserved
field or value (reason 9). -/
def decodeAggregate (w : Nat) (g : Gate) (_x : Nat) : Option (Option Instr) :=
  match fld w 26 1 with
  | 0 => some (guardB (fld w 0 20 == 0) (some (.agg g (Fin.ofNat 64 (w / 1048576)))))
  | 1 => some (guardB (fld w 0 12 == 0) ((AggSel.ofCode (fld w 12 2)).bind fun x => some (.aggq g (Fin.ofNat 64 (w / 1048576)) (Fin.ofNat 64 (w / 16384)) x)))
  | _ => none

/-- Opcodes of the ownership class (R46): the outer option is none for an unlisted opcode (reason 8), the inner one for a reserved
field or value (reason 9). -/
def decodeOwnership (w : Nat) (g : Gate) (_x : Nat) : Option (Option Instr) :=
  match fld w 23 4 with
  | 0 => some (guardB (fld w 0 11 == 0) (some (.tlend g (Fin.ofNat 64 (w / 131072)) (Fin.ofNat 64 (w / 2048)))))
  | 1 => some (guardB (fld w 0 17 == 0) (some (.tret g (Fin.ofNat 64 (w / 131072)))))
  | 2 => some (guardB (fld w 0 5 == 0) (some (.tsplit g (Fin.ofNat 64 (w / 131072)) (Fin.ofNat 64 (w / 2048)) (Fin.ofNat 64 (w / 32)))))
  | 3 => some (guardB (fld w 0 11 == 0) (some (.tjoin g (Fin.ofNat 64 (w / 131072)) (Fin.ofNat 64 (w / 2048)))))
  | 4 => some (guardB (fld w 0 11 == 0) (some (.tshare g (Fin.ofNat 64 (w / 131072)) (Fin.ofNat 64 (w / 2048)))))
  | 5 => some (guardB (fld w 0 11 == 0) (some (.tunshare g (Fin.ofNat 64 (w / 131072)) (Fin.ofNat 64 (w / 2048)))))
  | 6 => some (guardB (fld w 0 11 == 0) (some (.tprobe g (Fin.ofNat 64 (w / 131072)) (Fin.ofNat 64 (w / 2048)))))
  | 7 => some (if fld w 16 1 == 0 then guardB (fld w 0 17 == 0) (some (.tcleanKeep g (Fin.ofNat 64 (w / 131072))))
      else guardB (fld w 0 16 == 0) (some (.tcleanZero g (Fin.ofNat 64 (w / 131072)))))
  | 8 => some (if fld w 7 1 == 0 then guardB (fld w 0 12 == 0 && fld w 17 6 == 0) (some (.bkalloc g (Fin.ofNat 32 (w / 4096))))
      else guardB (fld w 0 7 == 0 && fld w 17 6 == 0) (some (.bkallocNamed g (Fin.ofNat 32 (w / 4096)) (Fin.ofNat 4 (w / 1024)) (Fin.ofNat 4 (w / 256)))))
  | 9 => some (guardB (fld w 0 12 == 0 && fld w 17 6 == 0) (some (.bkfree g (Fin.ofNat 32 (w / 4096)))))
  | _ => none

/-- Opcodes of the scale class (R46): the outer option is none for an unlisted opcode (reason 8), the inner one for a reserved
field or value (reason 9). -/
def decodeScale (w : Nat) (g : Gate) (_x : Nat) : Option (Option Instr) :=
  match fld w 25 2 with
  | 0 => some (guardB (fld w 0 12 == 0) (some (.scld g (Fin.ofNat 16 (w / 2097152)) (BitVec.ofNat 9 (w / 4096)))))
  | 1 => some (guardB (fld w 0 12 == 0) (some (.scldb g (Fin.ofNat 16 (w / 2097152)) (BitVec.ofNat 9 (w / 4096)))))
  | 2 => some (guardB (fld w 0 25 == 0) (some (.zpclr g)))
  | _ => none

/-- Opcodes of the check class (R46): the outer option is none for an unlisted opcode (reason 8), the inner one for a reserved
field or value (reason 9). -/
def decodeCheck (w : Nat) (g : Gate) (x : Nat) : Option (Option Instr) :=
  match fld w 23 4 with
  | 0 => some (some (.sync (Fin.ofNat 8 (w / 1048576)) (BitVec.ofNat 23 (x * 1048576 + fld w 0 20))))
  | 1 => some (guardB (fld w 20 3 == 0) (some (.mark (BitVec.ofNat 23 (x * 1048576 + fld w 0 20)))))
  | 2 => some (guardB (fld w 9 14 == 0) (some (.hold (BitVec.ofNat 9 (w / 1)))))
  | 3 => some (guardB (fld w 0 8 == 0 && fld w 20 3 == 0) (some (.ckeq g (Fin.ofNat 64 (w / 16384)) (Fin.ofNat 64 (w / 256)))))
  | 4 => some (guardB (fld w 0 9 == 0 && fld w 19 4 == 0) (some (.ckeqv g (Fin.ofNat 8 x) (Fin.ofNat 32 (w / 16384)) (Fin.ofNat 32 (w / 512)))))
  | 5 => some (guardB (fld w 0 9 == 0 && fld w 19 4 == 0) (some (.ckeqp g (Fin.ofNat 32 (w / 16384)) (Fin.ofNat 32 (w / 512)))))
  | 6 => some (guardB (fld w 16 7 == 0) (some (.trap g (BitVec.ofNat 16 (w / 1)))))
  | 7 => some (guardB (fld w 16 7 == 0) (some (.brk g (BitVec.ofNat 16 (w / 1)))))
  | 8 => some (guardB (fld w 8 5 == 0) ((Cond.ofCode (fld w 5 3)).bind fun c => some (.wflag g (Fin.ofNat 16 (w / 524288)) (Fin.ofNat 64 (w / 8192)) c (BitVec.ofNat 8 (x * 32 + fld w 0 5)))))
  | 9 => some ((Cond.ofCode (fld w 5 3)).bind fun c => some (.tflag g (Fin.ofNat 32 (w / 256)) (Fin.ofNat 16 (w / 524288)) (Fin.ofNat 64 (w / 8192)) c (BitVec.ofNat 8 (x * 32 + fld w 0 5))))
  | _ => none

/-- Slots whose class or form gives the lend word's X a use (R42). -/
def Instr.usesX : Instr → Bool
  | .addi .. => true
  | .andi .. => true
  | .ori .. => true
  | .xori .. => true
  | .shli .. => true
  | .shri .. => true
  | .sari .. => true
  | .cmpi .. => true
  | .movi .. => true
  | .movhi .. => true
  | .aaddImm .. => true
  | .fadd .. => true
  | .fsub .. => true
  | .fmul .. => true
  | .fma .. => true
  | .fms .. => true
  | .fnma .. => true
  | .fmin .. => true
  | .fmax .. => true
  | .fneg .. => true
  | .fabs .. => true
  | .fcmp .. => true
  | .fclass .. => true
  | .iadd .. => true
  | .isub .. => true
  | .imul .. => true
  | .imulh .. => true
  | .iand .. => true
  | .ior .. => true
  | .ixor .. => true
  | .iandn .. => true
  | .ishl .. => true
  | .ishlImm .. => true
  | .ishr .. => true
  | .ishrImm .. => true
  | .isar .. => true
  | .isarImm .. => true
  | .imin .. => true
  | .imax .. => true
  | .icmp .. => true
  | .vmov .. => true
  | .vsel .. => true
  | .vbcast .. => true
  | .vlane .. => true
  | .vidx .. => true
  | .vperm .. => true
  | .vred .. => true
  | .xg .. => true
  | .cvt .. => true
  | .qnt .. => true
  | .dqnt .. => true
  | .pack .. => true
  | .unpack .. => true
  | .vskim .. => true
  | .vbern .. => true
  | .vrand .. => true
  | .vimm .. => true
  | .frcp .. => true
  | .fdiv .. => true
  | .fsqrt .. => true
  | .frsqrt .. => true
  | .fexp2 .. => true
  | .flog2 .. => true
  | .lds .. => true
  | .sts .. => true
  | .ldv .. => true
  | .stv .. => true
  | .ldvq .. => true
  | .stvq .. => true
  | .ldvsp .. => true
  | .stvsp .. => true
  | .ldx .. => true
  | .stx .. => true
  | .ldh .. => true
  | .sth .. => true
  | .br .. => true
  | .call .. => true
  | .accrd .. => true
  | .accwr .. => true
  | .accadd .. => true
  | .accclr .. => true
  | .saenq .. => true
  | .sync .. => true
  | .mark .. => true
  | .ckeqv .. => true
  | .wflag .. => true
  | .tflag .. => true
  | _ => false

/-- Slots marked "unpredicated only" in R42. -/
def Instr.unpredicated : Instr → Bool
  | .loop .. => true
  | .loopi .. => true
  | .roll .. => true
  | .yield => true
  | .halt => true
  | .sync .. => true
  | .mark .. => true
  | .hold .. => true
  | _ => false

/-- What the class and opcode of a slot give: the outermost option is none for a class that is not listed, the next for an
opcode that is not, the innermost for a reserved field or value. -/
def decodeForm (w : Nat) (g : Gate) (x : Nat) : Option (Option (Option Instr)) :=
  match fld w 27 4 with
  | 1 => some (decodeScalar w g x)
  | 2 => some (decodeVector w g x)
  | 3 => some (decodeSpecial w g x)
  | 4 => some (decodeMemory w g x)
  | 5 => some (decodeBranch w g x)
  | 6 => some (decodeMatrix w g x)
  | 7 => some (decodePort w g x)
  | 8 => some (decodeCopy w g x)
  | 9 => some (decodeScatter w g x)
  | 10 => some (decodeLink w g x)
  | 11 => some (decodeAggregate w g x)
  | 12 => some (decodeOwnership w g x)
  | 13 => some (decodeScale w g x)
  | 14 => some (decodeCheck w g x)
  | _ => none

/-- The same with the lowest reason of R43 where it gives nothing, before the rules of R42 on the lend word. -/
def decodeBits (w : Nat) (g : Gate) (x : Nat) : Except Nat Instr :=
  match decodeForm w g x with
  | none => .error (if fld w 27 4 = 15 then 7 else 6)
  | some none => .error 8
  | some (some none) => .error 9
  | some (some (some i)) => if i.wf then .ok i else .error 9

/-- The slot of word `w` under the lend word `lend` (R41, R42), or the lowest reason of R43 that it breaks by itself. -/
def decodeSlot (w lend : Nat) : Except Nat Instr :=
  match decodeBits w (Gate.ofLend lend) (fld lend 0 3) with
  | .error r => .error r
  | .ok i =>
    if (!i.usesX && fld lend 0 3 != 0) || (i.unpredicated && fld lend 3 6 != 0) then .error 10 else .ok i

/-- The stop bit S of a slot (R38). -/
def stopBit (w : Nat) : Bool := fld w 31 1 == 1

/-- The slot's word with S = 0 and its lend word (R41, R46); none for an event, which has no encoding. -/
def encode : Instr → Option (Nat × Nat)
  | .nop g => some (134217728, g.code)
  | .add g d a b w => some (136314880 + d.val * 32768 + a.val * 512 + b.val * 8 + w.toNat * 1, g.code)
  | .sub g d a b w => some (138412032 + d.val * 32768 + a.val * 512 + b.val * 8 + w.toNat * 1, g.code)
  | .mul g d a b w => some (140509184 + d.val * 32768 + a.val * 512 + b.val * 8 + w.toNat * 1, g.code)
  | .mulh g d a b w => some (142606336 + d.val * 32768 + a.val * 512 + b.val * 8 + w.toNat * 1, g.code)
  | .mulhn g d a b w => some (144703488 + d.val * 32768 + a.val * 512 + b.val * 8 + w.toNat * 1, g.code)
  | .div g d a b w => some (146800640 + d.val * 32768 + a.val * 512 + b.val * 8 + w.toNat * 1, g.code)
  | .divn g d a b w => some (148897792 + d.val * 32768 + a.val * 512 + b.val * 8 + w.toNat * 1, g.code)
  | .rem g d a b w => some (150994944 + d.val * 32768 + a.val * 512 + b.val * 8 + w.toNat * 1, g.code)
  | .remn g d a b w => some (153092096 + d.val * 32768 + a.val * 512 + b.val * 8 + w.toNat * 1, g.code)
  | .and g d a b w => some (155189248 + d.val * 32768 + a.val * 512 + b.val * 8 + w.toNat * 1, g.code)
  | .or g d a b w => some (157286400 + d.val * 32768 + a.val * 512 + b.val * 8 + w.toNat * 1, g.code)
  | .xor g d a b w => some (159383552 + d.val * 32768 + a.val * 512 + b.val * 8 + w.toNat * 1, g.code)
  | .andn g d a b w => some (161480704 + d.val * 32768 + a.val * 512 + b.val * 8 + w.toNat * 1, g.code)
  | .shl g d a b w => some (163577856 + d.val * 32768 + a.val * 512 + b.val * 8 + w.toNat * 1, g.code)
  | .shr g d a b w => some (165675008 + d.val * 32768 + a.val * 512 + b.val * 8 + w.toNat * 1, g.code)
  | .sar g d a b w => some (167772160 + d.val * 32768 + a.val * 512 + b.val * 8 + w.toNat * 1, g.code)
  | .rotl g d a b w => some (169869312 + d.val * 32768 + a.val * 512 + b.val * 8 + w.toNat * 1, g.code)
  | .min g d a b w => some (171966464 + d.val * 32768 + a.val * 512 + b.val * 8 + w.toNat * 1, g.code)
  | .max g d a b w => some (174063616 + d.val * 32768 + a.val * 512 + b.val * 8 + w.toNat * 1, g.code)
  | .minn g d a b w => some (176160768 + d.val * 32768 + a.val * 512 + b.val * 8 + w.toNat * 1, g.code)
  | .maxn g d a b w => some (178257920 + d.val * 32768 + a.val * 512 + b.val * 8 + w.toNat * 1, g.code)
  | .clz g d a w => some (180355072 + d.val * 32768 + a.val * 512 + w.toNat * 1, g.code)
  | .popc g d a w => some (182452224 + d.val * 32768 + a.val * 512 + w.toNat * 1, g.code)
  | .cmp g p a b c => some (184549376 + p.val * 32768 + a.val * 512 + b.val * 8 + c.code, g.code)
  | .sel g d a b => some (186646528 + d.val * 32768 + a.val * 512 + b.val * 8, g.code)
  | .mov g d a w => some (188743680 + d.val * 32768 + a.val * 512 + w.toNat * 1, g.code)
  | .addi g d a i => some (190840832 + d.val * 32768 + a.val * 512 + i.toNat % 512, g.code + i.toNat / 512)
  | .andi g d a i => some (192937984 + d.val * 32768 + a.val * 512 + i.toNat % 512, g.code + i.toNat / 512)
  | .ori g d a i => some (195035136 + d.val * 32768 + a.val * 512 + i.toNat % 512, g.code + i.toNat / 512)
  | .xori g d a i => some (197132288 + d.val * 32768 + a.val * 512 + i.toNat % 512, g.code + i.toNat / 512)
  | .shli g d a i => some (199229440 + d.val * 32768 + a.val * 512 + i.toNat % 512, g.code + i.toNat / 512)
  | .shri g d a i => some (201326592 + d.val * 32768 + a.val * 512 + i.toNat % 512, g.code + i.toNat / 512)
  | .sari g d a i => some (203423744 + d.val * 32768 + a.val * 512 + i.toNat % 512, g.code + i.toNat / 512)
  | .cmpi g p a i c => some (205520896 + p.val * 32768 + a.val * 512 + i.toNat % 64 * 8 + c.code, g.code + i.toNat / 64)
  | .movi g d i => some (207618048 + d.val * 32768 + i.toNat % 32768, g.code + i.toNat / 32768)
  | .movhi g d i => some (209715200 + d.val * 32768 + i.toNat % 32768, g.code + i.toNat / 32768)
  | .rds g d r => some (211812352 + d.val * 32768 + r.toNat * 8, g.code)
  | .wrs g a r => some (213909504 + a.val * 32768 + r.toNat * 8, g.code)
  | .stgw g a e => some (216006656 + a.val * 32768 + e.eng.val * 4096 + e.set.val * 1024 + e.word.val * 128, g.code)
  | .stgr g d e => some (218103808 + d.val * 32768 + e.eng.val * 4096 + e.set.val * 1024 + e.word.val * 128, g.code)
  | .gmsetReg g d a => some (220200960 + d.val * 32768 + a.val * 512, g.code)
  | .gmsetImm g d i => some (220200961 + d.val * 32768 + i.toNat * 2, g.code)
  | .amkLocation g d sp l => some (222298112 + d.val * 131072 + sp.val * 16384 + l.toNat, g.code)
  | .amkRegister g d sp a b => some (222306304 + d.val * 131072 + sp.val * 16384 + a.val * 128 + b.val * 2, g.code)
  | .aaddImm g d a i => some (224395264 + d.val * 131072 + a.val * 8192 + i.toNat % 4096, g.code + i.toNat / 4096)
  | .aaddReg g d a b => some (224399360 + d.val * 131072 + a.val * 8192 + b.val * 64, g.code)
  | .fadd g m f d a b r => some (268435456 + f.code * 524288 + d.val * 16384 + a.val * 512 + b.val * 16 + r.code, g.code + m.val)
  | .fsub g m f d a b r => some (270532608 + f.code * 524288 + d.val * 16384 + a.val * 512 + b.val * 16 + r.code, g.code + m.val)
  | .fmul g m f d a b r => some (272629760 + f.code * 524288 + d.val * 16384 + a.val * 512 + b.val * 16 + r.code, g.code + m.val)
  | .fma g m f d a b r => some (274726912 + f.code * 524288 + d.val * 16384 + a.val * 512 + b.val * 16 + r.code, g.code + m.val)
  | .fms g m f d a b r => some (276824064 + f.code * 524288 + d.val * 16384 + a.val * 512 + b.val * 16 + r.code, g.code + m.val)
  | .fnma g m f d a b r => some (278921216 + f.code * 524288 + d.val * 16384 + a.val * 512 + b.val * 16 + r.code, g.code + m.val)
  | .fmin g m f d a b => some (281018368 + f.code * 524288 + d.val * 16384 + a.val * 512 + b.val * 16, g.code + m.val)
  | .fmax g m f d a b => some (283115520 + f.code * 524288 + d.val * 16384 + a.val * 512 + b.val * 16, g.code + m.val)
  | .fneg g m f d a => some (285212672 + f.code * 524288 + d.val * 16384 + a.val * 512, g.code + m.val)
  | .fabs g m f d a => some (287309824 + f.code * 524288 + d.val * 16384 + a.val * 512, g.code + m.val)
  | .fcmp g m f p a b c => some (289406976 + f.code * 524288 + p.val * 16384 + a.val * 512 + b.val * 16 + c.code, g.code + m.val)
  | .fclass g m f p a k => some (291504128 + f.code * 524288 + p.val * 16384 + a.val * 512 + k.toNat * 16, g.code + m.val)
  | .iadd g m f d a b sat => some (293601280 + f.code * 524288 + d.val * 16384 + a.val * 512 + b.val * 16 + sat.toNat * 1, g.code + m.val)
  | .isub g m f d a b sat => some (295698432 + f.code * 524288 + d.val * 16384 + a.val * 512 + b.val * 16 + sat.toNat * 1, g.code + m.val)
  | .imul g m f d a b => some (297795584 + f.code * 524288 + d.val * 16384 + a.val * 512 + b.val * 16, g.code + m.val)
  | .imulh g m f d a b => some (299892736 + f.code * 524288 + d.val * 16384 + a.val * 512 + b.val * 16, g.code + m.val)
  | .iand g m f d a b => some (301989888 + f.code * 524288 + d.val * 16384 + a.val * 512 + b.val * 16, g.code + m.val)
  | .ior g m f d a b => some (304087040 + f.code * 524288 + d.val * 16384 + a.val * 512 + b.val * 16, g.code + m.val)
  | .ixor g m f d a b => some (306184192 + f.code * 524288 + d.val * 16384 + a.val * 512 + b.val * 16, g.code + m.val)
  | .iandn g m f d a b => some (308281344 + f.code * 524288 + d.val * 16384 + a.val * 512 + b.val * 16, g.code + m.val)
  | .ishl g m f d a b => some (310378496 + f.code * 524288 + d.val * 16384 + a.val * 512 + b.val * 16, g.code + m.val)
  | .ishlImm g m f d a i => some (310378504 + f.code * 524288 + d.val * 16384 + a.val * 512 + i.toNat * 16, g.code + m.val)
  | .ishr g m f d a b => some (312475648 + f.code * 524288 + d.val * 16384 + a.val * 512 + b.val * 16, g.code + m.val)
  | .ishrImm g m f d a i => some (312475656 + f.code * 524288 + d.val * 16384 + a.val * 512 + i.toNat * 16, g.code + m.val)
  | .isar g m f d a b => some (314572800 + f.code * 524288 + d.val * 16384 + a.val * 512 + b.val * 16, g.code + m.val)
  | .isarImm g m f d a i => some (314572808 + f.code * 524288 + d.val * 16384 + a.val * 512 + i.toNat * 16, g.code + m.val)
  | .imin g m f d a b => some (316669952 + f.code * 524288 + d.val * 16384 + a.val * 512 + b.val * 16, g.code + m.val)
  | .imax g m f d a b => some (318767104 + f.code * 524288 + d.val * 16384 + a.val * 512 + b.val * 16, g.code + m.val)
  | .icmp g m f p a b c => some (320864256 + f.code * 524288 + p.val * 16384 + a.val * 512 + b.val * 16 + c.code, g.code + m.val)
  | .vmov g m d a => some (322961408 + d.val * 16384 + a.val * 512, g.code + m.val)
  | .vsel g m d a b => some (325058560 + d.val * 16384 + a.val * 512 + b.val * 16, g.code + m.val)
  | .vbcast g m d a hi => some (327155712 + d.val * 16384 + a.val * 256 + hi.toNat * 1, g.code + m.val)
  | .vlane g m d a k => some (329252864 + d.val * 16384 + a.val * 512 + k.val * 16, g.code + m.val)
  | .vidx g m d => some (331350016 + d.val * 16384, g.code + m.val)
  | .vperm g m d a b => some (333447168 + d.val * 16384 + a.val * 512 + b.val * 16, g.code + m.val)
  | .vred g m o d a => some (335544320 + o.fmtCode * 524288 + o.code + d.val * 16384 + a.val * 512, g.code + m.val)
  | .xg g m d a k => some (337641472 + d.val * 16384 + a.val * 512 + k.val * 16, g.code + m.val)
  | .cvt g m dt st d a sat sr r => some (339738624 + dt.code / 4 * 524288 + dt.code % 4 * 128 + st.code * 16 + d.val * 16384 + a.val * 512 + sat.toNat * 8 + sr.toNat * 4 + r.code, g.code + m.val)
  | .qnt g m dt st d a sat sr r => some (341835776 + dt.code / 4 * 524288 + dt.code % 4 * 128 + st.code * 16 + d.val * 16384 + a.val * 512 + sat.toNat * 8 + sr.toNat * 4 + r.code, g.code + m.val)
  | .dqnt g m dt st d a sat sr r => some (343932928 + dt.code / 4 * 524288 + dt.code % 4 * 128 + st.code * 16 + d.val * 16384 + a.val * 512 + sat.toNat * 8 + sr.toNat * 4 + r.code, g.code + m.val)
  | .pack g m w d a k => some (346030080 + w.code * 524288 + d.val * 16384 + a.val * 512 + k.val, g.code + m.val)
  | .unpack g m w d a k sx => some (348127232 + w.code * 524288 + d.val * 16384 + a.val * 512 + k.val + sx.toNat * 8, g.code + m.val)
  | .vskim g m p => some (350224384 + p.val * 512, g.code + m.val)
  | .vbern g m p a => some (352321536 + p.val * 16384 + a.val * 256, g.code + m.val)
  | .vrand g m d => some (354418688 + d.val * 16384, g.code + m.val)
  | .vimm g m hi d i => some (356515840 + hi.toNat * 524288 + d.val * 16384 + i.toNat, g.code + m.val)
  | .frcp g m f d a => some (402653184 + f.code * 1048576 + d.val * 32768 + a.val * 1024, g.code + m.val)
  | .fdiv g m f d a b => some (406847488 + f.code * 1048576 + d.val * 32768 + a.val * 1024 + b.val * 32, g.code + m.val)
  | .fsqrt g m f d a => some (411041792 + f.code * 1048576 + d.val * 32768 + a.val * 1024, g.code + m.val)
  | .frsqrt g m f d a => some (415236096 + f.code * 1048576 + d.val * 32768 + a.val * 1024, g.code + m.val)
  | .fexp2 g m f d a => some (419430400 + f.code * 1048576 + d.val * 32768 + a.val * 1024, g.code + m.val)
  | .flog2 g m f d a => some (423624704 + f.code * 1048576 + d.val * 32768 + a.val * 1024, g.code + m.val)
  | .lds g d n o ac => some (536870912 + d.val * 65536 + n.val * 4096 + o.toNat % 512 * 8 + ac.val, g.code + o.toNat / 512)
  | .sts g d n o ac => some (541065216 + d.val * 65536 + n.val * 4096 + o.toNat % 512 * 8 + ac.val, g.code + o.toNat / 512)
  | .ldv g m d n o ac => some (545259520 + d.val * 65536 + n.val * 4096 + o.toNat * 8 + ac.val, g.code + m.val)
  | .stv g m d n o ac => some (549453824 + d.val * 65536 + n.val * 4096 + o.toNat * 8 + ac.val, g.code + m.val)
  | .ldvq g m d n o ac => some (553648128 + d.val * 65536 + n.val * 4096 + o.toNat * 8 + ac.val, g.code + m.val)
  | .stvq g m d n o ac => some (557842432 + d.val * 65536 + n.val * 4096 + o.toNat * 8 + ac.val, g.code + m.val)
  | .ldsp g d l => some (562036736 + d.val * 65536 + l.toNat * 8, g.code)
  | .stsp g d l => some (566231040 + d.val * 65536 + l.toNat * 8, g.code)
  | .ldvsp g m d l => some (570425344 + d.val * 65536 + l.toNat * 8, g.code + m.val)
  | .stvsp g m d l => some (574619648 + d.val * 65536 + l.toNat * 8, g.code + m.val)
  | .ldx g m d n v ac => some (578813952 + d.val * 65536 + n.val * 4096 + v.val * 128 + ac.val, g.code + m.val)
  | .stx g m d n v ac => some (583008256 + d.val * 65536 + n.val * 4096 + v.val * 128 + ac.val, g.code + m.val)
  | .ldh g d n o ac => some (587202560 + d.val * 65536 + n.val * 4096 + o.toNat % 512 * 8 + ac.val, g.code + o.toNat / 512)
  | .sth g d n o ac => some (591396864 + d.val * 65536 + n.val * 4096 + o.toNat % 512 * 8 + ac.val, g.code + o.toNat / 512)
  | .xlat g h a => some (595591168 + h.val * 65536 + a.val * 1024, g.code)
  | .hinv g h => some (599785472 + h.val * 65536, g.code)
  | .drain g => some (603979776, g.code)
  | .br g d => some (671088640 + d.toNat % 4194304, g.code + d.toNat / 4194304)
  | .brr g a => some (675282944 + a.val * 65536, g.code)
  | .call g d => some (679477248 + d.toNat % 4194304, g.code + d.toNat / 4194304)
  | .ret g => some (683671552, g.code)
  | .loop l c n rot ilk => some (687865856 + l.val * 1048576 + c.val * 16384 + n.toNat * 8 + rot.toNat * 4 + ilk.toNat * 2, 0)
  | .loopi l c n rot ilk => some (692060160 + l.val * 1048576 + c.toNat * 2048 + n.toNat * 4 + rot.toNat * 2 + ilk.toNat * 1, 0)
  | .lbreak g l => some (696254464 + l.val * 1048576, g.code)
  | .roll n l => some (700448768 + n.val * 2097152 + l.toNat * 4096, 0)
  | .yield => some (704643072, 0)
  | .halt => some (708837376, 0)
  | .mma g qa qb b q f ck zp gs => some (805306368 + qa.val * 1048576 + qb.val * 65536 + b.val * 2048 + q.val * 512 + f.code * 64 + ck.toNat * 32 + zp.toNat * 8 + gs.code, g.code)
  | .mmaz g qa qb b q f ck zp gs => some (822083584 + qa.val * 1048576 + qb.val * 65536 + b.val * 2048 + q.val * 512 + f.code * 64 + ck.toNat * 32 + zp.toNat * 8 + gs.code, g.code)
  | .mmaDl g qa qb d f zp gs => some (805306384 + qa.val * 1048576 + qb.val * 65536 + d.val * 2048 + f.code * 64 + zp.toNat * 8 + gs.code, g.code)
  | .mmazDl g qa qb d f zp gs => some (822083600 + qa.val * 1048576 + qb.val * 65536 + d.val * 2048 + f.code * 64 + zp.toNat * 8 + gs.code, g.code)
  | .bld g qb l => some (838860800 + qb.val * 65536 + l.val * 64, g.code)
  | .bswap g => some (855638016, g.code)
  | .qpop g q n => some (872415232 + q.val * 1048576 + n.val * 32768, g.code)
  | .qadv g q n => some (889192448 + q.val * 1048576 + n.val * 32768, g.code)
  | .qrst g q => some (905969664 + q.val * 1048576, g.code)
  | .accrd g m d b row => some (939524096 + d.val * 1048576 + b.val * 32768 + row.val * 512, g.code + m.val)
  | .accwr g m d b row => some (973078528 + d.val * 1048576 + b.val * 32768 + row.val * 512, g.code + m.val)
  | .accadd g m d b row => some (1006632960 + d.val * 1048576 + b.val * 32768 + row.val * 512, g.code + m.val)
  | .accclr g m b row => some (1040187392 + b.val * 32768 + row.val * 512, g.code + m.val)
  | .cp g n => some (1073741824 + n.val * 4194304, g.code)
  | .cpq g n q => some (1090519040 + n.val * 4194304 + q.val * 262144, g.code)
  | .tmv g n => some (1107296256 + n.val * 4194304, g.code)
  | .cpfill g n => some (1124073472 + n.val * 4194304, g.code)
  | .cpchain g n => some (1140850688 + n.val * 4194304, g.code)
  | .cphalt g => some (1157627904, g.code)
  | .saenq g m i v o t => some (1207959552 + i.val * 524288 + v.val * 16384 + o.code * 4096 + t.code * 2048, g.code + m.val)
  | .sarun g n => some (1224736768 + n.val * 8388608, g.code)
  | .saflush g => some (1241513984, g.code)
  | .sawin g n => some (1258291200 + n.val * 131072, g.code)
  | .send g c n => some (1342177280 + c.val * 65536 + n.val * 16384, g.code)
  | .put g c n => some (1358954496 + c.val * 65536 + n.val * 16384, g.code)
  | .recv g c n => some (1375731712 + c.val * 65536 + n.val * 16384, g.code)
  | .allred g c n => some (1392508928 + c.val * 65536 + n.val * 16384, g.code)
  | .agfwd g c n => some (1409286144 + c.val * 65536 + n.val * 16384, g.code)
  | .agg g n => some (1476395008 + n.val * 1048576, g.code)
  | .aggq g n d x => some (1543503872 + n.val * 1048576 + d.val * 16384 + x.code * 4096, g.code)
  | .tlend g t a => some (1610612736 + t.val * 131072 + a.val * 2048, g.code)
  | .tret g t => some (1619001344 + t.val * 131072, g.code)
  | .tsplit g t m a => some (1627389952 + t.val * 131072 + m.val * 2048 + a.val * 32, g.code)
  | .tjoin g t m => some (1635778560 + t.val * 131072 + m.val * 2048, g.code)
  | .tshare g t a => some (1644167168 + t.val * 131072 + a.val * 2048, g.code)
  | .tunshare g t a => some (1652555776 + t.val * 131072 + a.val * 2048, g.code)
  | .tprobe g t d => some (1660944384 + t.val * 131072 + d.val * 2048, g.code)
  | .tcleanKeep g t => some (1669332992 + t.val * 131072, g.code)
  | .tcleanZero g t => some (1669398528 + t.val * 131072, g.code)
  | .bkalloc g b => some (1677721600 + b.val * 4096, g.code)
  | .bkallocNamed g b lo hi => some (1677721728 + b.val * 4096 + lo.val * 1024 + hi.val * 256, g.code)
  | .bkfree g b => some (1686110208 + b.val * 4096, g.code)
  | .scld g n o => some (1744830464 + n.val * 2097152 + o.toNat * 4096, g.code)
  | .scldb g n o => some (1778384896 + n.val * 2097152 + o.toNat * 4096, g.code)
  | .zpclr g => some (1811939328, g.code)
  | .sync d t => some (1879048192 + d.val * 1048576 + t.toNat % 1048576, 0 + t.toNat / 1048576)
  | .mark t => some (1887436800 + t.toNat % 1048576, 0 + t.toNat / 1048576)
  | .hold n => some (1895825408 + n.toNat, 0)
  | .ckeq g a b => some (1904214016 + a.val * 16384 + b.val * 256, g.code)
  | .ckeqv g m a b => some (1912602624 + a.val * 16384 + b.val * 512, g.code + m.val)
  | .ckeqp g a b => some (1920991232 + a.val * 16384 + b.val * 512, g.code)
  | .trap g i => some (1929379840 + i.toNat, g.code)
  | .brk g i => some (1937768448 + i.toNat, g.code)
  | .wflag g n a c o => some (1946157056 + n.val * 524288 + a.val * 8192 + c.code * 32 + o.toNat % 32, g.code + o.toNat / 32)
  | .tflag g p n a c o => some (1954545664 + p.val * 256 + n.val * 524288 + a.val * 8192 + c.code * 32 + o.toNat % 32, g.code + o.toNat / 32)
  | .timetableStart .. => none
  | .freeContextStart .. => none
  | .registerResultLand .. => none
  | .withheldGroupIssue .. => none
  | .contextSwitch .. => none
  | .branchTransfer .. => none
  | .ilkLoopExit .. => none
  | .rollIterationEnd .. => none
  | .rollComplete .. => none
  | .plumbLineComplete .. => none
  | .syncResume .. => none
  | .syncWaitLimit .. => none
  | .bayReexecute .. => none
  | .gatedCommitPerform .. => none
  | .preemptStopBoundary .. => none
  | .contextStopped .. => none
  | .contextResume .. => none
  | .dustSheetLand .. => none
  | .successorStart .. => none
  | .mmaTileRetire .. => none
  | .mmaRowLand .. => none
  | .mmaExtraRowLand .. => none
  | .mmaDrainLand .. => none
  | .bldLand .. => none
  | .swapPerform .. => none
  | .accPortPerform .. => none
  | .copyCommandStart .. => none
  | .copyRelease .. => none
  | .chainEnd .. => none
  | .chainCopy .. => none
  | .chainLoop .. => none
  | .chainSkipp .. => none
  | .chainSkipf .. => none
  | .chainReservedEntry .. => none
  | .saEntryArrive .. => none
  | .saRetirePerform .. => none
  | .sarunRelease .. => none
  | .trowelArrive .. => none
  | .remoteLendAck .. => none
  | .trowelHome .. => none
  | .swatchArrive .. => none
  | .swatchReturn .. => none
  | .swatchRevoke .. => none
  | .tcleanZeroDone .. => none
  | .trowelReclaim .. => none
  | .translationUpdate .. => none
  | .pageMigration .. => none
  | .moveComplete .. => none
  | .settlementEnd .. => none
  | .linkLocalComplete .. => none
  | .dataFlit .. => none
  | .idleFlit .. => none
  | .chunkAckFlit .. => none
  | .armNoticeFlit .. => none
  | .abortFlit .. => none
  | .refusalFlit .. => none
  | .migrationFlit .. => none
  | .faultyFlit .. => none
  | .flitAgeDiscard .. => none
  | .linkRetrain .. => none
  | .linkRetrainDone .. => none
  | .chunkFlagWrite .. => none
  | .chunkTimeout .. => none
  | .allredCombine .. => none
  | .agfwdForward .. => none
  | .putTrowelReturn .. => none
  | .channelReuseHoldEnd .. => none
  | .aggReachHome .. => none
  | .roundClose .. => none
  | .roundTimeout .. => none
  | .aggHomeRelease .. => none
  | .aggReleaseMember .. => none
  | .aggLate .. => none
  | .groupReuseHoldEnd .. => none
  | .stippleRekey => none
  | .maskReseed .. => none
  | .queuePoll .. => none
  | .recordHarvest .. => none
  | .capMirrorUpdate .. => none
  | .launch .. => none
  | .launchStart .. => none
  | .launchRetire .. => none
  | .copyIn .. => none
  | .copyOut .. => none
  | .signal .. => none
  | .wait .. => none
  | .preemptStop .. => none
  | .preemptResume .. => none
  | .preemptEvict .. => none
  | .preemptSwitch .. => none
  | .budgetRead .. => none
  | .attestQuote .. => none
  | .scrub .. => none
  | .cmdInvalid .. => none
  | .spaceTeardown .. => none
  | .powerOn .. => none
  | .pcieFundamentalReset => none
  | .functionLevelReset .. => none
  | .partitionReset .. => none
  | .firmwareWatchdog .. => none
  | .thermalTrip => none
  | .thermalTripRelease => none
  | .securityViolation => none
  | .fabricError => none
  | .railOutOfRange .. => none
  | .droopDetect .. => none
  | .clockStepUp => none
  | .thermalThrottle => none
  | .thermalThrottleEnd => none
  | .managementRequest .. => none
  | .recoveryImage .. => none
  | .queueTailWrite .. => none
  | .tentryWrite .. => none
  | .registerWrite .. => none
  | .partitionControlWrite .. => none
  | .framewinAssign .. => none
  | .framewinReturn .. => none
  | .slotTableWrite .. => none
  | .capabilityEntryWrite .. => none
  | .groupEntryWrite .. => none
  | .budgetWrite .. => none
  | .debugStop .. => none
  | .debugGo .. => none
  | .debugStep .. => none
  | .sampleEntryWrite .. => none
  | .profileDrain .. => none
  | .finjOff .. => none
  | .finjArray .. => none
  | .finjSector .. => none
  | .illegalEncoding .. => none

/-- The instruction of a table word (bit 0 the least significant bit of the slot), under the lend word of a bundle
without a header (R41). -/
def decodeTableWord (_nbits w : Nat) : Option Instr :=
  match decodeSlot (w % 2 ^ 32) 0 with
  | .ok i => some i
  | .error _ => none

end Sys2Proof
end

