-- ==== Sys2Proof/Machine/Ring.lean ====
section
/-! DEFINITION. Operand rings (R181 to R186) and the checks of engine reads, which every producer and consumer shares. -/

namespace Sys2Proof.Machine

/-- A fault about ring q (R184). -/
def State.ringFault (s : State) (code engine q : Nat) : ErrRecord := s.faultOf code engine q 0 0 none

def State.ring (s : State) (q : Nat) : Ring := (s.core.rings[q]?).getD Ring.reset

/-- Ring q as the state from before the group has it: without what the group's own slots have reserved (R353). -/
def State.ringBefore (s : State) (q : Nat) : Ring :=
  let r := s.ring q
  let own := r.resv.filter fun v => decide (s.core.ctx.groupSeq < v.id % 2 ^ 48)
  { r with pr := r.pr - BitVec.ofNat 16 own.length, resv := r.resv.filter fun v => !decide (s.core.ctx.groupSeq < v.id % 2 ^ 48) }

/-- RING_UNDECLARED for a ring of SIZE 0 (R181). -/
def State.declared (s : State) (engine q : Nat) : Verdict :=
  Verdict.require ((s.ring q).size != 0) (s.ringFault 0x0304 engine q)

def ringOcc (r : Ring) : Nat := (r.tail - r.head).toNat
def ringFill (r : Ring) : Nat := (r.tail + r.pr - r.hr).toNat

/-- A reservation fits (R184). -/
def State.canReserve (s : State) (engine q : Nat) : Verdict :=
  (s.declared engine q).andThen fun _ =>
  Verdict.require (decide (ringFill (s.ring q) + 1 ≤ (s.ring q).size.toNat)) (s.ringFault 0x0301 engine q)

/-- Slot that the next reservation takes (R182). -/
def ringNext (r : Ring) : Nat := (r.tail + r.pr).toNat

/-- A context's shadow copy of a ring takes a landing of a producer issued before the context's bay (R186). -/
def shadowLanding (q : Nat) (v : Resv) (x : Ctx) : Ctx :=
  if v.ctx = x.id ∧ v.bay = x.bay.serial then x
  else { x with shadow := { x.shadow with rings := x.shadow.rings.map fun p => if p.1 = q then (p.1, { p.2 with tail := p.2.tail + 1 }) else p } }

/-- TAIL advances over landed reservations in their order (R182). -/
def Core.advanceTail (q : Nat) : List Resv → Core → Core
  | [], c => { c with rings := vmod c.rings q fun r => { r with resv := [] } }
  | v :: l, c =>
    if v.landed then
      Core.advanceTail q l
        (({ c with rings := vmod c.rings q fun r => { r with tail := r.tail + 1, pr := r.pr - 1 } }).mapCtx (shadowLanding q v))
    else { c with rings := vmod c.rings q fun r => { r with resv := v :: l } }

/-- A producer's data has performed; a cancelled reservation advances nothing (R186). -/
def Core.landReserved (q id : Nat) (c : Core) : Core :=
  let rs := ((c.rings[q]?).map (·.resv)).getD []
  c.advanceTail q (rs.map fun v => if v.id = id then { v with landed := true } else v)

/-- Keep a ring's indices on their first change in the bay (R186). -/
def Core.shadowRing (k q : Nat) (c : Core) : Core :=
  match c.rings[q]? with
  | none => c
  | some r => c.updCtx k fun x =>
    if x.shadow.rings.any (fun p => p.1 == q) then x
    else { x with shadow := { x.shadow with rings := (q, { head := r.head, tail := r.tail, hr := r.hr, pops := r.pops }) :: x.shadow.rings } }

/-- A slot that is reserved anew holds no tile of an earlier link command. -/
def LinkUnit.forget (a : Nat) (u : LinkUnit) : LinkUnit :=
  { u with cmds := u.cmds.map fun l => { l with tiles := l.tiles.filter fun t => t.2 != a } }

/-- Reserve the slot at TAIL + PR under an identity of its own (R182). The indices are kept as they are on the first change in
the bay: a landing within it advances TAIL, and a rollback takes that back (R186). -/
def Core.reserve (q id ctx bay : Nat) (c : Core) : Core :=
  let a := unitBase c.phys + ((c.rings[q]?).map fun r => r.tileOff (ringNext r)).getD 0
  let c := c.shadowRing ctx q
  { c with
    rings := vmod c.rings q fun r =>
      { r with pr := r.pr + 1, resv := r.resv ++ [{ id := id, ctx := ctx, bay := bay, landed := false }] }
    link := c.link.forget a }

/-- Pop n slots whose reader retires at a cycle (R182, R185). -/
def Core.pop (k q n retire : Nat) (c : Core) : Core :=
  let c := c.shadowRing k q
  { c with rings := vmod c.rings q fun r =>
      { r with head := r.head + BitVec.ofNat 16 n, pops := r.pops ++ List.replicate n { ctx := k, retire := retire, released := false } } }

def Core.push (k q n : Nat) (c : Core) : Core :=
  let c := c.shadowRing k q
  { c with rings := vmod c.rings q fun r => { r with tail := r.tail + BitVec.ofNat 16 n } }

def Core.ringReset (k q : Nat) (c : Core) : Core :=
  let c := c.shadowRing k q
  { c with rings := vmod c.rings q fun r => { r with head := 0, tail := 0, hr := 0, pops := [] } }

/-- HR advances over released slots in index order (R182). -/
def releaseFront : BitVec 16 → List PopSlot → BitVec 16 × List PopSlot
  | hr, [] => (hr, [])
  | hr, p :: l => if p.released then releaseFront (hr + 1) l else (hr, p :: l)

/-- A commit of context k at cycle m releases the slots it popped whose readers have retired. -/
def releasePops (k m : Nat) (hr : BitVec 16) (ps : List PopSlot) : BitVec 16 × List PopSlot :=
  releaseFront hr (ps.map fun p => if p.ctx = k ∧ p.retire ≤ m then { p with released := true } else p)

/-- The same in a context's shadow copies: what a commit released stays released. -/
def shadowRelease (k m : Nat) (x : Ctx) : Ctx :=
  { x with shadow := { x.shadow with rings := x.shadow.rings.map fun p =>
      (p.1, { p.2 with hr := (releasePops k m p.2.hr p.2.pops).1, pops := (releasePops k m p.2.hr p.2.pops).2 }) } }

/-- Release in every ring of the core (R56, R182). -/
def Core.releaseRings (k m : Nat) (c : Core) : Core :=
  ({ c with rings := c.rings.map fun r =>
      { r with hr := (releasePops k m r.hr r.pops).1, pops := (releasePops k m r.hr r.pops).2 } } : Core).mapCtx (shadowRelease k m)

/-! ## Engine starts and engine reads -/

/-- An engine slot that executes is a checkpoint of a timetable context: its deviation count is compared (R51). -/
def State.engineStart (s : State) : State := if s.core.ctx.cfg.free then s else s.post (.late s.core.ctx.cfg.dv)

/-- A sector an engine reads for the issuing context fails verification: an error consumed (R153, R189). -/
def State.verifyTile (s : State) (engine off len : Nat) : Verdict :=
  match badIn s.bad (unitBase s.core.phys + off) len with
  | [] => .go
  | t :: _ => .recover (s.faultOf 0x0C01 engine 0 0 0 (some (t - unitBase s.core.phys, 0, 0)))

/-- Whether an armed agfwd still has shards to come into ring q (R280). -/
def State.gathering (s : State) (q : Nat) : Bool :=
  s.core.link.cmds.any fun l => l.op == .agfwd && l.armed && l.ring == some q && !l.unacked.isEmpty

/-- The slot at HEAD as an mma or bld reads it: the wait of R183, the underrun of R184, ownership and check words. -/
def State.tileRead (s : State) (q : Nat) : Verdict :=
  let r := s.ring q
  if ringOcc r = 0 then
    (if (s.ringBefore q).pr != 0 || s.gathering q then .hold { cause := 1, blocks := true } else .trap (s.ringFault 0x0302 1 q))
  else
    (s.own 1 false false 0 0 (r.tileOff r.head.toNat) 16384).andThen fun _ => s.verifyTile 1 (r.tileOff r.head.toNat) 16384

/-- The bytes of the tile at HEAD, as memory stands after phase 1 (R253). -/
def State.tileBytes (s : State) (q : Nat) : List Byte :=
  readRun s.mem (unitBase s.core.phys + (s.ring q).tileOff (s.ring q).head.toNat) 16384

end Sys2Proof.Machine
end

