-- ==== Sys2Proof/Machine/Flags.lean ====
section
/-! DEFINITION. Conditions and integer arithmetic. The machine has no flag register: the outcomes of compares go to
predicates (R95, R127, R132). Scalar operations are formed at 64 or, with .w, at 32 bits (R93). -/

namespace Sys2Proof.Machine

/-- The scalar condition order of R46 on 64-bit values (R95): ltn and len compare the patterns as unsigned. -/
def condHolds (c : Cond) (a b : Word) : Bool :=
  match c with
  | .eq => a == b
  | .ne => a != b
  | .lt => a.slt b
  | .le => a.sle b
  | .gt => b.slt a
  | .ge => b.sle a
  | .ltn => a.ult b
  | .len => a.ule b

/-- Conditions of icmp; the format gives the signedness (R132). -/
def icondHolds (c : ICond) (f : IFmt) (a b : W32) : Bool :=
  let lt := fun (x y : W32) => match f with
    | .i32 => x.slt y
    | .n32 => x.ult y
  match c with
  | .eq => a == b
  | .ne => a != b
  | .lt => lt a b
  | .le => !lt b a
  | .gt => lt b a
  | .ge => !lt a b

/-- Whether a value that a source gives is exactly the value of all 128 predicate lanes (R95). -/
def spread (b : Bool) : LaneMask := if b then BitVec.allOnes 128 else 0

/-! ## Scalar operations at n bits (R93, R94) -/

def aluMulh (n : Nat) (a b : BitVec n) : BitVec n := BitVec.ofInt n (a.toInt * b.toInt / (2 ^ n : Nat))

def aluMulhn (n : Nat) (a b : BitVec n) : BitVec n := BitVec.ofNat n (a.toNat * b.toNat / 2 ^ n)

/-- Truncated quotient; all ones for a zero divisor; the overflow case wraps to −2^(n−1) (R94). -/
def aluDiv (n : Nat) (a b : BitVec n) : BitVec n :=
  if b = 0 then BitVec.allOnes n else BitVec.ofInt n (a.toInt.tdiv b.toInt)

def aluDivn (n : Nat) (a b : BitVec n) : BitVec n :=
  if b = 0 then BitVec.allOnes n else BitVec.ofNat n (a.toNat / b.toNat)

/-- A − B × quotient; A for a zero divisor (R94). -/
def aluRem (n : Nat) (a b : BitVec n) : BitVec n :=
  if b = 0 then a else BitVec.ofInt n (a.toInt.tmod b.toInt)

def aluRemn (n : Nat) (a b : BitVec n) : BitVec n :=
  if b = 0 then a else BitVec.ofNat n (a.toNat % b.toNat)

/-- Shift counts are the low 6 bits of B, or the low 5 with .w: B mod n (R93). -/
def aluShl (n : Nat) (a b : BitVec n) : BitVec n := a <<< (b.toNat % n)
def aluShr (n : Nat) (a b : BitVec n) : BitVec n := a >>> (b.toNat % n)
def aluSar (n : Nat) (a b : BitVec n) : BitVec n := a.sshiftRight (b.toNat % n)
def aluRotl (n : Nat) (a b : BitVec n) : BitVec n := a.rotateLeft (b.toNat % n)

def aluMin (n : Nat) (a b : BitVec n) : BitVec n := if a.slt b then a else b
def aluMax (n : Nat) (a b : BitVec n) : BitVec n := if a.slt b then b else a
def aluMinn (n : Nat) (a b : BitVec n) : BitVec n := if a.ult b then a else b
def aluMaxn (n : Nat) (a b : BitVec n) : BitVec n := if a.ult b then b else a

def aluClz (n : Nat) (a : BitVec n) : BitVec n := BitVec.ofNat n (n - bitLen a.toNat)
def aluPopc (n : Nat) (a : BitVec n) : BitVec n := BitVec.ofNat n (popCount n a.toNat)

/-- An operation on two values taken to 64 or 32 bits; the 32-bit result is sign-extended (R93). -/
def alu2 (f : (n : Nat) → BitVec n → BitVec n → BitVec n) (w : Bool) (a b : Word) : Word :=
  if w then (f 32 (a.setWidth 32) (b.setWidth 32)).signExtend 64 else f 64 a b

def alu1 (f : (n : Nat) → BitVec n → BitVec n) (w : Bool) (a : Word) : Word :=
  if w then (f 32 (a.setWidth 32)).signExtend 64 else f 64 a

/-- movhi: half-word k of the old value replaced (R98). -/
def putHalf (old : Word) (i : BitVec 18) : Word :=
  let k := 16 * (i.toNat / 2 ^ 16)
  (old &&& ~~~(0xFFFF#64 <<< k)) ||| ((i.setWidth 16).setWidth 64 <<< k)

end Sys2Proof.Machine
end

