-- ==== Sys2Proof/Machine/Scalar.lean ====
section
/-! DEFINITION. The scalar class (R79 to R85, R93 to R99): one meaning for each instruction. -/

namespace Sys2Proof.Machine

/-! ## Shared operations -/

/-- Tag of a scalar slot: its unit and its opcode (R311). -/
def State.scalarTag (s : State) (op : Nat) : Tag := mkTag 1 s.core.ctx.unit op 0

/-- A scalar slot with a scalar result (R78, R86). -/
def State.scalar (s : State) (g : Gate) (d : Fin 64) (op L : Nat) (f : Ctx → Word) : Host.Outcome State Fault Refusal :=
  s.plain (!s.core.ctx.gate0 g) 0 fun s => s.landS L d (f s.core.ctx) (s.scalarTag op)

/-- The multiply and divide group: capability bit 26. -/
def State.scalarMul (s : State) (g : Gate) (d : Fin 64) (op L : Nat) (f : Ctx → Word) :
    Host.Outcome State Fault Refusal :=
  s.plain (!s.core.ctx.gate0 g) (capBit 26) fun s => s.landS L d (f s.core.ctx) (s.scalarTag op)

/-- A compare: one bit into all lanes of a predicate (R95). -/
def State.scalarCmp (s : State) (g : Gate) (p : Fin 32) (op : Nat) (f : Ctx → Bool) : Host.Outcome State Fault Refusal :=
  s.plain (!s.core.ctx.gate0 g) 0 fun s => s.landP 1 p (BitVec.allOnes 128) (spread (f s.core.ctx)) (s.scalarTag op)

/-- A scalar slot with an address result (R80 to R82). -/
def State.scalarAddr (s : State) (g : Gate) (d : Fin 16) (f : Ctx → AddrReg) : Host.Outcome State Fault Refusal :=
  s.plain (!s.core.ctx.gate0 g) 0 fun s => s.land 1 (.a d.val (f s.core.ctx)) 0

/-- A special register's value at the issue cycle (R83, R84). -/
def State.special (s : State) (r : Nat) : Word :=
  let c := s.core
  let x := c.ctx
  let g := x.regs
  if r = 0 then BitVec.ofNat 64 s.now
  else if r = 1 then x.cfg.ttb
  else if r = 2 then x.cfg.ttoff
  else if r = 3 then x.ttc s.now
  else if r = 4 then x.cfg.slack.setWidth 64
  else if r = 5 then x.cfg.ilkpad.setWidth 64
  else if r = 8 then BitVec.ofNat 64 x.id
  else if r = 9 then c.part.setWidth 64
  else if r = 0xA then
    match (s.partAt c.partNo).owner with
    | none => 0
    | some o => BitVec.ofNat 64 (256 + o)
  else if r = 0xB then BitVec.ofNat 64 c.phys
  else if r = 0xC then BitVec.ofNat 64 x.cfg.lcore
  else if r = 0xD then
    BitVec.ofNat 64 ((if x.cfg.free then 1 else 0) + (if x.inIlk then 2 else 0) + (if c.dblk.dbg.getLsbD x.id then 4 else 0))
  else if r = 0x10 then c.capm
  else if r = 0x11 then x.cfg.usem
  else if r = 0x12 then g.lnk
  else if r = 0x13 then g.rrb.setWidth 64
  else if r = 0x14 then g.skim
  else if r = 0x18 then x.cfg.finj
  else if 0x20 ≤ r ∧ r < 0x28 then (g.dm[r - 0x20]?.getD 0).setWidth 64
  else if 0x30 ≤ r ∧ r < 0x34 then g.lc[r - 0x30]?.getD 0
  else if 0x34 ≤ r ∧ r < 0x38 then (g.lsa[r - 0x34]?.getD 0).setWidth 64
  else if 0x38 ≤ r ∧ r < 0x3C then (g.lea[r - 0x38]?.getD 0).setWidth 64
  else if 0x40 ≤ r ∧ r < 0x80 then
    match c.rings[(r - 0x40) / 4]? with
    | none => 0
    | some q =>
      if r % 4 = 0 then q.base.setWidth 64
      else if r % 4 = 1 then q.size.setWidth 64
      else if r % 4 = 2 then q.head.setWidth 64
      else q.tail.setWidth 64
  else 0

/-- Registers that wrs may write at any time (R83); finj has its own condition. -/
def sregWritable (r : Nat) : Bool :=
  r == 0x12 || r == 0x13 || r == 0x14 || (0x20 ≤ r && r < 0x28) || (0x30 ≤ r && r < 0x3C)

/-- Fields of finj (R316). -/
def finjMode (v : Word) : Nat := v.toNat % 4
def finjBit (v : Word) : Nat := v.toNat / 2 ^ 2 % 32
def finjCol (v : Word) : Nat := v.toNat / 2 ^ 7 % 128
def finjRow (v : Word) : Nat := v.toNat / 2 ^ 14 % 16
def finjNth (v : Word) : Nat := v.toNat / 2 ^ 18 % 256
def finjSectorNo (v : Word) : Nat := v.toNat / 2 ^ 26 % 2 ^ 13

/-- What a wrs of finj is refused for (R316, R317): injection not enabled, MODE 3, a field the mode does not use, or
for MODE 2 what a store to the sector would raise. -/
def State.finjCheck (v : Word) (s : State) : Verdict :=
  let bad := s.fault 0x0203 0 0 0
  let unused :=
    if finjMode v = 0 then v.toNat / 4 % 2 ^ 37 != 0
    else if finjMode v = 1 then finjSectorNo v != 0
    else if finjMode v = 2 then v.toNat / 2 ^ 7 % 2 ^ 19 != 0
    else true
  if !(s.partAt s.core.partNo).ctl.getLsbD 18 || unused then .trap bad
  else if finjMode v = 2 then s.own 0 false true 0 0 (finjSectorNo v * 64) 64
  else .go

/-- Position of a staging set among the 13 of a context (R46, R224). -/
def setIdx (eng set : Nat) : Nat :=
  match eng with
  | 0 => set
  | 1 => 4 + set
  | 2 => 6 + set
  | 3 => 10 + set
  | _ => 12

/-- A word of a staging set. -/
def Ctx.staged (x : Ctx) (eng set word : Nat) : Word := ((x.staging[setIdx eng set]?).bind (·[word]?)).getD 0

def Ctx.putStaged (e : StgId) (v : Word) (x : Ctx) : Ctx :=
  { x with staging := vmod x.staging (setIdx e.eng.val e.set.val) (fun w => w.setIfInBounds e.word.val v) }

/-- The address of amk's location form (R46, R81). -/
def amkAt (sp : Fin 8) (l : BitVec 13) : AddrReg :=
  let n := l.toNat
  match sp.val with
  | 0 => { space := 0, index := 0, offset := BitVec.ofNat 32 (n * 2 ^ 12) }
  | 1 => { space := 1, index := 0, offset := BitVec.ofNat 32 (n * 8) }
  | 2 => { space := 2, index := 0, offset := BitVec.ofNat 32 (n * 2 ^ 16) }
  | 3 => { space := 3, index := 0, offset := BitVec.ofNat 32 (n * 2 ^ 19) }
  | 4 => { space := 4, index := BitVec.ofNat 10 (n % 32), offset := 0 }
  | 5 => { space := 5, index := BitVec.ofNat 10 (n / 128), offset := BitVec.ofNat 32 (n % 128 * 2 ^ 12) }
  | k => { space := BitVec.ofNat 3 k, index := BitVec.ofNat 10 (n % 1024), offset := 0 }

/-! ## Register forms (R93, R94) -/

/-- R99. A nop has no effect, gated or not. -/
def execNop (g : Gate) (s : State) : Host.Outcome State Fault Refusal := s.plain (!s.core.ctx.gate0 g) 0 fun s => s

/-- R93. -/
def execAdd (g : Gate) (d a b : Fin 64) (w : Bool) (s : State) : Host.Outcome State Fault Refusal :=
  s.scalar g d 1 1 fun x => alu2 (fun _ a b => a + b) w (x.rs a) (x.rs b)

/-- R93. -/
def execSub (g : Gate) (d a b : Fin 64) (w : Bool) (s : State) : Host.Outcome State Fault Refusal :=
  s.scalar g d 2 1 fun x => alu2 (fun _ a b => a - b) w (x.rs a) (x.rs b)

/-- R93, R86. -/
def execMul (g : Gate) (d a b : Fin 64) (w : Bool) (s : State) : Host.Outcome State Fault Refusal :=
  s.scalarMul g d 3 3 fun x => alu2 (fun _ a b => a * b) w (x.rs a) (x.rs b)

/-- R93, R86. -/
def execMulh (g : Gate) (d a b : Fin 64) (w : Bool) (s : State) : Host.Outcome State Fault Refusal :=
  s.scalarMul g d 4 3 fun x => alu2 aluMulh w (x.rs a) (x.rs b)

/-- R93, R86. -/
def execMulhn (g : Gate) (d a b : Fin 64) (w : Bool) (s : State) : Host.Outcome State Fault Refusal :=
  s.scalarMul g d 5 3 fun x => alu2 aluMulhn w (x.rs a) (x.rs b)

/-- R94, R86. -/
def execDiv (g : Gate) (d a b : Fin 64) (w : Bool) (s : State) : Host.Outcome State Fault Refusal :=
  s.scalarMul g d 6 18 fun x => alu2 aluDiv w (x.rs a) (x.rs b)

/-- R94, R86. -/
def execDivn (g : Gate) (d a b : Fin 64) (w : Bool) (s : State) : Host.Outcome State Fault Refusal :=
  s.scalarMul g d 7 18 fun x => alu2 aluDivn w (x.rs a) (x.rs b)

/-- R94, R86. -/
def execRem (g : Gate) (d a b : Fin 64) (w : Bool) (s : State) : Host.Outcome State Fault Refusal :=
  s.scalarMul g d 8 18 fun x => alu2 aluRem w (x.rs a) (x.rs b)

/-- R94, R86. -/
def execRemn (g : Gate) (d a b : Fin 64) (w : Bool) (s : State) : Host.Outcome State Fault Refusal :=
  s.scalarMul g d 9 18 fun x => alu2 aluRemn w (x.rs a) (x.rs b)

/-- R93. -/
def execAnd (g : Gate) (d a b : Fin 64) (w : Bool) (s : State) : Host.Outcome State Fault Refusal :=
  s.scalar g d 10 1 fun x => alu2 (fun _ a b => a &&& b) w (x.rs a) (x.rs b)

/-- R93. -/
def execOr (g : Gate) (d a b : Fin 64) (w : Bool) (s : State) : Host.Outcome State Fault Refusal :=
  s.scalar g d 11 1 fun x => alu2 (fun _ a b => a ||| b) w (x.rs a) (x.rs b)

/-- R93. -/
def execXor (g : Gate) (d a b : Fin 64) (w : Bool) (s : State) : Host.Outcome State Fault Refusal :=
  s.scalar g d 12 1 fun x => alu2 (fun _ a b => a ^^^ b) w (x.rs a) (x.rs b)

/-- R93. -/
def execAndn (g : Gate) (d a b : Fin 64) (w : Bool) (s : State) : Host.Outcome State Fault Refusal :=
  s.scalar g d 13 1 fun x => alu2 (fun _ a b => a &&& ~~~b) w (x.rs a) (x.rs b)

/-- R93. -/
def execShl (g : Gate) (d a b : Fin 64) (w : Bool) (s : State) : Host.Outcome State Fault Refusal :=
  s.scalar g d 14 1 fun x => alu2 aluShl w (x.rs a) (x.rs b)

/-- R93. -/
def execShr (g : Gate) (d a b : Fin 64) (w : Bool) (s : State) : Host.Outcome State Fault Refusal :=
  s.scalar g d 15 1 fun x => alu2 aluShr w (x.rs a) (x.rs b)

/-- R93. -/
def execSar (g : Gate) (d a b : Fin 64) (w : Bool) (s : State) : Host.Outcome State Fault Refusal :=
  s.scalar g d 16 1 fun x => alu2 aluSar w (x.rs a) (x.rs b)

/-- R93. -/
def execRotl (g : Gate) (d a b : Fin 64) (w : Bool) (s : State) : Host.Outcome State Fault Refusal :=
  s.scalar g d 17 1 fun x => alu2 aluRotl w (x.rs a) (x.rs b)

/-- R93. -/
def execMin (g : Gate) (d a b : Fin 64) (w : Bool) (s : State) : Host.Outcome State Fault Refusal :=
  s.scalar g d 18 1 fun x => alu2 aluMin w (x.rs a) (x.rs b)

/-- R93. -/
def execMax (g : Gate) (d a b : Fin 64) (w : Bool) (s : State) : Host.Outcome State Fault Refusal :=
  s.scalar g d 19 1 fun x => alu2 aluMax w (x.rs a) (x.rs b)

/-- R93. -/
def execMinn (g : Gate) (d a b : Fin 64) (w : Bool) (s : State) : Host.Outcome State Fault Refusal :=
  s.scalar g d 20 1 fun x => alu2 aluMinn w (x.rs a) (x.rs b)

/-- R93. -/
def execMaxn (g : Gate) (d a b : Fin 64) (w : Bool) (s : State) : Host.Outcome State Fault Refusal :=
  s.scalar g d 21 1 fun x => alu2 aluMaxn w (x.rs a) (x.rs b)

/-- R93. -/
def execClz (g : Gate) (d a : Fin 64) (w : Bool) (s : State) : Host.Outcome State Fault Refusal :=
  s.scalar g d 22 1 fun x => alu1 aluClz w (x.rs a)

/-- R93. -/
def execPopc (g : Gate) (d a : Fin 64) (w : Bool) (s : State) : Host.Outcome State Fault Refusal :=
  s.scalar g d 23 1 fun x => alu1 aluPopc w (x.rs a)

/-- R93. -/
def execMov (g : Gate) (d a : Fin 64) (w : Bool) (s : State) : Host.Outcome State Fault Refusal :=
  s.scalar g d 26 1 fun x => alu1 (fun _ a => a) w (x.rs a)

/-! ## Compares and select (R95, R96) -/

/-- R95. -/
def execCmp (g : Gate) (p : Fin 32) (a b : Fin 64) (c : Cond) (s : State) : Host.Outcome State Fault Refusal :=
  s.scalarCmp g p 24 fun x => condHolds c (x.rs a) (x.rs b)

/-- R95. The immediate is sign-extended from nine bits. -/
def execCmpi (g : Gate) (p : Fin 32) (a : Fin 64) (i : BitVec 9) (c : Cond) (s : State) :
    Host.Outcome State Fault Refusal :=
  s.scalarCmp g p 34 fun x => condHolds c (x.rs a) (i.signExtend 64)

/-- R96. The lend word selects; the slot is never squashed. -/
def execSel (g : Gate) (d a b : Fin 64) (s : State) : Host.Outcome State Fault Refusal :=
  s.plain false 0 fun s =>
    s.landS 1 d (if s.core.ctx.gate0 g then s.core.ctx.rs a else s.core.ctx.rs b) (s.scalarTag 25)

/-! ## Immediate forms (R97, R98) -/

/-- R97. -/
def execAddi (g : Gate) (d a : Fin 64) (i : BitVec 12) (s : State) : Host.Outcome State Fault Refusal :=
  s.scalar g d 27 1 fun x => x.rs a + i.signExtend 64

/-- R97. -/
def execAndi (g : Gate) (d a : Fin 64) (i : BitVec 12) (s : State) : Host.Outcome State Fault Refusal :=
  s.scalar g d 28 1 fun x => x.rs a &&& i.setWidth 64

/-- R97. -/
def execOri (g : Gate) (d a : Fin 64) (i : BitVec 12) (s : State) : Host.Outcome State Fault Refusal :=
  s.scalar g d 29 1 fun x => x.rs a ||| i.setWidth 64

/-- R97. -/
def execXori (g : Gate) (d a : Fin 64) (i : BitVec 12) (s : State) : Host.Outcome State Fault Refusal :=
  s.scalar g d 30 1 fun x => x.rs a ^^^ i.setWidth 64

/-- R97. -/
def execShli (g : Gate) (d a : Fin 64) (i : BitVec 12) (s : State) : Host.Outcome State Fault Refusal :=
  s.scalar g d 31 1 fun x => aluShl 64 (x.rs a) (i.setWidth 64)

/-- R97. -/
def execShri (g : Gate) (d a : Fin 64) (i : BitVec 12) (s : State) : Host.Outcome State Fault Refusal :=
  s.scalar g d 32 1 fun x => aluShr 64 (x.rs a) (i.setWidth 64)

/-- R97. -/
def execSari (g : Gate) (d a : Fin 64) (i : BitVec 12) (s : State) : Host.Outcome State Fault Refusal :=
  s.scalar g d 33 1 fun x => aluSar 64 (x.rs a) (i.setWidth 64)

/-- R98. -/
def execMovi (g : Gate) (d : Fin 64) (i : BitVec 18) (s : State) : Host.Outcome State Fault Refusal :=
  s.scalar g d 35 1 fun _ => i.signExtend 64

/-- R98. -/
def execMovhi (g : Gate) (d : Fin 64) (i : BitVec 18) (s : State) : Host.Outcome State Fault Refusal :=
  s.scalar g d 36 1 fun x => putHalf (x.rs d) i

/-! ## Special registers, staging words, masks, addresses (R79 to R85) -/

/-- R84. -/
def execRds (g : Gate) (d : Fin 64) (r : BitVec 12) (s : State) : Host.Outcome State Fault Refusal :=
  s.plain (!s.core.ctx.gate0 g) 0 fun s => s.landS 1 d (s.special r.toNat) (s.scalarTag 37)

/-- R84, R316, R317. Seen from the next group on; the skim vector's bits land with those of vskim (R139). -/
def execWrs (g : Gate) (a : Fin 64) (r : BitVec 12) (s : State) : Host.Outcome State Fault Refusal :=
  s.slot (!s.core.ctx.gate0 g) 0
    (fun s =>
      if r.toNat = 0x18 then s.finjCheck (s.core.ctx.rs a)
      else .require (sregWritable r.toNat) (s.fault 0x0203 0 0 0))
    fun s =>
      if r.toNat = 0x14 then s.land 1 (.skim (BitVec.allOnes 64) (s.core.ctx.rs a)) 0
      else s.post (if r.toNat = 0x18 then .finj (s.core.ctx.rs a) else .sreg r.toNat (s.core.ctx.rs a))

/-- R85. Seen by engine slots from the next group on. -/
def execStgw (g : Gate) (a : Fin 64) (e : StgId) (s : State) : Host.Outcome State Fault Refusal :=
  s.plain (!s.core.ctx.gate0 g) 0 fun s => s.post (.stg e (s.core.ctx.rs a))

/-- R85. -/
def execStgr (g : Gate) (d : Fin 64) (e : StgId) (s : State) : Host.Outcome State Fault Refusal :=
  s.scalar g d 40 1 fun x => x.staged e.eng.val e.set.val e.word.val

/-- R79. gm0 is written by no instruction (R76). -/
def execGmsetReg (g : Gate) (d : Fin 8) (a : Fin 64) (s : State) : Host.Outcome State Fault Refusal :=
  s.plain (!s.core.ctx.gate0 g) 0 fun s => if d = 0 then s else s.post (.gm d.val ((s.core.ctx.rs a).setWidth 8))

/-- R79. -/
def execGmsetImm (g : Gate) (d : Fin 8) (i : BitVec 8) (s : State) : Host.Outcome State Fault Refusal :=
  s.plain (!s.core.ctx.gate0 g) 0 fun s => if d = 0 then s else s.post (.gm d.val i)

/-- R81, M = 0. -/
def execAmkLocation (g : Gate) (d : Fin 16) (sp : Fin 8) (l : BitVec 13) (s : State) :
    Host.Outcome State Fault Refusal :=
  s.scalarAddr g d fun _ => amkAt sp l

/-- R81, M = 1. -/
def execAmkRegister (g : Gate) (d : Fin 16) (sp : Fin 8) (a b : Fin 64) (s : State) :
    Host.Outcome State Fault Refusal :=
  s.scalarAddr g d fun x =>
    { space := BitVec.ofNat 3 sp.val, offset := (x.rs a).setWidth 32
      index := if 4 ≤ sp.val then (x.rs b).setWidth 10 else 0 }

/-- R82, M = 0. -/
def execAaddImm (g : Gate) (d a : Fin 16) (i : BitVec 15) (s : State) : Host.Outcome State Fault Refusal :=
  s.scalarAddr g d fun x => { x.ra a with offset := (x.ra a).offset + i.signExtend 32 }

/-- R82, M = 1. -/
def execAaddReg (g : Gate) (d a : Fin 16) (b : Fin 64) (s : State) : Host.Outcome State Fault Refusal :=
  s.scalarAddr g d fun x => { x.ra a with offset := (x.ra a).offset + (x.rs b).setWidth 32 }

end Sys2Proof.Machine
end

