-- ==== Sys2Proof/Machine/Engine.lean ====
section
/-! DEFINITION. What the engines share: performing writes with their check words (R149, R154, R313), owned cycles of
slot-tabled resources (R212), the terms of a path (R210), staging words as addresses (R205), and the commands of a
context that write a region (R172). -/

namespace Sys2Proof.Machine

/-! ## Performing writes -/

/-- Sectors of a frame are written under the key and tweak it is accessed with (R248). -/
def Frame.rekey (now : Option (Nat × Nat)) (ks : List Nat) (f : Frame) : Frame :=
  match now with
  | none => f
  | some v =>
    let rest := f.rekeyed.filter fun x => !ks.contains x.1
    { f with rekeyed := if f.cipher.isNone || f.cipher == some v then rest else rest ++ ks.map fun k => (k, v) }

/-- The controllers set a frame's written bit at any write to it (R315), and encrypt what is written under the key and page of the
access's handle, or where it has none of the entry that names the frame (R248). -/
def State.touch (key : Nat → CipherKey) (addrs : List Nat) (s : State) : State :=
  let gddr := addrs.filter fun a => (frameOf a).isSome
  if gddr.isEmpty then s
  else s.onHub fun h => { h with frames := h.frames.map fun f =>
    let ks := (gddr.filter fun a => frameOf a == some f.num).map sectorNo
    if ks.isEmpty then f else { ks.foldl (fun (f : Frame) k => f.rekey ((key (frameBase f.num + 64 * k)).or (s.keyed f.num)) [k]) f with written := true } }

/-- A frame written whole: all its sectors are encrypted anew. -/
def Frame.rekeyAll (now : Option (Nat × Nat)) (f : Frame) : Frame := if now.isSome then { f with cipher := now, rekeyed := [] } else f

def State.rekeyWhole (fs : List Nat) (s : State) : State :=
  s.onHub fun h => { h with frames := h.frames.map fun f => if fs.contains f.num then f.rekeyAll (s.keyed f.num) else f }

/-- Runs written through a handle of a key: fresh check words, but for the sectors that are given with a syndrome. -/
def State.landMarked (key : CipherKey) (runs : List Run) (marks : List (Nat × W32)) (s : State) : State :=
  let bad := s.bad.filter fun b => !runs.any fun r => decide (r.addr ≤ b.1) && decide (b.1 < r.addr + r.bytes.length)
  ({ s with
    mem := runs.foldl (fun m r => writeRun m r.addr r.bytes) s.mem
    bad := marks.foldl (fun b x => setSyndrome b x.1 x.2) bad } : State).touch (fun _ => key) (runs.flatMap fun r => sectorsOf r.addr r.bytes.length)

/-- The same, but that a run of a frame that moves waits at the frame for the move's end (R246). -/
def State.landHeld (key : CipherKey) (runs : List Run) (marks : List (Nat × W32)) (s : State) : State :=
  let waits := runs.filter fun r => s.heldByMove [r.addr]
  let t := s.landMarked key (runs.filter fun r => !s.heldByMove [r.addr]) (marks.filter fun x => !s.heldByMove [x.1])
  if waits.isEmpty then t
  else t.onHub fun h => { h with frames := h.frames.map fun f =>
    { f with held := f.held ++ (waits.filter fun r => frameOf r.addr == some f.num).map fun r => (key, r, marks.filter fun x => frameOf x.1 == some f.num) } }

/-- Whole sectors written by an engine or a link through a handle of a key: fresh check words, but for those that stay poisoned. -/
def State.landRunsBy (key : CipherKey) (runs : List Run) (poisoned : List Nat) (s : State) : State :=
  s.landHeld key runs (poisoned.map fun a => (a, poison))

/-- The same by a party without a handle. -/
def State.landRuns (runs : List Run) (poisoned : List Nat) (s : State) : State := s.landRunsBy none runs poisoned

/-- Space, offset and index that name an address in an error record: a frame by its number (R331). -/
def placeOf (phys a : Nat) : Nat × Nat × Nat :=
  if a < 2 ^ 32 then (a % 2 ^ 19, if a / 2 ^ 19 = phys then 0 else 5, 0)
  else if a < 2 ^ 33 then (a % 2 ^ 23, 2, 0)
  else if a < 2 ^ 40 then (a % 2 ^ 26, 3, 0)
  else (a % 2 ^ 21, 4, (a - 2 ^ 40) / 2 ^ 21)

/-- The same for an address of a context: another core's store by its logical core (R80, R211). -/
def State.placeIn (s : State) (c : Core) (x : Ctx) (a : Nat) : Nat × Nat × Nat :=
  let y := placeOf c.phys a
  if y.2.1 = 5 then (y.1, 5, (((s.launchOf c x).bind fun l => l.members.find? fun m => m.1 == a / 2 ^ 19).map fun m => m.2.2).getD 0) else y

def State.placeFor (s : State) (a : Nat) : Nat × Nat × Nat := s.placeIn s.core s.core.ctx a

/-- Link time of a side: that of its frame. -/
def State.sideFar (s : State) (a : AddrReg) : Nat :=
  if a.space.toNat = 4 then s.farTime (handleFrame (s.core.ctx.handle a.index.toNat)) else 0

/-- Distinct bytes of a sector among cells. -/
def coverage (cs : List Host.Cell) (a : Nat) : Nat :=
  (dedup ((cs.map (·.1)).filter fun x => sectorOf x == a)).length

/-- A store that may write part of a sector (R154), through handles of given keys: a sector that is not wholly written and fails
verification is poisoned, with a record where `tell` gives one. -/
def State.storeCellsBy (key : Nat → CipherKey) (tell : Nat → Option ErrRecord) (cs : List Host.Cell) (s : State) : State :=
  let secs := cellSectors cs
  let poisoned := secs.filter fun a => s.syndromeAt ((key a).or (s.entryKey a)) a != 0 && coverage cs a != 64
  let clean := s.bad.filter fun b => !secs.contains b.1
  let t := ({ s with mem := writeCells s.mem cs, bad := poisoned.foldl (fun b a => setSyndrome b a poison) clean } : State).touch
    key secs
  (poisoned.filterMap tell).foldl (fun t r => t.addRecord r) t

/-- The same by a context's store or engine: the record names the group of the note kept of the sector (R331). A trapped context
raises no record of engine ID 0 (R335). -/
def State.storeCellsAt (p k engine : Nat) (note : Nat → GateNote) (cs : List Host.Cell) (s : State) : State :=
  s.storeCellsBy (fun a => (note a).key) (fun a =>
    if engine = 0 ∧ (s.ctxAt p k).st = .trapped then none
    else some { s.record p k 0x0C01 2 engine 0 0 0 (some (s.placeIn (s.coreAt p) (s.ctxAt p k) a)) with
      bundle := (note a).bundle, scyc := (note a).scyc }) cs

/-! ## Owned cycles (R212) -/

/-- The n-th cycle at or after t whose entry lies in the mask, n counted from 1. -/
def ownedAt (mask : Word) (t n : Nat) : Nat :=
  let offs := (List.range 64).filter fun i => mask.getLsbD ((t + i) % 64)
  if offs.isEmpty then t else t + 64 * ((n - 1) / offs.length) + (offs[(n - 1) % offs.length]?).getD 0

/-- A launch's mask of a resource; empty where none is declared. -/
def Launch.maskOf (l : Launch) (r : Nat) : Word := ((l.masks.find? fun m => m.1 == r).map (·.2)).getD 0

/-- Cycles of a resource whose entries say yes to f (R212). -/
def State.slotCycles (s : State) (r : Nat) (f : Byte → Bool) : Word :=
  BitVec.ofNat 64 ((List.range 64).foldl (fun m i => match (s.hub.slots[r]?).bind fun t => t[i]? with
    | none => m
    | some e => if f e then m + 2 ^ i else m) 0)

/-- Cycles of a resource that a partition owns (R17). -/
def State.partMask (s : State) (r n : Nat) : Word := s.slotCycles r fun e => e.getLsbD 7 && e.toNat % 16 == n

/-- Masks of the issuing context's launch. -/
def State.maskOf (s : State) (r : Nat) : Word := ((s.launchOf s.core s.core.ctx).map (fun l => l.maskOf r)).getD 0

/-! ## Paths (R210) -/

/-- A side of a command: its address. -/
abbrev Side := AddrReg

/-- Clusters that hold the bytes of a side's footprint, given its lowest and highest offset. -/
def State.sideClusters (s : State) (a : Side) (lo hi : Nat) : List Nat :=
  let own := clusterOf s.core.phys
  match a.space.toNat with
  | 5 => [((s.physOfLcore s.core s.core.ctx a.index.toNat).map clusterOf).getD own]
  | 3 => (List.range 4).filterMap fun k => if lo / 2 ^ 24 ≤ k ∧ k ≤ hi / 2 ^ 24 then some (dieOf s.core.phys * 4 + k) else none
  | 4 => [s.homeOf (handleFrame (s.core.ctx.handle a.index.toNat))]
  | _ => [own]

/-- d of a command whose stores lie in the given clusters. -/
def distance (own : Nat) (ks : List Nat) : Nat :=
  if ks.all (· == own) then 0 else if ks.all (fun k => k / 4 == own / 4) then 16 else 48

/-- Whether a side is the issuing core's own unit scratchpad. -/
def State.ownUnit (s : State) (a : Side) : Bool :=
  a.space.toNat == 0 || (a.space.toNat == 5 && s.physOfLcore s.core s.core.ctx a.index.toNat == some s.core.phys)

def State.readTerm (s : State) (a : Side) : Nat :=
  match a.space.toNat with
  | 2 => 12
  | 3 => 24
  | 4 => 480
  | _ => if s.ownUnit a then 4 else 16

def State.writeTerm (s : State) (a : Side) : Nat :=
  match a.space.toNat with
  | 2 => 12
  | 3 => 24
  | 4 => 160
  | _ => if s.ownUnit a then 4 else 16

/-- Bytes per cycle of a side that is not slot-tabled. -/
def State.sideRate (s : State) (a : Side) : Nat := if s.ownUnit a then 256 else 128

/-- Slot-tabled resources that a side crosses. -/
def State.sideResources (s : State) (a : Side) (lo hi : Nat) : List Nat :=
  let away := (s.sideClusters a lo hi).any fun k => k / 4 != dieOf s.core.phys
  match a.space.toNat with
  | 3 => [dieOf s.core.phys]
  | 4 => if away then [4] else []
  | 5 => if away then [4] else []
  | _ => []

/-! ## Staging words (R205) -/

/-- An address word in the layout of an address register. -/
def addrOf (w : Word) : AddrReg := { offset := w.setWidth 32, space := (w >>> 32).setWidth 3, index := (w >>> 35).setWidth 10 }

/-- Bits of a word above the first n are zero. -/
def zeroAbove (n : Nat) (w : Word) : Bool := w.toNat / 2 ^ n == 0

/-- The state as another context of a core sees it when it issues; for reading only. -/
def State.seenBy (p k : Nat) (s : State) : State :=
  let c := s.coreAt p
  let x := c.ctxAt k
  { s with core := { c with ctx := x, rest := c.ctxs.filter fun y => y.id != k }, others := s.allCores.filter fun d => d.phys != p }

/-- A context with a trap to come; the first such record stays. -/
def Ctx.doomed (r : ErrRecord) (x : Ctx) : Ctx := if x.flow.doomed.isSome then x else { x with flow := { x.flow with doomed := some r } }

/-- Mark a context for a trap at its first group at or after now (R214, R218, R278, R299); the first such record stays. -/
def State.doom (p k : Nat) (r : ErrRecord) (s : State) : State :=
  s.updCtx p k (Ctx.doomed r)

/-- The same for a command of a launch: its context may be on the core, or saved; a context of another launch is not meant. -/
def State.doomOf (p k tag : Nat) (r : ErrRecord) (s : State) : State :=
  let f := fun (x : Ctx) => if x.cfg.launch = tag ∧ x.st ≠ .empty then x.doomed r else x
  { (s.updCtx p k f) with saved := s.saved.map fun v => if v.core = p ∧ v.ctx = k then { v with rest := f v.rest } else v }

/-- A context traps in this cycle where it is running or blocked, and else at its first group (R305). -/
def State.trapNow (p k : Nat) (r : ErrRecord) (s : State) : State :=
  if (s.ctxAt p k).st = .running ∨ (s.ctxAt p k).st = .blocked then (s.endSnag p k).trapStop p k s.now r else s.doom p k r

/-! ## Regions of trowels -/

/-- Runs of addresses of an entry's region on a core's partition (R164): a logical core is one of the launch whose region it is,
or that of a context of the core. -/
def State.regionRuns (s : State) (c : Core) (e : TEntry) : List (Nat × Nat) :=
  let p := s.partAt c.partNo
  match e.space with
  | 0 =>
    match (p.coreFor e.launch (e.loc / 128)).or (c.ctxs.findSome? fun x => s.physOfLcore c x (e.loc / 128)) with
    | some q => [(unitBase q + e.loc % 128 * 2 ^ 12, e.count * 2 ^ 12)]
    | none => []
  | 2 =>
    match (List.range 16).find? fun k => p.ctl.getLsbD k && p.clusterIdx k == e.loc / 128 with
    | some k => [(clusterBase k + e.loc % 128 * 2 ^ 16, e.count * 2 ^ 16)]
    | none => []
  | 3 => [(dieBase (e.loc / 128) + e.loc % 128 * 2 ^ 19, e.count * 2 ^ 19)]
  | 4 => (List.range e.count).map fun i => (frameBase ((p.xlatEntry (e.loc + i)).toNat / 2 ^ 10 % 2 ^ 17), 2 ^ 21)
  | _ => []

/-- Whether commands write into runs, flag words too. -/
def writesInto (os : List Outstanding) (runs : List (Nat × Nat)) : Bool :=
  os.any fun o => runs.any fun r => overlaps o.writes r.1 r.2 || overlaps o.flags r.1 r.2

/-- Elements that retirements of a core's scatter-accumulate engine are still to write: those under way, and those of the window
once a command that retires them is queued (R216, R217). -/
def State.saWrites (s : State) (p : Nat) : List (Nat × Nat) :=
  let sa := (s.coreAt p).sa
  (s.agenda.filterMap fun d => match d.ev with
    | .saRetirePerform q e => if q = p then some (e.base + 4 * e.idx, 4) else none
    | .saEntryArrive q e => if q = p then some (e.base + 4 * e.idx, 4) else none
    | _ => none) ++
  (if sa.queue.any fun c => c.flush || c.win.isSome then sa.window.map fun e => (e.base + 4 * e.idx, 4) else [])

/-- Ring slots that a core's armed agfwds are still to reserve and to fill, in ring order behind those reserved (R280). -/
def State.ringAhead (s : State) (p : Nat) : List (Nat × Nat) :=
  let c := s.coreAt p
  (c.link.cmds.filter fun l => l.op == .agfwd && l.armed).flatMap fun l =>
    match l.ring.bind fun q => c.rings[q]?, (s.partAt c.partNo).chans.find? fun d => d.decl.ch == l.ch with
    | some r, some d =>
      (List.range (min r.size.toNat (d.decl.order.length * (l.len / 16384) - l.taken))).map fun i =>
        (unitBase p + r.tileOff (r.tail.toNat + r.resv.length + i), 16384)
    | _, _ => []

/-- Frames of a list whose page lives on another chip: what stands there is that chip's to say, and free (R244, R245). -/
def State.refreshFar (fs : List Nat) (s : State) : State :=
  (fs.filter fun f => ((s.frame f).map fun x => x.far.isSome && x.moving.isNone) == some true).foldl (fun (t : State) f =>
    { t with
      mem := writeRun t.mem (frameBase f) ((List.range (2 ^ 21)).map (Config.farByte t.draws))
      bad := (List.range 32768).foldl (fun b i => setSyndrome b (frameBase f + 64 * i) (Config.farSyndrome t.draws i)) t.bad
      draws := t.draws + 1 }) s

/-- Queued commands that a full eviction has moved out with their core's state (R222). -/
def State.movedQueue (s : State) (p : Nat) : List Outstanding :=
  (s.saved.filter fun v => v.core == p && v.regions.isSome).flatMap fun v =>
    (v.unit.copy.queue.map fun q => match q with
      | .inl c => copyOutstanding c
      | .inr h => chainOutstanding s.now h) ++ v.unit.sa.queue.map fun c => saOutstanding c (s.now + 1)

/-- Whether engine commands with write footprints in the region of an entry of a core are still to perform (R172).
Only commands of the entry's holder can have such footprints (R168), so the core's are all looked at. -/
def State.lenderBusy (s : State) (p : Nat) (e : TEntry) : Bool :=
  let runs := s.regionRuns (s.coreAt p) e
  writesInto ((List.range 4).flatMap (s.outstandingOf p) ++ s.movedQueue p) runs || runs.any fun r => overlaps (s.saWrites p ++ s.ringAhead p) r.1 r.2

end Sys2Proof.Machine
end

