-- ==== Sys2Proof/Machine/Copy.lean ====
section
/-! DEFINITION. The copy engine (R205 to R214): one meaning for each copy slot, for the start and the release of a command,
and for each type of chain entry. -/

namespace Sys2Proof.Machine

/-! ## Parameters and footprints (R205, R209) -/

/-- A copy command's parameters. -/
structure CopySpec where
  op : CopyOp
  src : AddrReg
  dst : AddrReg
  srcOff : Int
  dstOff : Int
  rowLen : Nat
  rows : Nat
  sstr : Int
  dstr : Int
  pattern : W32
  ac : Nat
deriving DecidableEq, Repr

/-- Words of a staging set, or of a chain entry laid out as one. -/
abbrev Words := Nat → Word

def specOf (op : CopyOp) (w : Words) : CopySpec :=
  { op := op, src := addrOf (w 0), dst := addrOf (w 1), srcOff := (addrOf (w 0)).offset.toNat, dstOff := (addrOf (w 1)).offset.toNat
    rowLen := (w 2).toNat % 2 ^ 17, rows := (w 2).toNat / 2 ^ 17 % 2 ^ 17, sstr := ((w 3).setWidth 32).toInt
    dstr := ((w 4).setWidth 32).toInt, pattern := (w 5).setWidth 32, ac := (w 6).toNat % 8 }

/-- Words that a command leaves unused, besides word 7. -/
def unusedWords (op : CopyOp) : List Nat :=
  match op with
  | .cp => [5]
  | .cpq => [1, 4, 5]
  | .tmv => [3, 4, 5]
  | .cpfill => [0, 3]

/-- The third check of R209. -/
def copyParamOk (op : CopyOp) (w : Words) : Bool :=
  let p := specOf op w
  zeroAbove 45 (w 0) && zeroAbove 45 (w 1) && zeroAbove 34 (w 2) && zeroAbove 32 (w 3) && zeroAbove 32 (w 4) &&
  zeroAbove 32 (w 5) && zeroAbove 3 (w 6) && w 7 == 0 && (unusedWords op).all (fun i => w i == 0) &&
  match op with
  | .tmv => p.rowLen == 0 && decide (1 ≤ p.rows) && decide (p.rows ≤ 64)
  | .cpq => decide (64 ≤ p.rowLen) && decide (p.rowLen ≤ 65536) && decide (1 ≤ p.rows) && decide (p.rows ≤ 65536) && p.rowLen * p.rows == 16384
  | _ => decide (64 ≤ p.rowLen) && decide (p.rowLen ≤ 65536) && decide (1 ≤ p.rows) && decide (p.rows ≤ 65536) && decide (p.rowLen * p.rows ≤ 65536)

/-- Rows of a side: first offset and length, in order. -/
def rowsAt (off stride : Int) (n len : Nat) : List (Int × Nat) := (List.range n).map fun (i : Nat) => (off + stride * (i : Int), len)

def CopySpec.srcRows (p : CopySpec) : List (Int × Nat) :=
  match p.op with
  | .tmv => [(p.srcOff, 16384 * p.rows)]
  | .cpfill => []
  | _ => rowsAt p.srcOff p.sstr p.rows p.rowLen

def CopySpec.dstRows (p : CopySpec) : List (Int × Nat) :=
  match p.op with
  | .tmv => [(p.dstOff, 16384 * p.rows)]
  | .cpq => []
  | _ => rowsAt p.dstOff p.dstr p.rows p.rowLen

def CopySpec.reads (p : CopySpec) : Bool := p.op != .cpfill
def CopySpec.writes (p : CopySpec) : Bool := p.op != .cpq

/-- Bytes moved. -/
def CopySpec.len (p : CopySpec) : Nat := if p.op = .tmv then 16384 * p.rows else p.rowLen * p.rows

/-- Sides in use with their rows; true marks the one written. -/
def CopySpec.sides (p : CopySpec) : List (Bool × AddrReg × List (Int × Nat)) :=
  (if p.reads then [(false, p.src, p.srcRows)] else []) ++ (if p.writes then [(true, p.dst, p.dstRows)] else [])

/-- Lowest and highest offset of rows. -/
def rowSpan (rs : List (Int × Nat)) : Nat × Nat :=
  (rs.foldl (fun m r => min m r.1.toNat) ((rs.head?.map (fun r => r.1.toNat)).getD 0), rs.foldl (fun m r => max m (r.1.toNat + r.2 - 1)) 0)

/-- Slot-tabled resources of the path. -/
def State.pathOf (s : State) (p : CopySpec) : List Nat :=
  dedup (p.sides.flatMap fun d => s.sideResources d.2.1 (rowSpan d.2.2).1 (rowSpan d.2.2).2)

/-- The mask that every resource of a path shares. -/
def State.pathMask (s : State) (rs : List Nat) : Word := rs.foldl (fun m r => m &&& s.maskOf r) (BitVec.allOnes 64)

/-- Engine faults at issue carry the engine's ID. -/
def State.engineFault (s : State) (code engine : Nat) : ErrRecord := s.faultOf code engine 0 0 0 none

/-- Spaces a copy side may stand in. -/
def copySpace (a : AddrReg) : Bool := [0, 2, 3, 4, 5].contains a.space.toNat

/-- A side of a command: whether it is written, its address, its rows. -/
abbrev SideRows := Bool × AddrReg × List (Int × Nat)

/-- Rows of every side, each side's in rising order: the first failing row holds the lowest failing sector (R168). -/
def sideRows (sides : List SideRows) : List (Bool × AddrReg × Int × Nat) :=
  sides.flatMap fun d => (sortPieces d.2.2).map fun r => (d.1, d.2.1, r)

/-- Range, the first part of step 6 of R209. -/
def State.sidesRange (s : State) (engine : Nat) (sides : List SideRows) : Verdict :=
  firstOf ((sideRows sides).map fun d =>
    s.inRange engine d.1 d.2.1.space.toNat d.2.1.index.toNat (if d.2.2.1 < 0 then offBits d.2.2.1 else d.2.2.1.toNat) d.2.2.2 (decide (d.2.2.1 < 0)))

/-- Step 7 of R209; then whether a chunk is still to come into the bytes (R281). -/
def State.sidesOwn (s : State) (engine : Nat) (copy : Bool) (sides : List SideRows) : Verdict :=
  (firstOf ((sideRows sides).map fun d =>
    s.own engine copy d.1 d.2.1.space.toNat d.2.1.index.toNat d.2.2.1.toNat d.2.2.2)).andThen fun _ =>
  firstOf ((sideRows sides).map fun d => s.chunkRace (s.byteAddr d.2.1.space.toNat d.2.1.index.toNat d.2.2.1.toNat) d.2.2.2)

/-- Steps 4 to 7 of R209 on given sides. -/
def State.sidesCheck (s : State) (engine : Nat) (copy : Bool) (sides : List SideRows)
    (aligned : AddrReg → List (Int × Nat) → Bool) (path : Verdict) : Verdict :=
  let at_ := fun (a : AddrReg) (o : Int) code => s.placeFault code engine 0 a.space.toNat a.index.toNat (offBits o)
  let first := fun (rs : List (Int × Nat)) => (rs.head?.map (·.1)).getD 0
  (firstOf (sides.map fun d => Verdict.require (copySpace d.2.1) (at_ d.2.1 (first d.2.2) 0x0601))).andThen fun _ =>
  (firstOf (sides.map fun d => Verdict.require (aligned d.2.1 d.2.2) (at_ d.2.1 (first d.2.2) 0x0603))).andThen fun _ =>
  (s.sidesRange engine sides).andThen fun _ =>
  path.andThen fun _ => s.sidesOwn engine copy sides

/-- Steps 3 to 7 of R209 on a copy command. -/
def State.copySteps (s : State) (op : CopyOp) (w : Words) (p : CopySpec) : Verdict :=
  let unit : Int := if op = .tmv then 16384 else 64
  (Verdict.require (copyParamOk op w) (s.engineFault 0x0701 2)).andThen fun _ =>
  s.sidesCheck 2 true p.sides
    (fun _ rs => rs.all (fun r => r.1 % unit == 0 && r.2 % 64 == 0) && p.sstr % 64 == 0 && p.dstr % 64 == 0)
    (let rs := s.pathOf p
     Verdict.require (rs.isEmpty || (rs.all (fun r => s.maskOf r != 0) && s.pathMask rs != 0)) (s.engineFault 0x0701 2))

/-! ## The command (R210, R211) -/

/-- Syndromes and bytes of rows of a side, as memory stands (R211). -/
def State.snapshot (s : State) (a : AddrReg) (rs : List (Int × Nat)) : List (Nat × List Byte) :=
  let base := (s.spaceBase s.core s.core.ctx a.space.toNat a.index.toNat).getD 0
  rs.map fun r => (base + r.1.toNat, s.decrypted (s.keyOf a.space.toNat a.index.toNat) (base + r.1.toNat) r.2)

/-- Sectors of a source run that fail verification, paired with the destination sectors they go to. -/
def State.carried (s : State) (a : AddrReg) (from_ dest n : Nat) : List (Nat × Nat) :=
  (s.failing (s.keyOf a.space.toNat a.index.toNat) from_ n).map fun a => (a, dest + (a - from_))

/-- The layout of ADDR as one word (R331). -/
def addrWord (x : Nat × Nat × Nat) : Word := BitVec.ofNat 64 (x.1 % 2 ^ 32 + x.2.1 * 2 ^ 32 + x.2.2 * 2 ^ 35)

/-- Bytes i·n to i·n+n−1 of a pattern fill. -/
def fillBytes (v : W32) (n : Nat) : List Byte := (List.range (n / 4)).flatMap fun _ => leBytes 4 v.toNat

/-- Destination runs with source runs beside them: address, bytes, source address. -/
def State.moves (s : State) (p : CopySpec) (slot : Nat) : List (Nat × List Byte × Option Nat) :=
  let dbase := (s.spaceBase s.core s.core.ctx p.dst.space.toNat p.dst.index.toNat).getD 0
  match p.op with
  | .cpfill => p.dstRows.map fun r => (dbase + r.1.toNat, fillBytes p.pattern r.2, none)
  | .cpq => (s.snapshot p.src p.srcRows).zipIdx.map fun x => (slot + x.2 * p.rowLen, x.1.2, some x.1.1)
  | _ => List.zipWith (fun (r : Int × Nat) (x : Nat × List Byte) => (dbase + r.1.toNat, x.2, some x.1)) p.dstRows (s.snapshot p.src p.srcRows)

/-- The command as it is queued: its snapshot and the terms of its path. -/
def State.copyCmd (s : State) (p : CopySpec) (slot : Nat) (ring : Option (Nat × Nat)) (chained : Bool) : CopyCmd :=
  let ms := s.moves p slot
  let bad := ms.foldl (fun l m =>
    l.filter (fun b => !(decide (m.1 ≤ b.2) && decide (b.2 < m.1 + m.2.1.length))) ++
      (match m.2.2 with
       | none => []
       | some a => s.carried p.src a m.1 m.2.1.length)) []
  let rec_ := fun (b : Nat × Nat) =>
    s.record s.core.phys s.core.ctx.id 0x0C01 2 2 0 (addrWord (s.placeFor b.1)) 0 (some (s.placeFor b.2))
  let rs := s.pathOf p
  let ks := p.sides.flatMap fun d => s.sideClusters d.2.1 (rowSpan d.2.2).1 (rowSpan d.2.2).2
  let own := clusterOf s.core.phys
  let rates := (if p.reads then [s.sideRate p.src] else []) ++ (if p.writes then [s.sideRate p.dst] else [256])
  { core := s.core.phys, ctx := s.core.ctx.id, op := p.op, runs := ms.map fun m => { addr := m.1, bytes := m.2.1 }
    marks := bad.map (·.2), recs := bad.map rec_
    src := ms.filterMap fun m => m.2.2.map fun a => (a, m.2.1.length)
    dkey := if p.writes then s.keyOf p.dst.space.toNat p.dst.index.toNat else none
    ring := ring, ac := p.ac, bay := s.core.ctx.bay.serial
    rTerm := if p.reads then s.readTerm p.src + s.sideFar p.src else 0
    dTerm := distance own (own :: ks)
    wTerm := if p.writes then s.writeTerm p.dst + s.sideFar p.dst else 4
    xfer := if rs.isEmpty then ceilDiv p.len (rates.foldl min 256) else ceilDiv p.len (if rs.contains 4 then 256 else 512)
    mask := if rs.isEmpty then none else some (s.pathMask rs)
    bundle := s.core.ctx.flow.bundle, issue := s.issueSeq, start := s.now, stream := 0, release := 0, chained := chained }

/-- T2, E and Rl of a command that starts at a cycle (R210). -/
def copyTimed (start : Nat) (c : CopyCmd) : CopyCmd :=
  let t1 := start + c.rTerm + c.dTerm
  let t2 := match c.mask with
    | none => t1 + c.xfer
    | some m => ownedAt m t1 c.xfer + 1
  { c with start := start, stream := start + (t2 - t1), release := t2 + c.wTerm }

/-! ## Starting commands (R207, R226, R228) -/

/-- Whether a context's queued commands pause (R226); those of an evicted context stay in the queue, which is core state (R222). -/
def Core.pauses (c : Core) (k : Nat) : Bool :=
  (c.ctxAt k).st == .stopping || (c.ctxAt k).st == .stopped || (c.ctxAt k).st == .empty

/-- Context of a queued command. -/
def queuedCtx : CopyCmd ⊕ Chain → Nat
  | .inl c => c.ctx
  | .inr h => h.ctx

/-- A command starts: its landing is scheduled in the order of issue. -/
def State.startCopy (c : CopyCmd) (start : Nat) (s : State) : State :=
  let c := copyTimed start c
  (s.updCore c.core fun k => { k with copy := { k.copy with streamEnd := c.stream } }).scheduleAs c.release phLand c.issue
    (.copyRelease c)

/-- A chain takes the engine; its first entry is processed in this cycle. -/
def State.startChain (p : Nat) (h : Chain) (s : State) : State :=
  (s.updCore p fun c => { c with copy := { c.copy with chain := some { h with begun := true } } }).schedule s.now phReg (.copyCommandStart p)

/-- Whether the engine is to be looked at again later. -/
def State.copyAwaited (s : State) (p : Nat) : Bool :=
  s.agenda.any fun d => match d.ev with
    | .copyCommandStart q => q == p
    | _ => false

/-- Stream end of a core's started copies of other contexts (R228). -/
def State.othersEnd (s : State) (p k : Nat) : Nat :=
  s.agenda.foldl (fun n d => match d.ev with
    | .copyRelease c => if c.core = p ∧ c.ctx ≠ k then max n c.stream else n
    | _ => n) 0

/-- The cycle from which a queued command may start: behind the stream. A chain that has begun goes on at its own cycle, but behind the
stream of what ran meanwhile (R228). -/
def State.startFloor (s : State) (p : Nat) (q : CopyCmd ⊕ Chain) : Nat :=
  match q with
  | .inl c => max (s.coreAt p).copy.streamEnd c.start
  | .inr h => max (if h.begun then s.othersEnd p h.ctx else (s.coreAt p).copy.streamEnd) h.next

/-- Frames that a queued command reads or writes: it starts once no move of one is under way (R246). -/
def queuedFrames : CopyCmd ⊕ Chain → List Nat
  | .inl c => c.src.map (·.1) ++ c.runs.map (·.addr)
  | .inr _ => []

/-- The engine takes the first command that does not pause, when its cycle has come, and looks again at the stream's
end while commands wait. -/
def State.kickCopy (p : Nat) (s : State) : State :=
  let c := s.coreAt p
  if c.copy.chain.isSome || s.copyAwaited p then s
  else match c.copy.queue.find? (fun q => !c.pauses (queuedCtx q)) with
  | none => s
  | some q =>
    let t := s.startFloor p q
    if s.now < t then s.schedule t phReg (.copyCommandStart p)
    else if s.heldByMove (queuedFrames q) then s.schedule (s.now + 1) phReg (.copyCommandStart p)
    else
      let s := s.updCore p fun c => { c with copy := { c.copy with queue := c.copy.queue.erase q } }
      match q with
      | .inl cmd =>
        let s := s.startCopy cmd s.now
        if (s.coreAt p).copy.queue.isEmpty then s else s.schedule (s.coreAt p).copy.streamEnd phReg (.copyCommandStart p)
      | .inr h => s.startChain p h

/-- A command enters the queue. -/
def State.enqueueCopy (p : Nat) (q : CopyCmd ⊕ Chain) (s : State) : State :=
  (s.updCore p fun c => { c with copy := { c.copy with queue := c.copy.queue ++ [q] } }).kickCopy p

/-- Queue entries taken: commands that wait, a chain that runs, commands that run until their release (R207). DESIGN CHOICE: no rule
counts the COPY commands of a chain; here they take no entry, and the cpchain's own frees when its last entry is done (log 32). -/
def State.copyEntries (s : State) : Nat :=
  (s.core.copy.queue.filter fun q => match q with
    | .inl c => !c.chained
    | .inr _ => true).length + (if s.core.copy.chain.isSome then 1 else 0) +
    (s.agenda.filter fun d => match d.ev with
      | .copyRelease c => c.core == s.core.phys && !c.chained
      | _ => false).length

def State.copyRoom (s : State) : Verdict :=
  if s.copyEntries < Config.copyQueue then .go else .hold { cause := 3, blocks := true }

/-! ## Copy slots -/

def Ctx.stagedSet (x : Ctx) (eng set : Nat) : Words := fun i => x.staged eng set i

/-- cp, tmv and cpfill. -/
def State.copySlot (s : State) (g : Gate) (n : Fin 4) (op : CopyOp) : Host.Outcome State Fault Refusal :=
  let w := s.core.ctx.stagedSet 0 n.val
  s.slot (!s.core.ctx.gate0 g) (capBit 27)
    (fun s => (s.copySteps op w (specOf op w)).andThen fun _ => s.copyRoom)
    fun s => (s.enqueueCopy s.core.phys (.inl (s.copyCmd (specOf op w) 0 none false))).engineStart

/-- R211. -/
def execCp (g : Gate) (n : Fin 4) (s : State) : Host.Outcome State Fault Refusal := s.copySlot g n .cp

/-- R211. -/
def execTmv (g : Gate) (n : Fin 4) (s : State) : Host.Outcome State Fault Refusal := s.copySlot g n .tmv

/-- R211. -/
def execCpfill (g : Gate) (n : Fin 4) (s : State) : Host.Outcome State Fault Refusal := s.copySlot g n .cpfill

/-- R211. The reserved slot is written as an engine's footprint (R209 step 7). -/
def execCpq (g : Gate) (n : Fin 4) (q : Fin 16) (s : State) : Host.Outcome State Fault Refusal :=
  let w := s.core.ctx.stagedSet 0 n.val
  s.slot (!s.core.ctx.gate0 g) (capBit 27)
    (fun s =>
      let r := s.ring q.val
      (s.canReserve 2 q.val).andThen fun _ =>
      (s.copySteps .cpq w (specOf .cpq w)).andThen fun _ =>
      (s.own 2 true true 0 0 (r.tileOff (ringNext r)) 16384).andThen fun _ => s.copyRoom)
    fun s =>
      let r := s.ring q.val
      let c := s.copyCmd (specOf .cpq w) (unitBase s.core.phys + r.tileOff (ringNext r)) (some (q.val, s.issueSeq)) false
      ((s.onCore (Core.reserve q.val s.issueSeq s.core.ctx.id s.core.ctx.bay.serial)).enqueueCopy s.core.phys (.inl c)).engineStart

/-- R213. The predicates are latched by name. -/
def execCpchain (g : Gate) (n : Fin 4) (s : State) : Host.Outcome State Fault Refusal :=
  let x := s.core.ctx
  let w := x.stagedSet 0 n.val
  let a := addrOf (w 0)
  s.slot (!x.gate0 g) (capBit 27)
    (fun s =>
      (Verdict.require (zeroAbove 45 (w 0) && zeroAbove 3 (w 6) && [1, 2, 3, 4, 5, 7].all (fun i => w i == 0)) (s.engineFault 0x0701 2)).andThen fun _ =>
      (Verdict.require (a.space == 0) (s.placeFault 0x0601 2 0 a.space.toNat a.index.toNat a.offset.toNat)).andThen fun _ =>
      (Verdict.require (a.offset.toNat % 64 == 0) (s.placeFault 0x0603 2 0 0 0 a.offset.toNat)).andThen fun _ =>
      (s.inRange 2 false 0 0 a.offset.toNat 64 false).andThen fun _ => s.copyRoom)
    fun s =>
      (s.enqueueCopy s.core.phys (.inr
        { core := s.core.phys, ctx := x.id, base := a.offset.toNat, pos := 0, preds := (List.range 32).map fun i => x.rp (Fin.ofNat 32 i)
          loops := [], processed := 0, ac := (w 6).toNat % 8, halting := false, bundle := x.flow.bundle, scyc := s.scyc, issue := s.issueSeq, next := s.now, begun := false })).engineStart

/-- R214. The running chain ends at its next entry boundary. -/
def execCphalt (g : Gate) (s : State) : Host.Outcome State Fault Refusal :=
  s.slot (!s.core.ctx.gate0 g) (capBit 27) (fun _ => .go)
    fun s => (s.onCore fun c => { c with copy := { c.copy with chain := c.copy.chain.map fun h => { h with halting := true } } }).engineStart

/-! ## Releases (R211) -/

/-- R211. Every write performs; the ring slot lands; a poisoned sector has its record. A write over the source of a link
command that is not locally complete is a data race (R272). Writes to a frame that moves wait for the move's end, before the writes
of that cycle (R246). -/
def execCopyRelease (c : CopyCmd) (s : State) : Host.Outcome State Fault Refusal :=
  if s.heldByMove (c.runs.map (·.addr)) then .next (s.schedule (s.now + 1) phExternal (.copyRelease c))
  else if s.sourceRace 1 (c.runs.map fun r => (r.addr, r.bytes.length)) then .fault .dataRace
  else
  let s := s.landRunsBy c.dkey c.runs c.marks
  let s := c.recs.foldl (fun t r => t.addRecord { r with gcyc := BitVec.ofNat 64 s.now }) s
  .next (match c.ring with
    | none => s
    | some (q, id) => s.updCore c.core (Core.landReserved q id))

/-! ## Chains (R213, R214) -/

/-- The chain of a core. -/
def State.chainOf (s : State) (p : Nat) : Option Chain := (s.coreAt p).copy.chain

/-- Offset of the entry that comes next in the unit scratchpad. -/
def chainOff (h : Chain) : Nat := h.base + 64 * h.pos

/-- Words of that entry. -/
def State.entryWord (s : State) (h : Chain) : Words := fun i => BitVec.ofNat 64 (readLe s.mem (unitBase h.core + chainOff h + 8 * i) 8)

/-- The engine is free of the chain from a cycle on. -/
def State.endChain (p t : Nat) (s : State) : State :=
  (s.updCore p fun c => { c with copy := { c.copy with chain := none, streamEnd := max c.copy.streamEnd t } }).kickCopy p

/-- A fault of a chain: its record, the end of the chain, and the trap to come (R214). -/
def State.chainFault (p : Nat) (h : Chain) (r : ErrRecord) (s : State) : State :=
  let r := { r with bundle := h.bundle, scyc := h.scyc, sev := 3 }
  ((s.addRecord r).doom p h.ctx r).endChain p s.now

def State.chainRecord (s : State) (h : Chain) (code : Nat) : ErrRecord :=
  s.record h.core h.ctx code 3 2 0 (BitVec.ofNat 64 (chainOff h)) 0 (some (chainOff h, 0, 0))

/-- A fault of R209 on an entry tells the entry's offset; in a handle's record it stands behind the handle (R214, R239). -/
def chainAt (h : Chain) (r : ErrRecord) : ErrRecord :=
  if (r.addr.map (·.2.1)) == some 4 then { r with aux1 := BitVec.ofNat 64 (chainOff h) } else { r with aux0 := BitVec.ofNat 64 (chainOff h) }

/-- Leaving the ends of loop bodies: the next iteration, or out (R213). -/
def leaveLoops (pos : Nat) : List ChainLoop → Nat × List ChainLoop
  | [] => (pos, [])
  | l :: r =>
    if pos < l.first + l.body then (pos, l :: r)
    else if l.iter + 1 < l.count then (l.first, { l with iter := l.iter + 1 } :: r)
    else leaveLoops pos r

/-- On to another entry, two cycles later. -/
def State.chainTo (p : Nat) (h : Chain) (pos : Nat) (s : State) : State :=
  let (pos, loops) := leaveLoops pos h.loops
  (s.updCore p fun c => { c with copy := { c.copy with
    chain := some { h with pos := pos, loops := loops, processed := h.processed + 1, next := s.now + 2 } } }).schedule
      (s.now + 2) phReg (.copyCommandStart p)

/-- Apply f to the chain of a core, if it runs one. -/
def State.onChain (p : Nat) (f : Chain → State → State) (s : State) : State :=
  match s.chainOf p with
  | none => s
  | some h => f h s

/-- A reserved bit of an entry, or an operand beyond its range. -/
def State.chainBad (p : Nat) (h : Chain) (s : State) : State := s.chainFault p h (s.chainRecord h 0x0702)

/-- Words from n to 7 of an entry are zero. -/
def zeroFrom (n : Nat) (w : Words) : Bool := ((List.range 8).drop n).all fun i => w i == 0

/-- END. The engine is free once the entry is done. -/
def State.chainEnd (p : Nat) (s : State) : State :=
  s.onChain p fun h s =>
    let w := s.entryWord h
    if zeroAbove 4 (w 0) && zeroFrom 1 w then s.endChain p (s.now + 2) else s.chainBad p h

/-- Command of a COPY entry by bits 6 to 4 of its header. -/
def chainOp (w : Word) : Option CopyOp :=
  match w.toNat / 16 % 8 with
  | 0 => some .cp
  | 2 => some .tmv
  | 3 => some .cpfill
  | _ => none

/-- Offset of every open loop's step. -/
def loopSteps (f : ChainLoop → Word) (ls : List ChainLoop) : Int := (ls.map fun l => (f l).toInt * (l.iter : Int)).foldl (· + ·) 0

/-- A COPY entry's words laid out as a staging set. -/
def copyWords (w : Words) (ac : Nat) : Words := fun i =>
  match i with
  | 6 => BitVec.ofNat 64 ac
  | 7 => 0
  | n => w (n + 1)

/-- Offsets of a COPY entry under its loops. -/
def chainSpec (h : Chain) (op : CopyOp) (w : Words) : CopySpec :=
  let q := specOf op (copyWords w h.ac)
  { q with srcOff := q.srcOff + loopSteps (·.srcStep) h.loops, dstOff := q.dstOff + loopSteps (·.dstStep) h.loops }

/-- COPY. The command starts when the entry is done, or at the previous stream's end. DESIGN CHOICE: an operation that R213 does not list
is CHAIN_ENTRY (log 32). -/
def State.chainCopy (p : Nat) (s : State) : State :=
  s.onChain p fun h s =>
    let w := s.entryWord h
    match chainOp (w 0) with
    | none => s.chainBad p h
    | some op =>
      if !(zeroAbove 7 (w 0) && w 7 == 0) then s.chainBad p h
      else
        let v := s.seenBy p h.ctx
        let q := chainSpec h op w
        match v.copySteps op (copyWords w h.ac) q with
        | .trap r => s.chainFault p h (chainAt h r)
        | .recover r => s.chainFault p h (chainAt h r)
        | .hold _ => s.schedule (s.now + 1) phReg (.copyCommandStart p)
        | _ =>
          let c := v.copyCmd q 0 none true
          if s.heldByMove (queuedFrames (.inl c)) then s.schedule (s.now + 1) phReg (.copyCommandStart p) else
          let c := { c with bundle := h.bundle, recs := c.recs.map fun r => { r with bundle := h.bundle, scyc := h.scyc } }
          (s.startCopy c (max (s.now + 2) (s.coreAt p).copy.streamEnd)).chainTo p h (h.pos + 1)

/-- LOOP. DESIGN CHOICE: no rule names a body or a count of 0; here either is CHAIN_ENTRY (log 32). -/
def State.chainLoop (p : Nat) (s : State) : State :=
  s.onChain p fun h s =>
    let w := s.entryWord h
    let k := (w 0).toNat / 16 % 256
    let count := (w 0).toNat / 2 ^ 16 % 2 ^ 16
    if !(zeroAbove 32 (w 0) && (w 0).toNat / 2 ^ 12 % 16 == 0 && zeroFrom 3 w && k != 0 && count != 0) then s.chainBad p h
    else if 4 ≤ h.loops.length then s.chainFault p h (s.chainRecord h 0x0703)
    else
      let l : ChainLoop := { first := h.pos + 1, body := k, iter := 0, count := count, srcStep := w 1, dstStep := w 2 }
      s.chainTo p { h with loops := l :: h.loops } (h.pos + 1)

/-- SKIPP. -/
def State.chainSkipp (p : Nat) (s : State) : State :=
  s.onChain p fun h s =>
    let w := s.entryWord h
    let n := (w 0).toNat
    if !(zeroAbove 25 (w 0) && zeroFrom 1 w) then s.chainBad p h
    else
      let bit := ((h.preds[n / 2 ^ 12 % 32]?).getD 0).getLsbD (n / 2 ^ 17 % 128)
      s.chainTo p h (h.pos + 1 + (if bit != (w 0).getLsbD 24 then n / 16 % 256 else 0))

/-- Condition of a 3-bit code in the order of R46. -/
def condAt (n : Nat) : Cond :=
  match n with
  | 0 => .eq
  | 1 => .ne
  | 2 => .lt
  | 3 => .le
  | 4 => .gt
  | 5 => .ge
  | 6 => .ltn
  | _ => .len

/-- SKIPF. The flag word is read as an engine read in this cycle. -/
def State.chainSkipf (p : Nat) (s : State) : State :=
  s.onChain p fun h s =>
    let w := s.entryWord h
    let n := (w 0).toNat
    let off := (w 1).toNat
    if !(zeroAbove 27 (w 0) && n / 2 ^ 12 % 2 ^ 12 == 0 && zeroFrom 3 w) then s.chainBad p h
    else if 2 ^ 19 < off + 8 then s.chainFault p h { s.chainRecord h 0x0602 with addr := some (off % 2 ^ 32, 0, 0) }
    else if off % 8 ≠ 0 then s.chainFault p h { s.chainRecord h 0x0603 with addr := some (off, 0, 0) }
    else
      match (s.seenBy p h.ctx).own 2 true false 0 0 off 8 with
      | .trap r => s.chainFault p h (chainAt h r)
      | .hold _ => s.schedule (s.now + 1) phReg (.copyCommandStart p)
      | _ =>
        if syndrome s.bad (sectorOf (unitBase p + off)) != 0 then s.chainFault p h { s.chainRecord h 0x0C01 with addr := some (off / 64 * 64, 0, 0) }
        else
        let flag : Word := BitVec.ofNat 64 (readLe s.mem (unitBase p + off) 8)
        s.chainTo p h (h.pos + 1 + (if condHolds (condAt (n / 2 ^ 24 % 8)) flag (w 2) then n / 16 % 256 else 0))

/-- Types 5 to 15. -/
def State.chainReserved (p : Nat) (s : State) : State := s.onChain p fun h s => s.chainBad p h

/-- An entry of the running chain is processed: the reading of it, then its type. -/
def State.chainEntry (p : Nat) (h : Chain) (s : State) : State :=
  if h.halting then s.endChain p s.now
  else if 4096 ≤ h.processed then s.chainFault p h (s.chainRecord h 0x0703)
  else if 2 ^ 19 < chainOff h + 64 then s.chainFault p h (s.chainRecord h 0x0602)
  else
    match (s.seenBy p h.ctx).own 2 true false 0 0 (chainOff h) 64 with
    | .trap r => s.chainFault p h (chainAt h r)
    | .hold _ => s.schedule (s.now + 1) phReg (.copyCommandStart p)
    | _ =>
      if syndrome s.bad (unitBase p + chainOff h) != 0 then s.chainFault p h (s.chainRecord h 0x0C01)
      else
        match (s.entryWord h 0).toNat % 16 with
        | 0 => s.chainEnd p
        | 1 => s.chainCopy p
        | 2 => s.chainLoop p
        | 3 => s.chainSkipp p
        | 4 => s.chainSkipf p
        | _ => s.chainReserved p

/-- A chain gives way to what other contexts queued: it stands behind its own commands that have not started (R226). -/
def pauseChain (h : Chain) : List (CopyCmd ⊕ Chain) → List (CopyCmd ⊕ Chain)
  | .inl c :: r => if c.chained ∧ c.ctx = h.ctx then .inl c :: pauseChain h r else .inr h :: .inl c :: r
  | l => .inr h :: l

/-- Whether a link command is still to bring bytes that the engine reads for the entry that comes next: the entry's own, a SKIPF's flag
word, or those of a COPY (R281). -/
def State.chainRace (p : Nat) (s : State) : Bool :=
  match s.chainOf p with
  | none => false
  | some h =>
    !h.halting && (s.chunkRace (unitBase p + chainOff h) 64 == .race ||
    match (s.entryWord h 0).toNat % 16 with
    | 1 =>
      match chainOp (s.entryWord h 0) with
      | none => false
      | some op => (s.seenBy p h.ctx).copySteps op (copyWords (s.entryWord h) h.ac) (chainSpec h op (s.entryWord h)) == .race
    | 4 => s.chunkRace (unitBase p + (s.entryWord h 1).toNat) 8 == .race
    | _ => false)

/-- R207, R214. The engine's next command starts, or its chain's next entry is processed. A chain whose context has
stopped gives way. -/
def execCopyCommandStart (p : Nat) (s : State) : Host.Outcome State Fault Refusal :=
  if s.chainRace p then .fault .dataRace
  else .next (match s.chainOf p with
    | none => s.kickCopy p
    | some h =>
      if (s.coreAt p).pauses h.ctx then
        (s.updCore p fun c => { c with copy := { c.copy with chain := none, queue := pauseChain { h with next := s.now } c.copy.queue } }).kickCopy p
      else s.chainEntry p h)

/-- R213. -/
def execChainEnd (p : Nat) (s : State) : Host.Outcome State Fault Refusal := .next (s.chainEnd p)

/-- R213. -/
def execChainCopy (p : Nat) (s : State) : Host.Outcome State Fault Refusal := .next (s.chainCopy p)

/-- R213. -/
def execChainLoop (p : Nat) (s : State) : Host.Outcome State Fault Refusal := .next (s.chainLoop p)

/-- R213. -/
def execChainSkipp (p : Nat) (s : State) : Host.Outcome State Fault Refusal := .next (s.chainSkipp p)

/-- R213. -/
def execChainSkipf (p : Nat) (s : State) : Host.Outcome State Fault Refusal := .next (s.chainSkipf p)

/-- R214. -/
def execChainReservedEntry (p : Nat) (s : State) : Host.Outcome State Fault Refusal := .next (s.chainReserved p)

end Sys2Proof.Machine
end

