-- ==== Sys2Proof/Machine/Ownership.lean ====
section
/-! DEFINITION. Trowels and swatches (R164 to R180): the ownership slots, their checks, and the arrivals they lead to. -/

namespace Sys2Proof.Machine

/-! ## Entries and records -/

/-- An entry of the core that has the turn, as the issuing context sees it (R169). -/
def State.entry (s : State) (t : Nat) : TEntry := s.core.seen (some s.core.ctx.id) s.now t

/-- An entry as one word (R166). -/
def entryWordOf (e : TEntry) : Word :=
  BitVec.ofNat 64 (e.kind + e.state * 2 ^ 2 + e.ctx % 4 * 2 ^ 5 + (if e.taint then 2 ^ 7 else 0) + e.swatch * 2 ^ 8 +
    e.space * 2 ^ 16 + e.gen % 256 * 2 ^ 19 + e.loc * 2 ^ 27 + e.count * 2 ^ 45)

/-- The record of an entry's trowel. -/
def Part.recOf (p : Part) (e : TEntry) : Option TRec := p.trowels.find? (fun r => recHolds r e)

/-- A record with another region, generation and holder than an entry shows. -/
def recWith (r : TRec) (e : TEntry) : TRec :=
  { r with space := e.space, loc := e.loc, count := e.count, gen := e.gen, taint := e.taint, swatch := e.swatch, launch := e.launch }

/-- A free record. -/
def TRec.free : TRec := { space := 0, loc := 0, count := 0, gen := 0, taint := false, swatch := 0, holder := .home, launch := 0 }

/-- Entries of a context's shadow and of what others still see of it, changed. -/
def Ctx.mapEntries (g : TEntry → TEntry) (x : Ctx) : Ctx :=
  { x with
    shadow := { x.shadow with board := x.shadow.board.map fun y => (y.1, g y.2) }
    lag := x.lag.map fun y => (y.1, g y.2.1, y.2.2) }

/-- Entries of a core's board and of its contexts that satisfy p, changed by f. -/
def Core.mapEntries (p : TEntry → Bool) (f : TEntry → TEntry) (c : Core) : Core :=
  let g := fun e => if p e then f e else e
  ({ c with board := c.board.map g } : Core).mapCtx (Ctx.mapEntries g)

/-- The same on every core of a partition, and for the entries of its saved contexts (R166). -/
def State.mapEntries (n : Nat) (p : TEntry → Bool) (f : TEntry → TEntry) (s : State) : State :=
  { (s.mapCores fun c => if c.partNo = n then c.mapEntries p f else c) with
    saved := s.saved.map fun v => if v.part = n then
      { v with unit := v.unit.mapEntries p f, rest := v.rest.mapEntries fun e => if p e then f e else e } else v }

/-- Swatch entries of a region's former generation take the trowel's new one and its taint at a change of holder; one that a reclaim or a
loss has left behind stays stale (R166, R180). -/
def State.regen (n : Nat) (e : TEntry) (old gen : Nat) (taint : Bool) (s : State) : State :=
  s.mapEntries n (fun f => f.kind == 2 && sameRegion e f && f.gen % 256 == old % 256) fun f => { f with gen := gen % 256, taint := taint }

/-- The record of a region changed. -/
def State.updRec (n : Nat) (e : TEntry) (f : TRec → TRec) (s : State) : State :=
  s.onPart n fun p => { p with trowels := listMod (fun r => recHolds r e) f p.trowels }

/-- A trowel's swatch count falls by one, in its record and in its holder's entry (R174, R176). -/
def State.dropSwatch (n : Nat) (e : TEntry) (s : State) : State :=
  (s.updRec n e fun r => { r with swatch := r.swatch - 1 }).mapEntries n
    (fun f => f.kind == 1 && sameRegion e f) fun f => { f with swatch := f.swatch - 1 }

def State.setEntry (p t : Nat) (e : TEntry) (s : State) : State :=
  s.updCore p fun c => { c with board := c.board.setIfInBounds t e }

/-- An entry of a core where it is: on the board, or saved with the context it serves (R166, R222). -/
def State.findEntry (p t : Nat) (f : TEntry → Bool) (s : State) : Option TEntry :=
  (((s.coreAt p).board[t]?).toList ++
    (s.saved.filter fun v => v.core == p).flatMap fun v => (v.unit.board[t]?).toList.filter (servesCtx v.ctx)).find? f

/-- An entry of a core changed where it is. -/
def State.modEntry (p t : Nat) (f : TEntry → TEntry) (s : State) : State :=
  { (s.updCore p fun c => { c with board := vmod c.board t f }) with
    saved := s.saved.map fun v => if v.core = p then { v with unit := { v.unit with board := vmod v.unit.board t f } } else v }

/-- Whether an entry belongs to a context that is saved and not on its core. -/
def SavedCtx.takes (p k launch : Nat) (v : SavedCtx) : Bool := v.core == p && v.ctx == k && v.tag == launch

/-- An entry given to a context: on its core's board, or with what is saved of it. -/
def State.giveEntry (p k t : Nat) (e : TEntry) (s : State) : State :=
  if s.saved.any (SavedCtx.takes p k e.launch) then
    { s with saved := s.saved.map fun v =>
        if v.takes p k e.launch then { v with unit := { v.unit with board := v.unit.board.setIfInBounds t e } } else v }
  else s.setEntry p t e

/-- The latency of a transfer between two cores (R171). -/
def lendLatency (p q : Nat) : Nat :=
  if clusterOf p = clusterOf q then Config.lendNear else if dieOf p = dieOf q then Config.lendDie else Config.lendFar

/-! ## Operand checks (R170) -/

/-- An ownership fault names the trowel's place in the table. -/
def State.trowelFault (s : State) (code : Nat) (e : TEntry) (aux0 : Word) : ErrRecord :=
  s.fault code (if e.kind = 0 then 0 else s.ownPart.tableIdx e) aux0 0

/-- Whether an entry serves the issuing context; an entry that the copy engine holds serves every context of its core. -/
def State.serves (s : State) (e : TEntry) : Bool :=
  e.kind != 0 && (e.ctx == s.core.ctx.id || (e.kind == 1 && e.state == 4))

/-- An entry in one of the given kinds and states: not held, then stale, then in the wrong state. -/
def State.entryCheck (s : State) (t : Nat) (ok : TEntry → Bool) : Verdict :=
  let e := s.entry t
  if !s.serves e then .trap (s.trowelFault 0x0505 e 0)
  else if s.ownPart.staleEntry e then .trap (s.trowelFault 0x050C e 0)
  else Verdict.require (ok e) (s.trowelFault 0x0505 e 0)

def heldTrowel (e : TEntry) : Bool := e.kind == 1 && e.state == 0

/-- A target descriptor (R171). -/
structure Target where
  kind : Nat
  ctx : Nat
  lcore : Nat
  entry : Nat
  grant : Nat
  flag : Nat
  high : Nat
deriving DecidableEq, Repr

def targetOf (w : Word) : Target :=
  let n := w.toNat
  { kind := n % 4, ctx := n / 4 % 4, lcore := n / 2 ^ 4 % 64, entry := n / 2 ^ 10 % 64, grant := n / 2 ^ 16 % 2 ^ 10
    flag := n / 2 ^ 26 % 2 ^ 16, high := n / 2 ^ 42 }

/-- The physical core of a target. -/
def State.targetCore (s : State) (d : Target) : Option Nat := s.physOfLcore s.core s.core.ctx d.lcore

/-- Whether a target's entry is empty and reserved by nobody, on the board and with the contexts saved from its core. -/
def State.targetFree (s : State) (d : Target) : Bool :=
  match s.targetCore d with
  | none => false
  | some p =>
    (s.coreAt p).entryFree (if p = s.core.phys then some s.core.ctx.id else none) s.now d.entry &&
    !s.saved.any fun v => v.core == p && ((v.unit.board[d.entry]?).map (servesCtx v.ctx)) == some true

/-- Fields and core of a target of kind 0 or 1. -/
def State.targetNamed (s : State) (d : Target) : Bool :=
  d.high == 0 && d.grant == 0 && d.flag == 0 && (d.kind == 0 || (d.kind == 1 && d.ctx == 0)) &&
  (s.targetCore d).isSome && !(d.kind == 0 && s.targetCore d == some s.core.phys && d.ctx == s.core.ctx.id)

/-- Whether a grant serves a lend of a trowel: valid, of the using side, rw, and no byte of the trowel beyond the granted region
(R267). -/
def grantOk (g : Grant) (e : TEntry) : Bool :=
  g.valid && g.side && g.rw && g.space == e.space && decide (g.loc ≤ e.loc) && decide (e.loc + e.count ≤ g.loc + g.count)

/-- A trowel that the context holds covers the sector of a flag word of its unit scratchpad (R173). -/
def State.flagHeld (s : State) (off : Nat) : Bool :=
  let w := s.locOf s.core s.core.ctx 0 0 off
  (s.core.seenBoard (some s.core.ctx.id) s.now).any fun e => e.kind == 1 && e.state == 0 && e.ctx == s.core.ctx.id && entryCovers e w.1 w.2 &&
    !s.ownPart.staleEntry e

def State.grantAt (s : State) (n i : Nat) : Option Grant := (s.partAt n).grants[i]?

/-! ## tlend (R172, R173) -/

def State.lendCheck (s : State) (t : Nat) (w : Word) : Verdict :=
  let d := targetOf w
  let e := s.entry t
  (s.entryCheck t fun e => e.kind == 1 && (e.state == 0 || e.state == 4)).andThen fun _ =>
  if d.kind = 2 then
    (Verdict.require (d.high == 0 && d.ctx == 0 && d.lcore == 0 && d.entry == 0 &&
      ((s.grantAt s.core.partNo d.grant).map fun g => grantOk g e) == some true) (s.trowelFault 0x0506 e w)).andThen fun _ =>
    Verdict.require (s.flagHeld (8 * d.flag)) (s.placeFault 0x0502 0 0 0 0 (8 * d.flag))
  else Verdict.require (d.kind != 3 && s.targetNamed d && s.targetFree d) (s.trowelFault 0x0506 e w)

/-- R172, R173. -/
def execTlend (g : Gate) (t a : Fin 64) (s : State) : Host.Outcome State Fault Refusal :=
  let w := s.core.ctx.rs a
  s.slot (!s.core.ctx.gate0 g) 0 (fun s => s.lendCheck t.val w)
    fun s =>
      let d := targetOf w
      let e := s.entry t.val
      let s := if d.kind = 2 then (s.post (.leave t.val { e with state := 5 })).post (.lendRemote t.val d.grant d.flag)
        else
          let m : TrowelMove :=
            { fromCore := s.core.phys, fromEntry := t.val, toCore := (s.targetCore d).getD 0, toCtx := d.ctx, toEntry := d.entry
              toEngine := d.kind == 1, trowel := e, flushed := false }
          (s.post (.leave t.val { e with state := 2 })).post (.lend m)
      (s.post .commitPoint).post .flush

/-- The target's entry of a trowel on its way; one that goes to a copy engine serves no context (R166). -/
def incomingEntry (m : TrowelMove) : TEntry := { m.trowel with kind := 1, state := 1, ctx := if m.toEngine then 4 else m.toCtx }

/-- A trowel's way to its target begins: the target's entry is incoming, and it arrives L cycles after the lender's last
write. -/
def State.beginLend (m : TrowelMove) (s : State) : State :=
  let s := if m.toEngine then s.setEntry m.toCore m.toEntry (incomingEntry m) else s.giveEntry m.toCore m.toCtx m.toEntry (incomingEntry m)
  let s := s.onFlow fun f => { f with flush := m.fromEntry :: f.flush }
  if s.lenderBusy m.fromCore m.trowel then s.schedule (s.now + 1) phArrive (.trowelArrive m)
  else s.schedule (s.now + lendLatency m.fromCore m.toCore) phArrive (.trowelArrive { m with flushed := true })

/-- The record's holder becomes the remote chip at the lend; the entry waits for the acknowledgement (R173). -/
def State.beginRemote (t grant flag : Nat) (s : State) : State :=
  let s := s.onCore fun c => { c with remote := (t, flag) :: c.remote.filter (·.1 != t) }
  (s.updRec s.core.partNo (s.entry t) fun r => { r with holder := .remote grant s.core.phys s.core.ctx.id t }).onFlow fun f => { f with flush := t :: f.flush }

/-- A move takes effect: the lender's entry empties, the target holds the trowel under the next generation, and the
record and the swatch entries follow. A trowel reclaimed on its way does not arrive. -/
def State.finishLend (m : TrowelMove) (s : State) : State :=
  let n := (s.coreAt m.fromCore).partNo
  let lent := fun (e : TEntry) => e.kind == 1 && e.state == 2 && sameRegion e m.trowel
  let ours := fun (e : TEntry) => e.kind == 1 && e.state == 1 && sameRegion e m.trowel
  let s := s.modEntry m.fromCore m.fromEntry fun e => if lent e then TEntry.empty else e
  let drop := s.modEntry m.toCore m.toEntry fun e => if ours e then TEntry.empty else e
  match (s.partAt n).recOf m.trowel with
  | some r =>
    if r.gen % 256 = m.trowel.gen % 256 ∧ (s.findEntry m.toCore m.toEntry ours).isSome then
      ((s.modEntry m.toCore m.toEntry fun e => if ours e then
        { e with state := if m.toEngine then 4 else 0, ctx := e.ctx % 4, gen := (r.gen + 1) % 256, taint := r.taint, swatch := r.swatch }
        else e).updRec n m.trowel fun r =>
        { r with gen := (r.gen + 1) % 256, holder := .board m.toCore m.toEntry }).regen n m.trowel r.gen (r.gen + 1) r.taint
    else drop
  | none => drop

/-- R172. Until the lender's last write has performed the event comes every cycle. -/
def execTrowelArrive (m : TrowelMove) (s : State) : Host.Outcome State Fault Refusal :=
  if m.flushed then .next (s.finishLend m)
  else if s.lenderBusy m.fromCore m.trowel then .next (s.schedule (s.now + 1) phArrive (.trowelArrive m))
  else .next (s.schedule (s.now + lendLatency m.fromCore m.toCore) phArrive (.trowelArrive { m with flushed := true }))

/-- Mobile pages of a region in GDDR, each by its frame. -/
def Part.mobileFrames (p : Part) (space loc count : Nat) : List Nat :=
  if space = 4 then
    (List.range count).filterMap fun i =>
      let e := ((p.xlat.find? fun x => x.1 == loc + i).map (·.2)).getD 0
      if e.getLsbD 0 && e.getLsbD 27 then some (e.toNat / 2 ^ 10 % 2 ^ 17) else none
  else []

/-- A mobile page may follow its trowel to a remote chip under a grant that names a key, and come back with it (R245). -/
def State.mayMigrate (n grant : Nat) (out : Bool) (space loc count : Nat) (s : State) : State :=
  match s.grantAt n grant with
  | none => s
  | some g =>
    if out && g.key == 0 then s
    else
      ((s.partAt n).mobileFrames space loc count).foldl (fun (t : State) f =>
        let u := { t with draws := t.draws + 1 }
        if Config.migrates t.draws then
          u.schedule (t.now + 1) phLand (.pageMigration f (if out then g.chip else t.hub.chipid.toNat % 2 ^ 12) (Config.farFrame t.draws))
        else u) s

/-- FLAG of the lend that an entry waits for. -/
def Core.remoteFlag (c : Core) (t : Nat) : Nat := ((c.remote.find? fun x => x.1 == t).map (·.2)).getD 0

/-- Whether an acknowledgement under a grant is that of the chip the trowel went to. -/
def State.ackFits (s : State) (n grant : Nat) (e : TEntry) : Bool :=
  match ((s.partAt n).recOf e).map TRec.holder with
  | some (.remote g _ _ _) => g == grant
  | _ => false

/-- Bytes written where they are: in memory, or among those that a full eviction has moved out with a context (R222). -/
def patchRun (a : Nat) (bs : List Byte) (r : Run) : Run :=
  if r.addr ≤ a ∧ a + bs.length ≤ r.addr + r.bytes.length then
    { r with bytes := r.bytes.take (a - r.addr) ++ (bs ++ r.bytes.drop (a - r.addr + bs.length)) }
  else r

/-- The flag word of a remote lend takes the new generation, with fresh check words; the lender may be saved, with its region or
without. -/
def State.writeLent (core a : Nat) (bs : List Byte) (s : State) : State :=
  let inside := fun (r : Run) => decide (r.addr ≤ a) && decide (a < r.addr + r.bytes.length)
  if s.saved.any fun v => v.core == core && v.regions.any fun g => g.1.any inside then
    { s with saved := s.saved.map fun v => if v.core = core then
        { v with regions := v.regions.map fun g => (g.1.map (patchRun a bs), setSyndrome g.2 (sectorOf a) 0) } else v }
  else { s with mem := writeRun s.mem a bs, bad := setSyndrome s.bad (sectorOf a) 0 }

/-- R173. The chip that holds the trowel under the grant acknowledges it: the flag word takes the new generation, the entry empties. The trowel leaves behind the lender's last write: until then
no chip can acknowledge it, and an acknowledgement that comes all the same changes nothing (DESIGN CHOICE, log 53). -/
def execRemoteLendAck (core entry grant : Nat) (s : State) : Host.Outcome State Fault Refusal :=
  let n := (s.coreAt core).partNo
  match s.findEntry core entry fun e => e.kind == 1 && e.state == 5 && s.ackFits n grant e with
  | none => .next s
  | some e =>
    if s.lenderBusy core e then .next s
    else
      let gen := (e.gen + 1) % 256
      let flag := match (s.saved.find? (SavedCtx.takes core e.ctx e.launch)).map (·.unit) with
        | some u => u.remoteFlag entry
        | none => (s.coreAt core).remoteFlag entry
      let s := ((s.modEntry core entry fun f => if f.kind == 1 && f.state == 5 && sameRegion f e then TEntry.empty else f).updRec n e
        fun r => { r with gen := gen }).regen n e e.gen gen e.taint
      .next ((s.mayMigrate n grant true e.space e.loc e.count).writeLent core (unitBase core + 8 * flag) (leBytes 8 gen))

/-! ## tret (R174) -/

/-- Whether tret of an entry only empties it. -/
def State.retStale (s : State) (t : Nat) : Bool := s.serves (s.entry t) && s.ownPart.staleEntry (s.entry t)

/-- R174. -/
def execTret (g : Gate) (t : Fin 64) (s : State) : Host.Outcome State Fault Refusal :=
  s.slot (!s.core.ctx.gate0 g) 0
    (fun s => if s.retStale t.val then .go
      else s.entryCheck t.val fun e => e.kind == 2 || (e.kind == 1 && (e.state == 0 || e.state == 4)))
    fun s =>
      let e := s.entry t.val
      if s.retStale t.val then s.post (.board t.val TEntry.empty)
      else if e.kind = 2 then (s.post (.board t.val TEntry.empty)).post (.publish (.unswatch e))
      else (s.post (.board t.val { e with state := 3 })).post (.publish (.ret t.val))

/-- An entry on its way home; an event names it by its place t of the board and the tag of its launch, as t + 64 × tag. -/
def returning (key : Nat) (e : TEntry) : Bool := e.kind == 1 && e.state == 3 && e.launch == key / 64

/-- The way home begins with the commit: 64 cycles after the lender's last write. -/
def State.beginReturn (p key : Nat) (s : State) : State :=
  match s.findEntry p (key % 64) (returning key) with
  | none => s
  | some e =>
    if s.lenderBusy p e then s.schedule (s.now + 1) phArrive (.trowelHome p key false)
    else s.schedule (s.now + 64) phArrive (.trowelHome p key true)

/-- A trowel reaches home with no holder and the next generation; the command processor may assign it again (R174). -/
def State.reachHome (p key : Nat) (s : State) : State :=
  let n := (s.coreAt p).partNo
  match s.findEntry p (key % 64) (returning key) with
  | none => s
  | some e =>
    let s := s.modEntry p (key % 64) fun f => if returning key f then TEntry.empty else f
    match (s.partAt n).recOf e with
    | some r =>
      if r.gen % 256 = e.gen % 256 then
        (s.updRec n e fun r => { r with gen := (r.gen + 1) % 256, holder := .home }).regen n e r.gen (r.gen + 1) r.taint |>.wakeHarvest n
      else s
    | none => s

/-- R174. -/
def execTrowelHome (core entry : Nat) (flushed : Bool) (s : State) : Host.Outcome State Fault Refusal :=
  if flushed then .next (s.reachHome core entry) else .next (s.beginReturn core entry)

/-! ## tsplit and tjoin (R175) -/

/-- The change of an entry's record to what another entry shows. -/
def State.recChange (s : State) (e f : TEntry) : List (TRec × TRec) :=
  match s.ownPart.recOf e with
  | none => []
  | some r => [(r, recWith r f)]

/-- Records of a partition's table in use, those that bays not yet committed will add among them (R169, R175). -/
def State.recordsTaken (s : State) (n : Nat) : Nat :=
  ((s.partAt n).trowels.filter fun r => r.count != 0).length +
  ((s.allCores.filter fun c => c.partNo == n).flatMap fun c => c.ctxs.flatMap fun x => x.shadow.table.flatten.filter fun c => c.1.count == 0).length

/-- R175. -/
def execTsplit (g : Gate) (t m a : Fin 64) (s : State) : Host.Outcome State Fault Refusal :=
  let k := (s.core.ctx.rs a).toNat
  s.slot (!s.core.ctx.gate0 g) 0
    (fun s =>
      let e := s.entry t.val
      (s.entryCheck t.val heldTrowel).andThen fun _ =>
      (Verdict.require (t != m) (s.trowelFault 0x0507 e 0)).andThen fun _ =>
      (Verdict.require (e.swatch == 0) (s.trowelFault 0x0509 e 0)).andThen fun _ =>
      (Verdict.require (decide (1 ≤ k) && decide (k < e.count) && s.core.entryFree (some s.core.ctx.id) s.now m.val)
        (s.trowelFault 0x0507 e 0)).andThen fun _ =>
      Verdict.require (decide (s.recordsTaken s.core.partNo < Config.trowelRecords))
        (s.trowelFault 0x050B e 0))
    fun s =>
      let e := s.entry t.val
      let gen := (e.gen + 1) % 256
      let lo : TEntry := { e with count := k, gen := gen }
      let hi : TEntry := { e with loc := e.loc + k, count := e.count - k, gen := gen }
      let new : TRec := recWith { TRec.free with holder := .board s.core.phys m.val } hi
      ((s.post (.board t.val lo)).post (.board m.val hi)).post
        (.table (s.recChange e lo ++ [(TRec.free, new)]))

/-- Store that a granule of a space stands in; slices of a die count apart (R164). -/
def storeOf (sp loc : Nat) : Nat := if sp = 3 then loc / 32 else if sp = 4 then 0 else loc / 128

def adjacent (e f : TEntry) : Bool :=
  e.space == f.space && storeOf e.space e.loc == storeOf f.space f.loc && (e.loc + e.count == f.loc || f.loc + f.count == e.loc)

/-- R175. -/
def execTjoin (g : Gate) (t m : Fin 64) (s : State) : Host.Outcome State Fault Refusal :=
  s.slot (!s.core.ctx.gate0 g) 0
    (fun s =>
      let e := s.entry t.val
      let f := s.entry m.val
      (s.entryCheck t.val heldTrowel).andThen fun _ =>
      (s.entryCheck m.val heldTrowel).andThen fun _ =>
      (Verdict.require (t != m) (s.trowelFault 0x0508 e 0)).andThen fun _ =>
      (Verdict.require (e.swatch == 0 && f.swatch == 0) (s.trowelFault 0x0509 e 0)).andThen fun _ =>
      Verdict.require (adjacent e f && e.taint == f.taint) (s.trowelFault 0x0508 e 0))
    fun s =>
      let e := s.entry t.val
      let f := s.entry m.val
      let j : TEntry := { e with loc := min e.loc f.loc, count := e.count + f.count, gen := (max e.gen f.gen + 1) % 256 }
      let gone := match s.ownPart.recOf f with
        | none => []
        | some r => [(r, TRec.free)]
      ((s.post (.board t.val j)).post (.board m.val TEntry.empty)).post (.table (s.recChange e j ++ gone))

/-! ## tshare and tunshare (R176) -/

/-- R176. -/
def execTshare (g : Gate) (t a : Fin 64) (s : State) : Host.Outcome State Fault Refusal :=
  let w := s.core.ctx.rs a
  let d := targetOf w
  s.slot (!s.core.ctx.gate0 g) 0
    (fun s =>
      let e := s.entry t.val
      (s.entryCheck t.val heldTrowel).andThen fun _ =>
      (Verdict.require (e.swatch != 255) (s.trowelFault 0x050A e 0)).andThen fun _ =>
      Verdict.require (d.kind == 0 && s.targetNamed d && s.targetFree d) (s.trowelFault 0x0506 e w))
    fun s =>
      let e := s.entry t.val
      let f : TEntry := { e with swatch := e.swatch + 1 }
      let p := (s.targetCore d).getD 0
      (((s.post (.board t.val f)).post (.table (s.recChange e f))).post (.reserve p d.entry)).post
        (.publish (.share p d.ctx d.entry f))

/-- The grantee's reserved entry becomes an incoming swatch at the commit. -/
def State.beginShare (p k t : Nat) (e : TEntry) (s : State) : State :=
  let w : TEntry := { e with kind := 2, state := 1, ctx := k, swatch := 0 }
  ((s.giveEntry p k t w).updCore p fun c => { c with reserved := c.reserved.filter (· != t) }).schedule
    (s.now + lendLatency s.core.phys p) phArrive (.swatchArrive { part := s.core.partNo, core := p, entry := t, trowel := e })

/-- R176. The news of a tclean, which names an entry of KIND 2, reaches every swatch of the trowel instead (R178). -/
def execSwatchArrive (m : SwatchMove) (s : State) : Host.Outcome State Fault Refusal :=
  if m.trowel.kind = 2 then
    .next (s.mapEntries m.part (fun f => f.kind == 2 && sameRegion m.trowel f && f.gen % 256 == m.trowel.gen % 256) fun f => { f with taint := false })
  else
    .next (s.modEntry m.core m.entry fun f => if f.kind = 2 ∧ f.state = 1 ∧ sameRegion f m.trowel then { f with state := 0 } else f)

/-- R176. -/
def execTunshare (g : Gate) (t a : Fin 64) (s : State) : Host.Outcome State Fault Refusal :=
  let w := s.core.ctx.rs a
  let d := targetOf w
  s.slot (!s.core.ctx.gate0 g) 0
    (fun s => (s.entryCheck t.val heldTrowel).andThen fun _ =>
      Verdict.require (d.kind == 0 && s.targetNamed d) (s.trowelFault 0x0506 (s.entry t.val) w))
    fun s => s.post (.publish (.unshare (s.entry t.val) ((s.targetCore d).getD 0) d.entry))

/-- A swatch revoked at the commit reaches its grantee L cycles later. -/
def State.beginUnshare (e : TEntry) (p t : Nat) (s : State) : State :=
  s.schedule (s.now + lendLatency s.core.phys p) phArrive (.swatchRevoke { part := s.core.partNo, core := p, entry := t, trowel := e })

/-- TROWEL_LOST: the trowel's place in the table, and the lost entry (R176, R180). -/
def State.lostRecord (s : State) (n : Nat) (e : TEntry) (w : Word) : ErrRecord :=
  s.partRecord n 0x050D 0 30 ((s.partAt n).tableIdx e) w 0

/-- R176. -/
def execSwatchRevoke (m : SwatchMove) (s : State) : Host.Outcome State Fault Refusal :=
  let ours := fun (f : TEntry) => f.kind == 2 && sameRegion f m.trowel
  if (s.findEntry m.core m.entry ours).isSome then
    .next ((s.modEntry m.core m.entry fun f => if ours f then TEntry.empty else f).dropSwatch m.part m.trowel)
  else .next (s.addRecord (s.lostRecord m.part m.trowel (entryWordOf (((s.coreAt m.core).board[m.entry]?).getD TEntry.empty))))

/-- A swatch given up: the count falls L cycles after the commit, L from the grantee to the holder (R174). DESIGN CHOICE: no rule gives
L for a trowel that no board holds (at home, or lent to another chip); here it is that of another die (log 30). -/
def State.beginUnswatch (e : TEntry) (s : State) : State :=
  let n := s.core.partNo
  let L := match ((s.partAt n).recOf e).map (·.holder) with
    | some (.board q _) => lendLatency s.core.phys q
    | _ => Config.lendFar
  s.schedule (s.now + L) phArrive (.swatchReturn { part := n, core := s.core.phys, entry := 0, trowel := e })

/-- R174. -/
def execSwatchReturn (m : SwatchMove) (s : State) : Host.Outcome State Fault Refusal := .next (s.dropSwatch m.part m.trowel)

/-! ## tprobe and tclean (R177, R178) -/

/-- R177. -/
def execTprobe (g : Gate) (t d : Fin 64) (s : State) : Host.Outcome State Fault Refusal :=
  s.plain (!s.core.ctx.gate0 g) 0 fun s => s.landS 1 d (entryWordOf (s.entry t.val)) 0

/-- Both forms of tclean. -/
def State.cleanSlot (s : State) (g : Gate) (t : Fin 64) (zero : Bool) : Host.Outcome State Fault Refusal :=
  s.slot (!s.core.ctx.gate0 g) 0 (fun s => s.entryCheck t.val heldTrowel)
    fun s =>
      let e := s.entry t.val
      let f : TEntry := { e with taint := false }
      ((s.post (.board t.val f)).post (.table (s.recChange e f))).post (.publish (.clean f zero))

/-- R178. -/
def execTcleanKeep (g : Gate) (t : Fin 64) (s : State) : Host.Outcome State Fault Refusal := s.cleanSlot g t false

/-- R178. -/
def execTcleanZero (g : Gate) (t : Fin 64) (s : State) : Host.Outcome State Fault Refusal := s.cleanSlot g t true

/-- The commit of a tclean: from m + 2 on the trowel's swatch entries show no taint (R166, R169); zeros at 256 bytes per cycle from then
on, over the region as it was when the instruction issued. -/
def State.beginClean (e : TEntry) (zero : Bool) (s : State) : State :=
  let s := s.schedule (s.now + 2) phArrive
    (.swatchArrive { part := s.core.partNo, core := s.core.phys, entry := 0, trowel := { e with kind := 2 } })
  if zero then
    let n := ((s.regionRuns s.core e).map (·.2)).foldl (· + ·) 0
    s.schedule (s.now + 2 + n / 256) phLand (.tcleanZeroDone s.core.phys e)
  else s

/-- Runs of memory become zero, with right check words. -/
def State.zeroRuns (rs : List (Nat × Nat)) (s : State) : State :=
  let inside := fun a => rs.any fun r => decide (r.1 ≤ a) && decide (a < r.1 + r.2)
  (({ s with mem := s.mem.filter (fun c => !inside c.1), bad := s.bad.filter (fun b => !inside b.1) } : State).touch (fun _ => none) (rs.map (·.1))).rekeyWhole (rs.filterMap fun r => frameOf r.1)

/-- R178. -/
def execTcleanZeroDone (core : Nat) (region : TEntry) (s : State) : Host.Outcome State Fault Refusal :=
  let rs := s.regionRuns (s.coreAt core) region
  if s.heldByMove (rs.map (·.1)) then .next (s.schedule (s.now + 1) phLand (.tcleanZeroDone core region)) else .next (s.zeroRuns rs)

end Sys2Proof.Machine
end

