-- ==== Sys2Proof/Machine/Float.lean ====
section
/-! DEFINITION. Number formats and exact arithmetic (R103-R118): values are exact dyadic numbers, every operation is
computed exactly and rounded once. A quotient, root, exponential or logarithm that no dyadic number equals carries one
further odd bit below, so that every rounding sees on which side of each boundary it lies. -/

namespace Sys2Proof.Machine

/-- A value of a floating-point format: the finite value is (−1)^s × m × 2^e. -/
inductive Num where
  | nan
  | inf (s : Bool)
  | fin (s : Bool) (m : Nat) (e : Int)
deriving DecidableEq, Repr

/-- A floating-point format (R103): fraction bits, exponent bits, bias. -/
structure Fmt where
  mb : Nat
  eb : Nat
  bias : Nat
deriving DecidableEq, Repr

def Fmt.f32 : Fmt := { mb := 23, eb := 8, bias := 127 }
def Fmt.bf16 : Fmt := { mb := 7, eb := 8, bias := 127 }
def Fmt.f16 : Fmt := { mb := 10, eb := 5, bias := 15 }
def Fmt.e4m3 : Fmt := { mb := 3, eb := 4, bias := 7 }
def Fmt.e5m2 : Fmt := { mb := 2, eb := 5, bias := 15 }

/-- E4M3 alone has no infinity (R103). -/
def Fmt.hasInf (f : Fmt) : Bool := f.eb != 4

/-- Width of the format in bits. -/
def Fmt.width (f : Fmt) : Nat := 1 + f.eb + f.mb

/-- Magnitude bits of the largest finite value (R104). -/
def Fmt.maxFin (f : Fmt) : Nat := if f.hasInf then (2 ^ f.eb - 1) * 2 ^ f.mb - 1 else 0x7E

/-- Magnitude bits of infinity; of the NaN in E4M3. -/
def Fmt.infBits (f : Fmt) : Nat := if f.hasInf then (2 ^ f.eb - 1) * 2 ^ f.mb else 0x7F

/-- The canonical NaN (R104). -/
def Fmt.nanBits (f : Fmt) : Nat := if f.hasInf then (2 ^ f.eb - 1) * 2 ^ f.mb + 2 ^ (f.mb - 1) else 0x7F

def FFmt.fmt : FFmt → Fmt
  | .f32 => Fmt.f32
  | .bf16 => Fmt.bf16
  | .f16 => Fmt.f16

/-- The value of a pattern; bits above the format's width are ignored (R102, R103). -/
def Fmt.decode (f : Fmt) (w : Nat) : Num :=
  let s := w / 2 ^ (f.eb + f.mb) % 2 == 1
  let E := w / 2 ^ f.mb % 2 ^ f.eb
  let M := w % 2 ^ f.mb
  if f.hasInf && E == 2 ^ f.eb - 1 then (if M == 0 then .inf s else .nan)
  else if !f.hasInf && w % 0x80 == 0x7F then .nan
  else if E == 0 then .fin s M (1 - (f.bias : Int) - f.mb)
  else .fin s (M + 2 ^ f.mb) ((E : Int) - f.bias - f.mb)

/-- A non-zero value below the smallest normal magnitude of the format. -/
def Fmt.subnormal (f : Fmt) (w : Nat) : Bool := w / 2 ^ f.mb % 2 ^ f.eb == 0 && w % 2 ^ f.mb != 0

/-- A magnitude with its sign bit. -/
def Fmt.sign (f : Fmt) (s : Bool) (w : Nat) : Nat := if s then w + 2 ^ (f.eb + f.mb) else w

/-- m × 2^k for any k, rounded down. -/
def scale2 (m : Nat) (k : Int) : Nat := if 0 ≤ k then m * 2 ^ k.toNat else m / 2 ^ (-k).toNat

/-- m / 2^k rounded to an integer by the mode, for a value of sign s (R107). -/
def roundShift (r : Rnd) (s : Bool) (m k : Nat) : Nat :=
  let q := m / 2 ^ k
  let rem := m % 2 ^ k
  let up := match r with
    | .rn => 2 ^ k < 2 * rem || (2 * rem == 2 ^ k && q % 2 == 1)
    | .rz => false
    | .rp => !s && rem != 0
    | .rm => s && rem != 0
  if up then q + 1 else q

/-- Exponent of the unit in the last place of a value m × 2^e with m ≠ 0, on the format's grid. -/
def Fmt.ulp (f : Fmt) (m : Nat) (e : Int) : Int :=
  max (e + (bitLen m : Int) - 1 - f.mb) (1 - (f.bias : Int) - f.mb)

/-- The result of an overflow (R107). -/
def Fmt.overflow (f : Fmt) (r : Rnd) (sat s : Bool) : Nat :=
  let toInf := match r with
    | .rn => true
    | .rz => false
    | .rp => !s
    | .rm => s
  if sat || !toInf then f.sign s f.maxFin
  else if f.hasInf then f.sign s f.infBits else f.nanBits

/-- Magnitude bits of m × 2^e rounded onto the format's grid, extended without bound above its largest value (R107). -/
def Fmt.mag (f : Fmt) (r : Rnd) (s : Bool) (m : Nat) (e : Int) : Nat :=
  if m = 0 then 0
  else
    let q := f.ulp m e
    (q + f.mb + f.bias - 1).toNat * 2 ^ f.mb +
      (if q ≤ e then m * 2 ^ (e - q).toNat else roundShift r s m (q - e).toNat)

/-- Round a value into the format (R107, R110): its pattern. -/
def Fmt.round (f : Fmt) (r : Rnd) (sat : Bool) : Num → Nat
  | .nan => f.nanBits
  | .inf s => if sat then f.sign s f.maxFin else if f.hasInf then f.sign s f.infBits else f.nanBits
  | .fin s m e => if f.maxFin < f.mag r s m e then f.overflow r sat s else f.sign s (f.mag r s m e)

/-- Stochastic rounding with n random bits k (R108). -/
def Fmt.roundSr (f : Fmt) (n k : Nat) (sat : Bool) : Num → Nat
  | .fin s m e =>
    if m = 0 then f.sign s 0
    else
      let g := f.ulp m e - n
      let j := if g ≤ e then m * 2 ^ (e - g).toNat else roundShift .rn s m (g - e).toNat
      let w := f.mag .rz s (j + k) g
      if f.maxFin < w then f.overflow .rn sat s else f.sign s w
  | x => f.round .rn sat x

/-! ## Exact arithmetic -/

/-- (−1)^s × m as an integer. -/
def signed (s : Bool) (m : Nat) : Int := if s then -(m : Int) else m

/-- A finite value from a signed integer; zero takes the sign given. -/
def Num.ofInt (z : Bool) (i : Int) (e : Int) : Num :=
  if i = 0 then .fin z 0 e else .fin (decide (i < 0)) i.natAbs e

def Num.neg : Num → Num
  | .nan => .nan
  | .inf s => .inf (!s)
  | .fin s m e => .fin (!s) m e

/-- Exact sum; an exact zero is −0 only when both are −0, or, where they differ, under rounding toward −∞. -/
def Num.add (r : Rnd) : Num → Num → Num
  | .nan, _ => .nan
  | _, .nan => .nan
  | .inf s, .inf t => if s == t then .inf s else .nan
  | .inf s, .fin _ _ _ => .inf s
  | .fin _ _ _, .inf t => .inf t
  | .fin s m e, .fin t n d =>
    let k := min e d
    let i := signed s (m * 2 ^ (e - k).toNat) + signed t (n * 2 ^ (d - k).toNat)
    let z := if m == 0 && n == 0 && s == t then s else r == .rm
    .ofInt z i k

/-- Exact product. -/
def Num.mul : Num → Num → Num
  | .nan, _ => .nan
  | _, .nan => .nan
  | .inf s, .inf t => .inf (s != t)
  | .inf s, .fin t n _ => if n == 0 then .nan else .inf (s != t)
  | .fin s m _, .inf t => if m == 0 then .nan else .inf (s != t)
  | .fin s m e, .fin t n d => .fin (s != t) (m * n) (e + d)

/-- m × 2^e, or the same with one odd bit below when the value is not exact. -/
def sticky (s : Bool) (m : Nat) (e : Int) (exact : Bool) : Num :=
  if exact then .fin s m e else .fin s (2 * m + 1) (e - 1)

/-- Quotient (R105, R141): at least 70 significant bits and the odd bit. -/
def Num.div : Num → Num → Num
  | .nan, _ => .nan
  | _, .nan => .nan
  | .inf _, .inf _ => .nan
  | .inf s, .fin t _ _ => .inf (s != t)
  | .fin s _ _, .inf t => .fin (s != t) 0 0
  | .fin s m e, .fin t n d =>
    if n == 0 then (if m == 0 then .nan else .inf (s != t))
    else if m == 0 then .fin (s != t) 0 0
    else
      let k := 70 + bitLen n
      sticky (s != t) (m * 2 ^ k / n) (e - d - k) (m * 2 ^ k % n == 0)

/-- Square root: exponent made even, at least 70 significant bits. -/
def Num.sqrt : Num → Num
  | .nan => .nan
  | .inf s => if s then .nan else .inf false
  | .fin s m e =>
    if m == 0 then .fin s 0 0
    else if s then .nan
    else
      let k : Nat := 140 + (e % 2).toNat
      let n := m * 2 ^ k
      let q := isqrt n
      sticky false q ((e - k) / 2) (q * q == n)

/-- 1/√x (R141). -/
def Num.rsqrt : Num → Num
  | .nan => .nan
  | .inf s => if s then .nan else .fin false 0 0
  | .fin s m e =>
    if m == 0 then .inf s
    else if s then .nan
    else
      let k : Nat := 2 * bitLen m + 140 + (e % 2).toNat
      let q := isqrt (2 ^ k / m)
      sticky false q (-(e + k) / 2) (q * q * m == 2 ^ k)

/-- Fixed-point precision of the exponential, and ln 2 in it. -/
def expP : Nat := 320
def ln2 : Nat := 1480553391661173448385607439722553250922680800745876974795605978609098082859138712941075737848984

/-- Σ y^k / k! in fixed point: term t of index k, sum a. -/
def expSeries : Nat → Nat → Nat → Nat → Nat → Nat
  | 0, _, _, _, a => a
  | n + 1, y, k, t, a =>
    let t' := t * y / 2 ^ expP / k
    expSeries n y (k + 1) t' (a + t')

/-- 2^x (R141): whole part exactly, fraction by the exponential series, whose error lies far below every boundary. -/
def Num.exp2 : Num → Num
  | .nan => .nan
  | .inf s => if s then .fin false 0 0 else .inf false
  | .fin s m e =>
    if m == 0 then .fin false 1 0
    else
      let big := (e + (bitLen m : Int)) > 12
      if big then (if s then .fin false 1 (-100000) else .fin false 1 100000)
      else
        let i := signed s (m * 2 ^ (max e 0).toNat)
        let d : Nat := (-(min e 0)).toNat
        let n := i / 2 ^ d
        let f := (i % 2 ^ d).toNat
        if f == 0 then .fin false 1 n
        else
          let y := (if d ≤ expP then f * 2 ^ (expP - d) else f / 2 ^ (d - expP)) * ln2 / 2 ^ expP
          let v := expSeries 90 y 1 (2 ^ expP) (2 ^ expP)
          sticky false v (n - expP) false

/-- Bits of log2 z for z = zf / 2^400 in [1, 2), by repeated squaring: fuel, z, bits found. -/
def log2Bits : Nat → Nat → Nat → Nat
  | 0, _, a => a
  | n + 1, z, a =>
    let q := z * z / 2 ^ 400
    if 2 ^ 401 ≤ q then log2Bits n (q / 2) (2 * a + 1) else log2Bits n q (2 * a)

/-- log2 x (R141). -/
def Num.log2 : Num → Num
  | .nan => .nan
  | .inf s => if s then .nan else .inf false
  | .fin s m e =>
    if m == 0 then .inf true
    else if s then .nan
    else
      let n := e + (bitLen m : Int) - 1
      let z := m * 2 ^ (400 - (bitLen m - 1))
      if z == 2 ^ 400 then .ofInt false n 0
      else
        let b := log2Bits 160 z 0
        -- the true value lies strictly between b and b + 1 in units of 2^-160
        let i := 2 * (n * 2 ^ 160 + b) + 1
        .ofInt false i (-161)

/-- −0 counts as less than +0 (R125). -/
def Num.lt : Num → Num → Bool
  | .nan, _ => false
  | _, .nan => false
  | .inf s, .inf t => s && !t
  | .inf s, .fin _ _ _ => s
  | .fin _ _ _, .inf t => !t
  | .fin s m e, .fin t n d =>
    if m == 0 && n == 0 then s && !t
    else
      let k := min e d
      signed s (m * 2 ^ (e - k).toNat) < signed t (n * 2 ^ (d - k).toNat)

/-- Numerical order and equality, ±0 equal. -/
def Num.cmpLt (x y : Num) : Bool :=
  match x, y with
  | .fin _ 0 _, .fin _ 0 _ => false
  | _, _ => x.lt y

def Num.isNan : Num → Bool
  | .nan => true
  | _ => false

/-- The condition of fcmp (R127). -/
def FCond.holds (c : FCond) (x y : Num) : Bool :=
  let n := x.isNan || y.isNan
  let lt := x.cmpLt y
  let gt := y.cmpLt x
  match c with
  | .eq => !n && !lt && !gt
  | .ne => n || lt || gt
  | .lt => lt
  | .le => !n && !gt
  | .gt => gt
  | .ge => !n && !lt
  | .un => n
  | .or => !n

/-! ## Flushing (R109) -/

/-- Replace a subnormal by zero of its sign when fl is set. -/
def Fmt.flush (f : Fmt) (fl : Bool) (w : Nat) : Nat :=
  if fl && f.subnormal w then f.sign (w / 2 ^ (f.eb + f.mb) % 2 == 1) 0 else w % 2 ^ f.width

/-- Operand value under the flush rule. -/
def Fmt.val (f : Fmt) (fl : Bool) (w : W32) : Num := f.decode (f.flush fl w.toNat)

/-- Rounded result under the flush rule, in lane form (R102, R109). -/
def Fmt.out (f : Fmt) (fl : Bool) (r : Rnd) (x : Num) : W32 := BitVec.ofNat 32 (f.flush fl (f.round r false x))

/-! ## Integers (R106, R111) -/

/-- A value rounded to an integer by the mode. -/
def roundInt (r : Rnd) (s : Bool) (m : Nat) (e : Int) : Int :=
  signed s (if 0 ≤ e then m * 2 ^ e.toNat else roundShift r s m (-e).toNat)

/-- Stochastic rounding to an integer (R108 with u = 1). -/
def roundIntSr (n k : Nat) (s : Bool) (m : Nat) (e : Int) : Int :=
  let j := if 0 ≤ e + n then m * 2 ^ (e + n).toNat else roundShift .rn s m (-(e + n)).toNat
  signed s ((j + k) / 2 ^ n)

def clampInt (lo hi i : Int) : Int := if i < lo then lo else if hi < i then hi else i

/-! ## The array (R113-R117) -/

/-- Exact sum of a list of products: special values as R114 gives; zero is −0 only when every term is −0. -/
def sumExact (l : List Num) : Num :=
  if l.any Num.isNan then .nan
  else
    let pos := l.any (· == .inf false)
    let neg := l.any (· == .inf true)
    if pos && neg then .nan
    else if pos then .inf false
    else if neg then .inf true
    else
      let k := l.foldl (fun k x => match x with | .fin _ _ e => min k e | _ => k) 0
      let i := l.foldl (fun i x => match x with
        | .fin s m e => i + signed s (m * 2 ^ (e - k).toNat)
        | _ => i) (0 : Int)
      let z := l.all (fun x => match x with | .fin s m _ => s && m == 0 | _ => false) && !l.isEmpty
      .ofInt z i k

/-- RNE to FP32 with subnormals honoured (R109). -/
def rne32 (x : Num) : Nat := Fmt.f32.round .rn false x

/-- One FP32 addition, rounded to nearest even. -/
def add32 (a b : Nat) : Nat := rne32 (Num.add .rn (Fmt.f32.decode a) (Fmt.f32.decode b))

/-- Neighbours combined. -/
def pairUp {α : Type} (f : α → α → α) : List α → List α
  | x :: y :: r => f x y :: pairUp f r
  | l => l

/-- Balanced tree over 2^n values (R113). -/
def treeFold {α : Type} (f : α → α → α) (z : α) : Nat → List α → α
  | 0, l => l.headD z
  | n + 1, l => treeFold f z n (pairUp f l)

/-- The product with a weight; an unloaded one gives +0 (R113). -/
def Num.mulLoaded (x : Num) (y : Option Num) : Num := (y.map (Num.mul x)).getD (.fin false 0 0)

/-- The tile total of a row of A and a column of B in codes 0 to 4 (R113): blocks of 64, then the tree. -/
def dotFloat (levels : Nat) (a : List Num) (b : List (Option Num)) : Nat :=
  let p := List.zipWith Num.mulLoaded a b
  let rec blocks : Nat → List Num → List Nat
    | 0, _ => []
    | n + 1, l => rne32 (sumExact (l.take 64)) :: blocks n (l.drop 64)
  treeFold add32 0 levels (blocks (2 ^ levels) p)

end Sys2Proof.Machine
end

