-- ==== Sys2Proof/Machine/Vector.lean ====
section
/-! DEFINITION. The vector and special-function classes (R119 to R141, R303): one meaning for each instruction. -/

namespace Sys2Proof.Machine

/-! ## Lane-wise helpers -/

def map1 (f : W32 → W32) (a : Lanes) : Lanes := lanesOf fun l => f (lane a l)
def map2 (f : W32 → W32 → W32) (a b : Lanes) : Lanes := lanesOf fun l => f (lane a l) (lane b l)
def map3 (f : W32 → W32 → W32 → W32) (a b c : Lanes) : Lanes := lanesOf fun l => f (lane a l) (lane b l) (lane c l)

/-- Whether some lane of a mask satisfies p. -/
def anyLane (m : LaneMask) (p : Nat → Bool) : Bool := (List.range 128).any fun l => m.getLsbD l && p l

/-- Tag of a vector slot; the lane group is put in at landing (R311). -/
def State.vecTag (s : State) (op fmt : Nat) : Tag := mkTag 2 s.core.ctx.unit op fmt

/-- Two further cycles of an interlocked operation that involves a subnormal: of a source in an active lane, or of the
result (R86). -/
def subExtra (x : Ctx) (am : LaneMask) (F : Fmt) (vs : List Lanes) : Nat :=
  if x.interlocked && anyLane am (fun l => vs.any (fun v => F.subnormal (lane v l).toNat)) then 2 else 0

/-- A vector-type slot: squashed without an active lane (R78), its capability bits (R122), its effect on the active
lanes. -/
def State.vec (s : State) (g : Gate) (m : Fin 8) (cap : W32) (eff : LaneMask → State → State) : Host.Outcome State Fault Refusal :=
  let am := s.core.ctx.active g m
  s.plain (am == 0) (cap ||| laneNeed (s.core.ctx.rgm m)) (eff am)

/-- A vector slot whose result is one register, bits as computed (R123). -/
def State.vecMove (s : State) (g : Gate) (m : Fin 8) (cap : W32) (op fmt : Nat) (d : Fin 32) (L : Nat) (f : Ctx → Lanes) :
    Host.Outcome State Fault Refusal :=
  s.vec g m cap fun am s => s.landV L d.val am (f s.core.ctx) (s.vecTag op fmt)

/-- A floating-point vector slot (R105, R109, R122, R124): result and sources give the cycles of a subnormal. -/
def State.vecFloat (s : State) (g : Gate) (m : Fin 8) (f : FFmt) (op : Nat) (d : Fin 32) (srcs : Ctx → List Lanes)
    (h : Fmt → Bool → Ctx → Lanes) : Host.Outcome State Fault Refusal :=
  s.vec g m (FFmt.cap f) fun am s =>
    let x := s.core.ctx
    let F := FFmt.fmt f
    let r := h F x.flushes x
    s.landV (4 + subExtra x am F (r :: srcs x)) d.val am r (s.vecTag op f.code)

/-- An integer vector slot (R129 to R132). -/
def State.vecInt (s : State) (g : Gate) (m : Fin 8) (f : IFmt) (op : Nat) (d : Fin 32) (L : Nat) (h : Ctx → Lanes) :
    Host.Outcome State Fault Refusal :=
  s.vecMove g m (capBit 18) op f.code d L h

/-- Random bits of lane l: the draw numbered by the active lanes before it (R302). -/
def drawAt (s : State) (am : LaneMask) (l : Nat) : W32 := Config.maskBits (s.draws + popCount l am.toNat)

/-- The generator after one draw for each active lane. -/
def State.drew (am : LaneMask) (s : State) : State := { s with draws := s.draws + popCount 128 am.toNat }

/-! ## Values (R105 to R112, R125, R134) -/

/-- The greater or lesser of two patterns; a NaN gives the canonical NaN (R125). -/
def Fmt.maxPat (F : Fmt) (a b : Nat) : Nat :=
  let x := F.decode a
  let y := F.decode b
  if x.isNan || y.isNan then F.nanBits else if x.lt y then b else a

def Fmt.minPat (F : Fmt) (a b : Nat) : Nat :=
  let x := F.decode a
  let y := F.decode b
  if x.isNan || y.isNan then F.nanBits else if y.lt x then b else a

/-- One sum rounded to nearest even in the format. -/
def Fmt.addPat (F : Fmt) (a b : Nat) : Nat := F.round .rn false (Num.add .rn (F.decode a) (F.decode b))

/-- Class bits of fclass, bit 0 NaN to bit 4 normal (R128). -/
def Fmt.classOf (F : Fmt) (w : Nat) : BitVec 5 :=
  match F.decode w with
  | .nan => 1
  | .inf _ => 2
  | .fin _ 0 _ => 4
  | .fin _ _ _ => if F.subnormal w then 8 else 16

/-- Least and greatest value of an integer format. -/
def ifmtLo : IFmt → Int
  | .i32 => -2147483648
  | .n32 => 0

def ifmtHi : IFmt → Int
  | .i32 => 2147483647
  | .n32 => 4294967295

/-- A lane as a number of the format. -/
def ifmtVal (f : IFmt) (w : W32) : Int :=
  match f with
  | .i32 => w.toInt
  | .n32 => w.toNat

/-- iadd and isub: modulo 2^32, or clamped (R129). -/
def satOr (f : IFmt) (sat : Bool) (i : Int) : W32 := BitVec.ofInt 32 (if sat then clampInt (ifmtLo f) (ifmtHi f) i else i)

/-- Identity, node and flushing of a reduction on patterns (R134). -/
def redIdentity : RedOp → Nat
  | .fadd f => (FFmt.fmt f).sign true 0
  | .fmax f => (FFmt.fmt f).sign true (FFmt.fmt f).infBits
  | .fmin f => (FFmt.fmt f).infBits
  | .iadd _ => 0
  | .imax f => (BitVec.ofInt 32 (ifmtLo f)).toNat
  | .imin f => (BitVec.ofInt 32 (ifmtHi f)).toNat

def redNode (o : RedOp) (a b : Nat) : Nat :=
  match o with
  | .fadd f => (FFmt.fmt f).addPat a b
  | .fmax f => (FFmt.fmt f).maxPat a b
  | .fmin f => (FFmt.fmt f).minPat a b
  | .iadd _ => (a + b) % 2 ^ 32
  | .imax f => if ifmtVal f (BitVec.ofNat 32 a) < ifmtVal f (BitVec.ofNat 32 b) then b else a
  | .imin f => if ifmtVal f (BitVec.ofNat 32 b) < ifmtVal f (BitVec.ofNat 32 a) then b else a

def redFloat : RedOp → Option FFmt
  | .fadd f => some f
  | .fmax f => some f
  | .fmin f => some f
  | _ => none

def redFlush (o : RedOp) (fl : Bool) (w : Nat) : Nat :=
  match redFloat o with
  | some f => (FFmt.fmt f).flush fl w
  | none => w

/-- The reduction of lane group k. -/
def redGroup (o : RedOp) (fl : Bool) (am : LaneMask) (a : Lanes) (k : Nat) : W32 :=
  BitVec.ofNat 32 (redFlush o fl (treeFold (redNode o) 0 4 ((List.range 16).map fun j =>
    if am.getLsbD (16 * k + j) then redFlush o fl (lane a (16 * k + j)).toNat else redIdentity o)))

/-! ### Conversions (R47, R110, R111) -/

def cvtFmt : CvtTy → Option Fmt
  | .f32 => some Fmt.f32
  | .bf16 => some Fmt.bf16
  | .f16 => some Fmt.f16
  | .e4m3 => some Fmt.e4m3
  | .e5m2 => some Fmt.e5m2
  | _ => none

/-- FP32, BF16 and FP16, which alone are flushed (R109). -/
def cvtFlushes : CvtTy → Option Fmt
  | .f32 => some Fmt.f32
  | .bf16 => some Fmt.bf16
  | .f16 => some Fmt.f16
  | _ => none

/-- Bounds of an integer type; those of i32 for a floating-point type, where they are not used. -/
def cvtLo : CvtTy → Int
  | .n32 => 0
  | .int8 => -128
  | .int4 => -8
  | _ => -2147483648

def cvtHi : CvtTy → Int
  | .n32 => 4294967295
  | .int8 => 127
  | .int4 => 7
  | _ => 2147483647

/-- An integer source lane (R102, R136). -/
def cvtIntVal (t : CvtTy) (w : W32) : Int :=
  match t with
  | .n32 => w.toNat
  | .int8 => (w.setWidth 8).toInt
  | .int4 => (w.setWidth 4).toInt
  | _ => w.toInt

/-- The low bits of an integer kept and sign-extended for signed types (R111). -/
def cvtWrap (t : CvtTy) (i : Int) : W32 :=
  match t with
  | .int8 => (BitVec.ofInt 8 i).signExtend 32
  | .int4 => (BitVec.ofInt 4 i).signExtend 32
  | _ => BitVec.ofInt 32 i

/-- Random bits of a stochastic conversion: 3 for the FP8 destinations, else 4 (R108). -/
def srBits : CvtTy → Nat
  | .e4m3 => 3
  | .e5m2 => 3
  | _ => 4

/-- A value rounded into a floating-point type. -/
def cvtRound (F : Fmt) (t : CvtTy) (sat sr : Bool) (r : Rnd) (k : W32) (x : Num) : Nat :=
  if sr then F.roundSr (srBits t) (k.toNat % 2 ^ srBits t) sat x else F.round r sat x

/-- A value rounded to an integer, unbounded: NaN gives 0 (R111). -/
def numToInt (sr : Bool) (r : Rnd) (k : W32) : Num → Int
  | .fin s m e => if sr then roundIntSr 4 (k.toNat % 16) s m e else roundInt r s m e
  | _ => 0

/-- A value of an integer type nearest to it: infinities give the bounds. -/
def numToBounded (lo hi : Int) (off : Int) (sr : Bool) (r : Rnd) (k : W32) (x : Num) : Int :=
  match x with
  | .inf s => if s then lo else hi
  | x => clampInt lo hi (numToInt sr r k x + off)

/-- One lane of cvt (R136). -/
def cvtLane (dt st : CvtTy) (sat sr : Bool) (r : Rnd) (fl : Bool) (k w : W32) : W32 :=
  let src : Option Num := (cvtFmt st).map fun F => F.decode (if (cvtFlushes st).isSome then F.flush fl w.toNat else w.toNat)
  match cvtFmt dt, src with
  | some F, some x => BitVec.ofNat 32 (F.flush (fl && (cvtFlushes dt).isSome) (cvtRound F dt sat sr r k x))
  | some F, none => BitVec.ofNat 32 (F.flush (fl && (cvtFlushes dt).isSome) (cvtRound F dt sat sr r k (.ofInt false (cvtIntVal st w) 0)))
  | none, some x => cvtWrap dt (numToBounded (cvtLo dt) (cvtHi dt) 0 sr r k x)
  | none, none => cvtWrap dt (if sat then clampInt (cvtLo dt) (cvtHi dt) (cvtIntVal st w) else cvtIntVal st w)

/-- Whether the lane is a subnormal of the type, for the cycles of R86. -/
def cvtSub (t : CvtTy) (w : W32) : Bool := ((cvtFlushes t).map (fun F => F.subnormal w.toNat)).getD false

/-- Scale and zero point of a group parameter word (R112). -/
def gpScale (w : W32) : Num := Fmt.f16.decode w.toNat
def gpZero (w : W32) : Int := ((w >>> 16).setWidth 8).toInt

/-- One lane of qnt (R137). -/
def qntLane (dt : CvtTy) (sr : Bool) (r : Rnd) (fl : Bool) (k w p : W32) : W32 :=
  cvtWrap dt (numToBounded (cvtLo dt) (cvtHi dt) (gpZero p) sr r k (Num.div (Fmt.f32.val fl w) (gpScale p)))

/-- One lane of dqnt (R137). -/
def dqntLane (sr : Bool) (r : Rnd) (fl : Bool) (k w p : W32) : W32 :=
  BitVec.ofNat 32 (Fmt.f32.flush fl (cvtRound Fmt.f32 .f32 false sr r k (Num.mul (gpScale p) (.ofInt false (w.toInt - gpZero p) 0))))

/-- A conversion slot: one draw for each active lane when it rounds stochastically. -/
def State.vecCvt (s : State) (g : Gate) (m : Fin 8) (op : Nat) (d : Fin 32) (sr : Bool)
    (sub : Ctx → Lanes → Nat → Bool) (f : State → LaneMask → Lanes) : Host.Outcome State Fault Refusal :=
  s.vec g m (capBit 19) fun am s =>
    let x := s.core.ctx
    let r := f s am
    let L := 3 + (if x.interlocked && anyLane am (sub x r) then 2 else 0)
    let t := s.landV L d.val am r (s.vecTag op 0)
    if sr then t.drew am else t

/-- Element width in bits (R138). -/
def packBits : PackW → Nat
  | .h16 => 16
  | .b8 => 8
  | .n4 => 4

/-! ## Floating point (R124 to R128) -/

/-- R124. -/
def execFadd (g : Gate) (m : Fin 8) (f : FFmt) (d a b : Fin 32) (r : Rnd) (s : State) : Host.Outcome State Fault Refusal :=
  s.vecFloat g m f 0 d (fun x => [x.rv a.val, x.rv b.val]) fun F fl x =>
    map2 (fun a b => F.out fl r (Num.add r (F.val fl a) (F.val fl b))) (x.rv a.val) (x.rv b.val)

/-- R124. -/
def execFsub (g : Gate) (m : Fin 8) (f : FFmt) (d a b : Fin 32) (r : Rnd) (s : State) : Host.Outcome State Fault Refusal :=
  s.vecFloat g m f 1 d (fun x => [x.rv a.val, x.rv b.val]) fun F fl x =>
    map2 (fun a b => F.out fl r (Num.add r (F.val fl a) (F.val fl b).neg)) (x.rv a.val) (x.rv b.val)

/-- R124. -/
def execFmul (g : Gate) (m : Fin 8) (f : FFmt) (d a b : Fin 32) (r : Rnd) (s : State) : Host.Outcome State Fault Refusal :=
  s.vecFloat g m f 2 d (fun x => [x.rv a.val, x.rv b.val]) fun F fl x =>
    map2 (fun a b => F.out fl r (Num.mul (F.val fl a) (F.val fl b))) (x.rv a.val) (x.rv b.val)

/-- R124. -/
def execFma (g : Gate) (m : Fin 8) (f : FFmt) (d a b : Fin 32) (r : Rnd) (s : State) : Host.Outcome State Fault Refusal :=
  s.vecFloat g m f 3 d (fun x => [x.rv d.val, x.rv a.val, x.rv b.val]) fun F fl x =>
    map3 (fun a b c => F.out fl r (Num.add r (Num.mul (F.val fl a) (F.val fl b)) (F.val fl c))) (x.rv a.val) (x.rv b.val) (x.rv d.val)

/-- R124. -/
def execFms (g : Gate) (m : Fin 8) (f : FFmt) (d a b : Fin 32) (r : Rnd) (s : State) : Host.Outcome State Fault Refusal :=
  s.vecFloat g m f 4 d (fun x => [x.rv d.val, x.rv a.val, x.rv b.val]) fun F fl x =>
    map3 (fun a b c => F.out fl r (Num.add r (Num.mul (F.val fl a) (F.val fl b)) (F.val fl c).neg)) (x.rv a.val) (x.rv b.val) (x.rv d.val)

/-- R124. -/
def execFnma (g : Gate) (m : Fin 8) (f : FFmt) (d a b : Fin 32) (r : Rnd) (s : State) : Host.Outcome State Fault Refusal :=
  s.vecFloat g m f 5 d (fun x => [x.rv d.val, x.rv a.val, x.rv b.val]) fun F fl x =>
    map3 (fun a b c => F.out fl r (Num.add r (Num.mul (F.val fl a) (F.val fl b)).neg (F.val fl c))) (x.rv a.val) (x.rv b.val) (x.rv d.val)

/-- R125. -/
def execFmin (g : Gate) (m : Fin 8) (f : FFmt) (d a b : Fin 32) (s : State) : Host.Outcome State Fault Refusal :=
  s.vecFloat g m f 6 d (fun x => [x.rv a.val, x.rv b.val]) fun F fl x =>
    map2 (fun a b => BitVec.ofNat 32 (F.minPat (F.flush fl a.toNat) (F.flush fl b.toNat))) (x.rv a.val) (x.rv b.val)

/-- R125. -/
def execFmax (g : Gate) (m : Fin 8) (f : FFmt) (d a b : Fin 32) (s : State) : Host.Outcome State Fault Refusal :=
  s.vecFloat g m f 7 d (fun x => [x.rv a.val, x.rv b.val]) fun F fl x =>
    map2 (fun a b => BitVec.ofNat 32 (F.maxPat (F.flush fl a.toNat) (F.flush fl b.toNat))) (x.rv a.val) (x.rv b.val)

/-- R126. -/
def execFneg (g : Gate) (m : Fin 8) (f : FFmt) (d a : Fin 32) (s : State) : Host.Outcome State Fault Refusal :=
  s.vecFloat g m f 8 d (fun x => [x.rv a.val]) fun F fl x =>
    map1 (fun a => BitVec.ofNat 32 (F.flush fl a.toNat ^^^ F.sign true 0)) (x.rv a.val)

/-- R126. -/
def execFabs (g : Gate) (m : Fin 8) (f : FFmt) (d a : Fin 32) (s : State) : Host.Outcome State Fault Refusal :=
  s.vecFloat g m f 9 d (fun x => [x.rv a.val]) fun F fl x =>
    map1 (fun a => BitVec.ofNat 32 (F.flush fl a.toNat % F.sign true 0)) (x.rv a.val)

/-- R127. -/
def execFcmp (g : Gate) (m : Fin 8) (f : FFmt) (p a b : Fin 32) (c : FCond) (s : State) : Host.Outcome State Fault Refusal :=
  s.vec g m (FFmt.cap f) fun am s =>
    let x := s.core.ctx
    let F := FFmt.fmt f
    s.landP (4 + subExtra x am F [x.rv a.val, x.rv b.val]) p am
      (maskOf fun l => FCond.holds c (F.val x.flushes (lane (x.rv a.val) l)) (F.val x.flushes (lane (x.rv b.val) l)))
      (s.vecTag 10 f.code)

/-- R128. -/
def execFclass (g : Gate) (m : Fin 8) (f : FFmt) (p a : Fin 32) (k : BitVec 5) (s : State) : Host.Outcome State Fault Refusal :=
  s.vec g m (FFmt.cap f) fun am s =>
    let x := s.core.ctx
    let F := FFmt.fmt f
    s.landP (2 + subExtra x am F [x.rv a.val]) p am
      (maskOf fun l => k &&& F.classOf (F.flush x.flushes (lane (x.rv a.val) l).toNat) != 0)
      (s.vecTag 11 f.code)

/-! ## Integers (R129 to R132) -/

/-- R129. -/
def execIadd (g : Gate) (m : Fin 8) (f : IFmt) (d a b : Fin 32) (sat : Bool) (s : State) : Host.Outcome State Fault Refusal :=
  s.vecInt g m f 12 d 2 fun x => map2 (fun a b => satOr f sat (ifmtVal f a + ifmtVal f b)) (x.rv a.val) (x.rv b.val)

/-- R129. -/
def execIsub (g : Gate) (m : Fin 8) (f : IFmt) (d a b : Fin 32) (sat : Bool) (s : State) : Host.Outcome State Fault Refusal :=
  s.vecInt g m f 13 d 2 fun x => map2 (fun a b => satOr f sat (ifmtVal f a - ifmtVal f b)) (x.rv a.val) (x.rv b.val)

/-- R130. -/
def execImul (g : Gate) (m : Fin 8) (f : IFmt) (d a b : Fin 32) (s : State) : Host.Outcome State Fault Refusal :=
  s.vecInt g m f 14 d 3 fun x => map2 (fun a b => a * b) (x.rv a.val) (x.rv b.val)

/-- R130. -/
def execImulh (g : Gate) (m : Fin 8) (f : IFmt) (d a b : Fin 32) (s : State) : Host.Outcome State Fault Refusal :=
  s.vecInt g m f 15 d 3 fun x => map2 (fun a b => BitVec.ofInt 32 (ifmtVal f a * ifmtVal f b / 2 ^ 32)) (x.rv a.val) (x.rv b.val)

/-- R130. -/
def execIand (g : Gate) (m : Fin 8) (f : IFmt) (d a b : Fin 32) (s : State) : Host.Outcome State Fault Refusal :=
  s.vecInt g m f 16 d 2 fun x => map2 (fun a b => a &&& b) (x.rv a.val) (x.rv b.val)

/-- R130. -/
def execIor (g : Gate) (m : Fin 8) (f : IFmt) (d a b : Fin 32) (s : State) : Host.Outcome State Fault Refusal :=
  s.vecInt g m f 17 d 2 fun x => map2 (fun a b => a ||| b) (x.rv a.val) (x.rv b.val)

/-- R130. -/
def execIxor (g : Gate) (m : Fin 8) (f : IFmt) (d a b : Fin 32) (s : State) : Host.Outcome State Fault Refusal :=
  s.vecInt g m f 18 d 2 fun x => map2 (fun a b => a ^^^ b) (x.rv a.val) (x.rv b.val)

/-- R130. -/
def execIandn (g : Gate) (m : Fin 8) (f : IFmt) (d a b : Fin 32) (s : State) : Host.Outcome State Fault Refusal :=
  s.vecInt g m f 19 d 2 fun x => map2 (fun a b => a &&& ~~~b) (x.rv a.val) (x.rv b.val)

/-- R131. -/
def execIshl (g : Gate) (m : Fin 8) (f : IFmt) (d a b : Fin 32) (s : State) : Host.Outcome State Fault Refusal :=
  s.vecInt g m f 20 d 2 fun x => map2 (fun a b => a <<< (b.toNat % 32)) (x.rv a.val) (x.rv b.val)

/-- R131. -/
def execIshr (g : Gate) (m : Fin 8) (f : IFmt) (d a b : Fin 32) (s : State) : Host.Outcome State Fault Refusal :=
  s.vecInt g m f 21 d 2 fun x => map2 (fun a b => a >>> (b.toNat % 32)) (x.rv a.val) (x.rv b.val)

/-- R131. -/
def execIsar (g : Gate) (m : Fin 8) (f : IFmt) (d a b : Fin 32) (s : State) : Host.Outcome State Fault Refusal :=
  s.vecInt g m f 22 d 2 fun x => map2 (fun a b => a.sshiftRight (b.toNat % 32)) (x.rv a.val) (x.rv b.val)

/-- R132. -/
def execImin (g : Gate) (m : Fin 8) (f : IFmt) (d a b : Fin 32) (s : State) : Host.Outcome State Fault Refusal :=
  s.vecInt g m f 23 d 2 fun x => map2 (fun a b => if ifmtVal f b < ifmtVal f a then b else a) (x.rv a.val) (x.rv b.val)

/-- R132. -/
def execImax (g : Gate) (m : Fin 8) (f : IFmt) (d a b : Fin 32) (s : State) : Host.Outcome State Fault Refusal :=
  s.vecInt g m f 24 d 2 fun x => map2 (fun a b => if ifmtVal f a < ifmtVal f b then b else a) (x.rv a.val) (x.rv b.val)

/-- R131, the count in the slot. -/
def execIshlImm (g : Gate) (m : Fin 8) (f : IFmt) (d a : Fin 32) (i : BitVec 5) (s : State) : Host.Outcome State Fault Refusal :=
  s.vecInt g m f 20 d 2 fun x => map1 (fun a => a <<< i.toNat) (x.rv a.val)

/-- R131, the count in the slot. -/
def execIshrImm (g : Gate) (m : Fin 8) (f : IFmt) (d a : Fin 32) (i : BitVec 5) (s : State) : Host.Outcome State Fault Refusal :=
  s.vecInt g m f 21 d 2 fun x => map1 (fun a => a >>> i.toNat) (x.rv a.val)

/-- R131, the count in the slot. -/
def execIsarImm (g : Gate) (m : Fin 8) (f : IFmt) (d a : Fin 32) (i : BitVec 5) (s : State) : Host.Outcome State Fault Refusal :=
  s.vecInt g m f 22 d 2 fun x => map1 (fun a => a.sshiftRight i.toNat) (x.rv a.val)

/-- R132. -/
def execIcmp (g : Gate) (m : Fin 8) (f : IFmt) (p a b : Fin 32) (c : ICond) (s : State) : Host.Outcome State Fault Refusal :=
  s.vec g m (capBit 18) fun am s =>
    let x := s.core.ctx
    s.landP 2 p am (maskOf fun l => icondHolds c f (lane (x.rv a.val) l) (lane (x.rv b.val) l)) (s.vecTag 25 f.code)

/-! ## Moves (R133 to R135) -/

/-- R133. -/
def execVmov (g : Gate) (m : Fin 8) (d a : Fin 32) (s : State) : Host.Outcome State Fault Refusal :=
  s.vecMove g m 0 26 0 d 2 fun x => x.rv a.val

/-- R133. The lend word selects; all lanes of the selected lane groups are active. -/
def execVsel (g : Gate) (m : Fin 8) (d a b : Fin 32) (s : State) : Host.Outcome State Fault Refusal :=
  let am := groupLanes (s.core.ctx.rgm m)
  s.plain (am == 0) (laneNeed (s.core.ctx.rgm m)) fun s =>
    let x := s.core.ctx
    s.landV 2 d.val am (mergeLanes (x.gateLanes g) (x.rv a.val) (x.rv b.val)) (s.vecTag 27 0)

/-- R133. -/
def execVbcast (g : Gate) (m : Fin 8) (d : Fin 32) (a : Fin 64) (hi : Bool) (s : State) : Host.Outcome State Fault Refusal :=
  s.vecMove g m 0 28 0 d 2 fun x =>
    let v : W32 := if hi then (x.rs a >>> 32).setWidth 32 else (x.rs a).setWidth 32
    lanesOf fun _ => v

/-- R133. -/
def execVlane (g : Gate) (m : Fin 8) (d a : Fin 32) (k : Fin 16) (s : State) : Host.Outcome State Fault Refusal :=
  s.vecMove g m 0 29 0 d 4 fun x => lanesOf fun l => lane (x.rv a.val) (l / 16 * 16 + k.val)

/-- R133. -/
def execVidx (g : Gate) (m : Fin 8) (d : Fin 32) (s : State) : Host.Outcome State Fault Refusal :=
  s.vecMove g m 0 30 0 d 2 fun _ => lanesOf fun l => BitVec.ofNat 32 l

/-- R133. -/
def execVperm (g : Gate) (m : Fin 8) (d a b : Fin 32) (s : State) : Host.Outcome State Fault Refusal :=
  s.vecMove g m 0 31 0 d 4 fun x => lanesOf fun l => lane (x.rv a.val) (l / 16 * 16 + (lane (x.rv b.val) l).toNat % 16)

/-- R133. -/
def execVimm (g : Gate) (m : Fin 8) (hi : Bool) (d : Fin 32) (i : BitVec 14) (s : State) : Host.Outcome State Fault Refusal :=
  s.vecMove g m 0 42 hi.toNat d 2 fun _ =>
    lanesOf fun _ => if hi then (i.setWidth 32) <<< 18 else i.signExtend 32

/-- R134. -/
def execVred (g : Gate) (m : Fin 8) (o : RedOp) (d a : Fin 32) (s : State) : Host.Outcome State Fault Refusal :=
  s.vec g m (match redFloat o with | some f => FFmt.cap f | none => capBit 18) fun am s =>
    let x := s.core.ctx
    let gs := (List.range 8).map (redGroup o x.flushes am (x.rv a.val))
    let r := lanesOf fun l => gs[l / 16]?.getD 0
    let e := match redFloat o with
      | some f => subExtra x am (FFmt.fmt f) [x.rv a.val, r]
      | none => 0
    s.landV (6 + e) d.val am r (s.vecTag 32 o.fmtCode)

/-- R135. The source lane group's capability bit is needed too. -/
def execXg (g : Gate) (m : Fin 8) (d a : Fin 32) (k : Fin 8) (s : State) : Host.Outcome State Fault Refusal :=
  s.vecMove g m (capBit (8 + k.val)) 33 0 d 4 fun x => lanesOf fun l => lane (x.rv a.val) (16 * k.val + l % 16)

/-! ## Conversions (R136 to R138) -/

/-- R136. -/
def execCvt (g : Gate) (m : Fin 8) (dt st : CvtTy) (d a : Fin 32) (sat sr : Bool) (r : Rnd) (s : State) : Host.Outcome State Fault Refusal :=
  s.vecCvt g m 34 d sr (fun x v l => cvtSub st (lane (x.rv a.val) l) || cvtSub dt (lane v l)) fun s am =>
    lanesOf fun l => cvtLane dt st sat sr r s.core.ctx.flushes (if sr then drawAt s am l else 0) (lane (s.core.ctx.rv a.val) l)

/-- R137. -/
def execQnt (g : Gate) (m : Fin 8) (dt st : CvtTy) (d a : Fin 32) (_sat sr : Bool) (r : Rnd) (s : State) : Host.Outcome State Fault Refusal :=
  s.vecCvt g m 35 d sr
    (fun x _ l => cvtSub st (lane (x.rv a.val) l) || cvtSub .f16 (lane (x.rv (a.val + 1)) l)) fun s am =>
    lanesOf fun l => qntLane dt sr r s.core.ctx.flushes (if sr then drawAt s am l else 0) (lane (s.core.ctx.rv a.val) l)
      (lane (s.core.ctx.rv (a.val + 1)) l)

/-- R137. -/
def execDqnt (g : Gate) (m : Fin 8) (dt _st : CvtTy) (d a : Fin 32) (_sat sr : Bool) (r : Rnd) (s : State) : Host.Outcome State Fault Refusal :=
  s.vecCvt g m 36 d sr
    (fun x v l => cvtSub .f16 (lane (x.rv (a.val + 1)) l) || cvtSub dt (lane v l)) fun s am =>
    lanesOf fun l => dqntLane sr r s.core.ctx.flushes (if sr then drawAt s am l else 0) (lane (s.core.ctx.rv a.val) l)
      (lane (s.core.ctx.rv (a.val + 1)) l)

/-- R138. -/
def execPack (g : Gate) (m : Fin 8) (w : PackW) (d a : Fin 32) (k : Fin 8) (s : State) : Host.Outcome State Fault Refusal :=
  s.vecMove g m (capBit 19) 37 w.code d 3 fun x =>
    let n := packBits w
    let mask : W32 := BitVec.ofNat 32 (2 ^ n - 1)
    map2 (fun a d => (d &&& ~~~(mask <<< (n * k.val))) ||| ((a &&& mask) <<< (n * k.val))) (x.rv a.val) (x.rv d.val)

/-- R138. -/
def execUnpack (g : Gate) (m : Fin 8) (w : PackW) (d a : Fin 32) (k : Fin 8) (sx : Bool) (s : State) : Host.Outcome State Fault Refusal :=
  s.vecMove g m (capBit 19) 38 w.code d 3 fun x =>
    let n := packBits w
    map1 (fun a =>
      let e := a.toNat / 2 ^ (n * k.val) % 2 ^ n
      if sx then BitVec.ofInt 32 (sintOf n e) else BitVec.ofNat 32 e) (x.rv a.val)

/-! ## Skim bits and random draws (R139, R140, R303) -/

/-- R139. The skim bits of the active lanes 0 to 63. -/
def execVskim (g : Gate) (m : Fin 8) (p : Fin 32) (s : State) : Host.Outcome State Fault Refusal :=
  s.vec g m 0 fun am s =>
    if am.setWidth 64 = 0 then s else s.land 2 (.skim (am.setWidth 64) ((s.core.ctx.rp p).setWidth 64)) 0

/-- R303. -/
def execVbern (g : Gate) (m : Fin 8) (p : Fin 32) (a : Fin 64) (s : State) : Host.Outcome State Fault Refusal :=
  s.vec g m 0 fun am s =>
    let k := min (s.core.ctx.rs a).toNat 65536
    (s.landP 2 p am (maskOf fun l => (drawAt s am l).toNat % 65536 < k) (s.vecTag 40 0)).drew am

/-- R303. -/
def execVrand (g : Gate) (m : Fin 8) (d : Fin 32) (s : State) : Host.Outcome State Fault Refusal :=
  s.vec g m 0 fun am s => (s.landV 2 d.val am (lanesOf fun l => drawAt s am l) (s.vecTag 41 0)).drew am

/-! ## Special functions (R141) -/

/-- A special-function slot: the exact result rounded once to nearest even. -/
def State.sfun (s : State) (g : Gate) (m : Fin 8) (f : FFmt) (op L : Nat) (d : Fin 32) (h : Fmt → Bool → Ctx → Lanes) :
    Host.Outcome State Fault Refusal :=
  s.vec g m (capBit (20 + op)) fun am s =>
    s.landV L d.val am (h (FFmt.fmt f) s.core.ctx.flushes s.core.ctx) (mkTag 3 0 op f.code)

/-- R141. -/
def execFrcp (g : Gate) (m : Fin 8) (f : FFmt) (d a : Fin 32) (s : State) : Host.Outcome State Fault Refusal :=
  s.sfun g m f 0 12 d fun F fl x => map1 (fun a => F.out fl .rn (Num.div (.fin false 1 0) (F.val fl a))) (x.rv a.val)

/-- R141. -/
def execFsqrt (g : Gate) (m : Fin 8) (f : FFmt) (d a : Fin 32) (s : State) : Host.Outcome State Fault Refusal :=
  s.sfun g m f 2 12 d fun F fl x => map1 (fun a => F.out fl .rn ((F.val fl a).sqrt)) (x.rv a.val)

/-- R141. -/
def execFrsqrt (g : Gate) (m : Fin 8) (f : FFmt) (d a : Fin 32) (s : State) : Host.Outcome State Fault Refusal :=
  s.sfun g m f 3 12 d fun F fl x => map1 (fun a => F.out fl .rn ((F.val fl a).rsqrt)) (x.rv a.val)

/-- R141. -/
def execFexp2 (g : Gate) (m : Fin 8) (f : FFmt) (d a : Fin 32) (s : State) : Host.Outcome State Fault Refusal :=
  s.sfun g m f 4 12 d fun F fl x => map1 (fun a => F.out fl .rn ((F.val fl a).exp2)) (x.rv a.val)

/-- R141. -/
def execFlog2 (g : Gate) (m : Fin 8) (f : FFmt) (d a : Fin 32) (s : State) : Host.Outcome State Fault Refusal :=
  s.sfun g m f 5 12 d fun F fl x => map1 (fun a => F.out fl .rn ((F.val fl a).log2)) (x.rv a.val)

/-- R141. -/
def execFdiv (g : Gate) (m : Fin 8) (f : FFmt) (d a b : Fin 32) (s : State) : Host.Outcome State Fault Refusal :=
  s.sfun g m f 1 16 d fun F fl x => map2 (fun a b => F.out fl .rn (Num.div (F.val fl a) (F.val fl b))) (x.rv a.val) (x.rv b.val)

end Sys2Proof.Machine
end

