-- ==== Sys2Proof/Machine/Aggregate.lean ====
section
/-! DEFINITION. Aggregation groups, budgets and rounds (R118, R179, R289 to R301, R305): the two slots of the class and
the events of a round. The homes and members of other chips are events and free values. -/

namespace Sys2Proof.Machine

/-! ## Group entries (R289) -/

def State.group (s : State) (g : Nat) : Group := (s.hub.groups[g]?).getD Group.reset

def State.updGroup (g : Nat) (f : Group → Group) (s : State) : State := s.onHub fun h => { h with groups := vmod h.groups g f }

def Group.valid (g : Group) : Bool := g.w0.getLsbD 0
def Group.audit (g : Group) : Bool := g.w0.getLsbD 1
def Group.gen (g : Group) : Nat := g.w0.toNat / 2 ^ 2 % 64
def Group.q (g : Group) : Int := sintOf 7 (g.w0.toNat / 2 ^ 8)
def Group.texp (g : Group) : Nat := g.w0.toNat / 2 ^ 15 % 16
def Group.shift (g : Group) : Nat := g.w0.toNat / 2 ^ 19 % 32
def Group.elems (g : Group) : Nat := g.w0.toNat / 2 ^ 24 % 2 ^ 23
def Group.nmem (g : Group) : Nat := g.w0.toNat / 2 ^ 47 % 128
def Group.clip (g : Group) : Nat := g.w1.toNat % 2 ^ 32
def Group.home (g : Group) : Nat := g.w1.toNat / 2 ^ 32 % 2 ^ 12
def Group.hpart (g : Group) : Nat := g.w1.toNat / 2 ^ 44 % 16

/-- Owner, chip and partition of a member word. -/
def memberOwner (w : W32) : Nat := w.toNat % 256
def memberChip (w : W32) : Nat := w.toNat / 2 ^ 8 % 2 ^ 12
def memberPart (w : W32) : Nat := w.toNat / 2 ^ 20 % 16

/-- Member words in use. -/
def Group.members (g : Group) : List W32 := g.mem.toList.take g.nmem

/-- This chip's number. -/
def State.chipId (s : State) : Nat := s.hub.chipid.toNat % 2 ^ 12

/-- R290. CRC-32C over the two configuration words and the member words in use, each little-endian (R101). -/
def Group.check (g : Group) : W32 :=
  crc32c (leBytes 8 g.w0.toNat ++ leBytes 8 g.w1.toNat ++ g.members.flatMap fun w => leBytes 4 w.toNat)

/-- A partition's owner register (R83). -/
def State.ownerReg (s : State) (n : Nat) : Word := BitVec.ofNat 64 (match (s.partAt n).owner with
  | none => 0
  | some o => 256 + o)

/-- Index of a partition among a group's members (R296 step 2). -/
def State.memberIdx (s : State) (n g : Nat) : Option Nat :=
  let e := s.group g
  match (s.partAt n).owner with
  | none => none
  | some o =>
    if e.valid then e.members.findIdx? fun w => memberOwner w == o && memberChip w == s.chipId && memberPart w == n else none

/-- Cost of one use (R292). -/
def Group.cost (g : Group) : Nat :=
  let k2 := g.clip * g.clip
  let e : Int := 33 - (g.texp : Int) - 2 * (g.shift : Int)
  min (if 0 ≤ e then k2 * 2 ^ e.toNat else ceilDiv k2 (2 ^ (-e).toNat)) (2 ^ 64 - 1)

/-- A partition's round counter of a group (R293). -/
def State.roundOf (s : State) (n g : Nat) : Nat := (((s.partAt n).rounds.find? fun r => r.1 == g).map (·.2)).getD 0

/-- Budget register of an owner (R291). -/
def State.budget (s : State) (o : Nat) : Word := (s.hub.budgets[o]?).getD 0

/-! ## The contribution (R118, R295, R297) -/

/-- Bytes of a contribution element, and of a result element. -/
def contribBytes (cf : Nat) : Nat :=
  match cf with
  | 0 => 1
  | 1 => 1
  | 4 => 4
  | _ => 2

def resultBytes (rf : Nat) : Nat :=
  match rf with
  | 0 => 4
  | 1 => 2
  | _ => 8

def contribFmt (cf : Nat) : Fmt :=
  match cf with
  | 0 => Fmt.e4m3
  | 1 => Fmt.e5m2
  | 2 => Fmt.bf16
  | 3 => Fmt.f16
  | _ => Fmt.f32

/-- Grid conversion in: the integer, whether it was a NaN, whether it saturated. -/
def gridIn (q : Int) : Num → Int × Bool × Bool
  | .nan => (0, true, false)
  | .inf s => (signed s (2 ^ 31 - 1), false, true)
  | .fin s m e =>
    let a := roundInt .rn s m (e + q)
    let c := clampInt (-(2 ^ 31 - 1)) (2 ^ 31 - 1) a
    (c, false, c != a)

/-- The clip to norm K: the values, and whether they were scaled. -/
def clipTo (k : Nat) (a : List Int) : List Int × Bool :=
  let sq := (a.map fun x => (x * x).toNat).foldl (· + ·) 0
  if sq ≤ k * k then (a, false)
  else
    let r := isqrt sq
    let u := r + (if r * r = sq then 0 else 1)
    let f := k * 2 ^ 32 / u
    (a.map fun x => signed (decide (x < 0)) (x.natAbs * f / 2 ^ 32), true)

/-- A result integer in the result format: its pattern, and whether it saturated. -/
def gridOut (rf : Nat) (q y : Int) : Nat × Bool :=
  let x := Num.fin (decide (y < 0)) y.natAbs (-q)
  let F := if rf = 0 then Fmt.f32 else Fmt.bf16
  if 2 ≤ rf then ((BitVec.ofInt 64 y).toNat, false)
  else (F.round .rn true x, F.round .rn true x != F.round .rn false x)

/-! ## agg (R295, R296) -/

/-- The number of the first invalid word of ag.0. -/
def aggBadWord (w : Words) : Option Nat :=
  (List.range 8).find? fun i => match i with
    | 0 => !zeroAbove 45 (w 0)
    | 1 => !zeroAbove 45 (w 1)
    | 2 => !(zeroAbove 6 (w 2) && !(w 2).getLsbD 3 && decide ((w 2).toNat % 8 ≤ 4) && (w 2).toNat / 16 % 4 != 3)
    | 3 => !zeroAbove 3 (w 3)
    | n => w n != 0

/-- The two footprints. -/
def aggSides (n : Nat) (w : Words) : List (Bool × AddrReg × List (Int × Nat)) :=
  let side := fun (wr : Bool) (a : AddrReg) (len : Nat) => (wr, a, [((a.offset.toNat : Int), len)])
  [side false (addrOf (w 0)) (n * contribBytes ((w 2).toNat % 8)),
   side true (addrOf (w 1)) (64 + n * resultBytes ((w 2).toNat / 16 % 4))]

/-- Trowels of the issuing context that cover a footprint. -/
def State.covering (s : State) (a : AddrReg) (len : Nat) : List Nat :=
  let x := s.core.ctx
  let locs := (granuleStarts a.space.toNat a.offset.toNat len).map fun o => s.locOf s.core x a.space.toNat a.index.toNat o
  (List.range 64).filter fun t =>
    let e := s.entry t
    e.kind == 1 && e.state == 0 && e.ctx == x.id && locs.any fun l => entryCovers e l.1 l.2

def State.aggFault (s : State) (code g : Nat) (a0 a1 : Word) : ErrRecord := s.faultOf code 0 g a0 a1 none

def State.aggCheck (s : State) (g : Nat) (w : Words) : Verdict :=
  let n := s.core.partNo
  let e := s.group g
  let sides := aggSides e.elems w
  (Verdict.require (s.memberIdx n g).isSome (s.aggFault 0x0905 g (s.ownerReg n) 0)).andThen fun _ =>
  (match s.core.ctx.agg with
   | none => Verdict.go
   | some a => Verdict.trap (s.aggFault 0x0906 g 0 (BitVec.ofNat 64 a.round))).andThen fun _ =>
  (match aggBadWord w with
   | some i => Verdict.trap (s.aggFault 0x0904 g (BitVec.ofNat 64 i) 0)
   | none => Verdict.require (s.maskOf 18 != 0) (s.aggFault 0x0904 g 8 0)).andThen fun _ =>
  (firstOf (sides.map fun (d : Bool × AddrReg × List (Int × Nat)) => Verdict.require (d.2.1.space != 5)
    (s.placeFault 0x0601 16 0 5 d.2.1.index.toNat d.2.1.offset.toNat))).andThen fun _ =>
  (s.sidesCheck 16 false sides (fun a _ => a.offset.toNat % 64 == 0) .go).andThen fun _ =>
  match (s.covering (addrOf (w 0)) (e.elems * contribBytes ((w 2).toNat % 8))).find? (fun t => (s.entry t).swatch == 255) with
  | some t => .trap (s.trowelFault 0x050A (s.entry t) 0)
  | none => .go

/-- The member's engine: conversion and clip of the contribution as memory stands (R253). -/
def State.aggWork (s : State) (g : Nat) (w : Words) : AggWork :=
  let n := s.core.partNo
  let x := s.core.ctx
  let e := s.group g
  let cf := (w 2).toNat % 8
  let rf := (w 2).toNat / 16 % 4
  let src := addrOf (w 0)
  let res := addrOf (w 1)
  let cb := contribBytes cf
  let base := (s.spaceBase s.core x src.space.toNat src.index.toNat).getD 0 + src.offset.toNat
  let bytes := s.decrypted (s.keyOf src.space.toNat src.index.toNat) base (e.elems * cb)
  let conv := (List.range e.elems).map fun i => gridIn e.q ((contribFmt cf).decode (leVal ((bytes.drop (cb * i)).take cb)))
  let clip := clipTo e.clip (conv.map (·.1))
  { group := g, round := s.roundOf n g, gen := e.gen, crc := e.check, member := (s.memberIdx n g).getD 0, part := n
    who := some (s.core.phys, x.id), launch := x.cfg.launch, lcore := x.cfg.lcore
    values := clip.1, nan := conv.any (·.2.1), sat := conv.any (·.2.2), clipped := clip.2, rf := rf
    res := (s.spaceBase s.core x res.space.toNat res.index.toNat).getD 0 + res.offset.toNat
    rkey := s.keyOf res.space.toNat res.index.toNat, bundle := x.flow.bundle, scyc := s.scyc, issue := s.issueSeq
    resEntries := (s.covering res (64 + e.elems * resultBytes rf)).map s.entry
    srcEntries := (s.covering src (e.elems * cb)).map s.entry, released := false }

/-- Whether a context awaits the outcome of a contribution. -/
def Ctx.awaits (a : AggWork) (x : Ctx) : Bool := (x.agg.map (·.issue)) == some a.issue

/-- The place of the context that awaits a contribution's outcome, while it is on its core. -/
def State.aggIssuer (s : State) (a : AggWork) : Option (Nat × Nat) := a.who.filter fun w => (s.ctxAt w.1 w.2).awaits a

/-- Change the context that awaits a contribution's outcome, a saved one too (R224). -/
def State.onIssuer (a : AggWork) (f : Ctx → Ctx) (s : State) : State :=
  let g := fun (x : Ctx) => if x.awaits a then f x else x
  { (s.mapCores (Core.mapCtx g)) with saved := s.saved.map fun v => { v with rest := g v.rest, unit := v.unit.mapCtx g } }

/-- A record about a contribution: it names the context that issued it, whatever runs there now. -/
def State.aggRecord (s : State) (a : AggWork) (code sev : Nat) (a0 a1 : Word) (addr : Option (Nat × Nat × Nat)) : ErrRecord :=
  let w := a.who.getD (0, 0)
  { s.record w.1 w.2 code sev 16 a.group a0 a1 addr with
    bundle := a.bundle, scyc := a.scyc, part := some a.part, owner := (s.partAt a.part).owner, who := some (w.1, a.lcore, w.2) }

/-- A trap to come after an agg, with the record it goes by (R299), for the context that awaits its outcome, saved or not; a context
that its launch has left behind is no more. -/
def State.aggTrap (a : AggWork) (code : Nat) (a0 a1 : Word) (addr : Option (Nat × Nat × Nat)) (s : State) : State :=
  let r := s.aggRecord a code 3 a0 a1 addr
  let s := s.addRecord r
  match s.aggIssuer a with
  | none => s.onIssuer a (Ctx.doomed r)
  | some w => if code = 0x0901 then s.trapNow w.1 w.2 r else s.doom w.1 w.2 r

/-- R296. A commit point. A contribution that fails its carry check makes the member absent (R297). Contributions of a partition
take its cycles of resource 18 one after another. -/
def execAgg (g : Gate) (n : Fin 64) (s : State) : Host.Outcome State Fault Refusal :=
  let w := s.core.ctx.stagedSet 4 0
  s.slot (!s.core.ctx.gate0 g) (capBit 30) (fun s => s.aggCheck n.val w)
    fun s =>
      let e := s.group n.val
      let a := s.aggWork n.val w
      let src := addrOf (w 0)
      let base := (s.spaceBase s.core s.core.ctx src.space.toNat src.index.toNat).getD 0 + src.offset.toNat
      let bytes := e.elems * contribBytes ((w 2).toNat % 8)
      let done := ownedAt (s.maskOf 18) (max (s.now + s.sideFar src) (s.partAt a.part).aggAt) (ceilDiv e.elems 64)
      let run : AggRun :=
        { group := n.val, round := a.round, ac := (w 3).toNat % 8, src := (base, bytes), readEnd := done
          res := (a.res, 64 + e.elems * resultBytes a.rf), issue := s.issueSeq }
      let s := s.onPart a.part fun q => { q with
        rounds := (n.val, a.round + 1) :: q.rounds.filter fun r => r.1 != n.val
        aggAt := done + 1 }
      let s := match s.failing (s.keyOf src.space.toNat src.index.toNat) base bytes with
        | t :: _ =>
          let r := s.aggRecord a 0x0C01 3 0 0 (some (s.placeFor t))
          (s.addRecord r).doom s.core.phys s.core.ctx.id r
        | [] =>
          ((s.onCtx fun x => { x with agg := some run }).post (.shares a.resEntries a.srcEntries)).schedule done phLand
            (.aggReachHome a)
      (s.post .commitPoint).engineStart

/-- The shares an agg takes, at its group's end (R179): in the entries, in the table's counts, and in what a rollback
would put back. -/
def State.takeShares (custody swatches : List TEntry) (s : State) : State :=
  let n := s.core.partNo
  let s : State := swatches.foldl (fun (t : State) e =>
    (t.updRec n e fun r => { r with swatch := r.swatch + 1 }).mapEntries n (fun f => f.kind == 1 && sameRegion f e)
      fun f => { f with swatch := f.swatch + 1 }) s
  custody.foldl (fun (t : State) e =>
    t.mapEntries n (fun f => f.kind == 1 && f.state == 0 && sameRegion f e) fun f => { f with state := 6 }) s

/-- Both kinds of share come back together, wherever the trowels are by then. -/
def State.returnShares (a : AggWork) (s : State) : State :=
  let s : State := a.srcEntries.foldl (fun (t : State) e => t.dropSwatch a.part e) s
  a.resEntries.foldl (fun (t : State) e =>
    t.mapEntries a.part (fun f => f.kind == 1 && f.state == 6 && sameRegion f e) fun f => { f with state := 0 }) s

/-! ## aggq (R300, R301) -/

/-- Group status word (R301). -/
def State.groupStatus (s : State) (n g : Nat) : Word :=
  let e := s.group g
  BitVec.ofNat 64 (e.w0.toNat % 2 ^ 8 + e.lastCount % 128 * 2 ^ 8 +
    (if e.closed != 0 && e.lastCount == 0 then 2 ^ 15 else 0) + (if e.lastTimeout then 2 ^ 16 else 0) +
    (if e.lastAudit then 2 ^ 17 else 0) + s.roundOf n g % 2 ^ 32 * 2 ^ 32)

/-- R300. The hub samples the value in the issue cycle. -/
def execAggq (g : Gate) (n d : Fin 64) (x : AggSel) (s : State) : Host.Outcome State Fault Refusal :=
  let p := s.core.partNo
  s.slot (!s.core.ctx.gate0 g) (capBit 30)
    (fun s => if x = .budget then .go
      else Verdict.require (s.memberIdx p n.val).isSome (s.aggFault 0x0905 n.val (s.ownerReg p) 0))
    fun s => s.landS 32 d (match x with
      | .budget => (((s.partAt p).owner).map s.budget).getD 0
      | .status => s.groupStatus p n.val
      | .cost => BitVec.ofNat 64 (s.group n.val).cost) 0 |>.engineStart

/-! ## Rounds (R293, R294, R297) -/

/-- Events name a round by its number and the generation of its entry: a group written anew counts its rounds from 0 (R290). -/
def roundKey (gen k : Nat) : Nat := 64 * k + gen % 64

def Round.is (g key : Nat) (r : Round) : Bool := r.group == g && roundKey r.entry.gen r.round == key

def State.roundAt (s : State) (g key : Nat) : Option Round := s.hub.rounds.find? (Round.is g key)

def State.updRound (g key : Nat) (f : Round → Round) (s : State) : State :=
  s.onHub fun h => { h with rounds := listMod (Round.is g key) f h.rounds }

/-- A context is done with its agg. -/
def State.endAgg (a : AggWork) (s : State) : State := s.onIssuer a fun x => { x with agg := none }

/-- A late contribution (R293). -/
def State.lateAgg (a : AggWork) (s : State) : State :=
  if a.who.isNone then s else ((s.returnShares a).aggTrap a 0x0903 0 (BitVec.ofNat 64 a.round) none).endAgg a

/-- R293. -/
def execAggLate (w : AggWork) (s : State) : Host.Outcome State Fault Refusal := .next (s.lateAgg w)

/-- Whether an event is a contribution on its way home to a round of a group before round k, of which `closed` have closed. -/
def isEarlierAgg (g gen closed k : Nat) : Instr → Bool
  | .aggReachHome w => w.group == g && w.gen == gen && decide (closed ≤ w.round) && decide (w.round < k)
  | _ => false

/-- Whether a round may close: every member has arrived, or a second has passed. Rounds close in order (R293): an earlier one
that is open comes first, or one that a contribution on its way is still to open. -/
def State.roundReady (s : State) (g key : Nat) : Bool :=
  match s.roundAt g key with
  | none => false
  | some r => !r.isClosed &&
    !(s.hub.rounds.any fun x => x.group == g && !x.isClosed && decide (x.round < r.round)) &&
    !(s.agenda.any fun d => isEarlierAgg g r.entry.gen (s.group g).closed r.round d.ev) &&
    (decide (r.entry.nmem ≤ r.arrived.length + r.gone.length) || decide (r.opened + Config.roundTime * Config.tick ≤ s.ticks))

/-- A round of a group that may close does. -/
def State.closeNext (g : Nat) (s : State) : State :=
  match s.hub.rounds.find? fun r => r.group == g && s.roundReady g (roundKey r.entry.gen r.round) with
  | none => s
  | some r => s.schedule s.now phLand (.roundClose g (roundKey r.entry.gen r.round))

/-- One hub's decision on a member (R294): the budgets, and whether it is included. A member of another chip is decided
there. -/
def State.decideMember (e : Group) (a : AggWork) (s : State) : State × Bool :=
  let w := (e.mem[a.member]?).getD 0
  let o := memberOwner w
  match a.who with
  | none => ({ s with draws := s.draws + 1 }, Config.farIncluded s.draws)
  | some _ =>
    if e.cost ≤ (s.budget o).toNat then
      (s.onHub fun h => { h with budgets := vmod h.budgets o fun b => b - BitVec.ofNat 64 e.cost }, true)
    else (s, false)

/-- The audit stream's third condition for a member: included, it must stand on a chip in audit mode; and its partition
must be an audit partition (R298). -/
def State.auditMember (s : State) (w : W32) (inc : Bool) : Bool :=
  if memberChip w = s.chipId then (s.partAt (memberPart w)).ctl.getLsbD 17 && (!inc || s.hub.chipid.getLsbD 12)
  else Config.farAudit (w.toNat + (if inc then 2 ^ 32 else 0))

/-- GROUP_TIMEOUT notices (R299). -/
def State.timeoutNotice (e : Group) (g k absent : Nat) (inc : List AggWork) (s : State) : State :=
  let s : State := inc.foldl (fun (t : State) a =>
    if a.who.isNone then t else t.addRecord (t.aggRecord a 0x0902 0 (BitVec.ofNat 64 absent) (BitVec.ofNat 64 k) none)) s
  if e.home = s.chipId then s.addRecord (s.partRecord e.hpart 0x0902 0 16 g (BitVec.ofNat 64 absent) (BitVec.ofNat 64 k)) else s

/-- A round closes: decisions one after another in the hub's order, the group's summary, the notices, the release to
come (R293, R294, R306). -/
def State.closeRound (g key : Nat) (s : State) : State :=
  match s.roundAt g key with
  | none => s
  | some r =>
    let e := r.entry
    let order := if Config.hubOrder s.draws then r.arrived else r.arrived.reverse
    let s : State := { s with draws := s.draws + 1 }
    let d : State × List AggWork := order.foldl (fun (t : State × List AggWork) a =>
      let u := t.1.decideMember e a
      (u.1, if u.2 then t.2 ++ [a] else t.2)) (s, [])
    let inc := d.2
    let s := d.1
    let absent := e.nmem - r.arrived.length
    let audit := e.audit && e.members.zipIdx.all fun m => s.auditMember m.1 (inc.any fun a => a.member == m.2)
    let s := s.updRound g key fun r => { r with isClosed := true, included := inc.map (·.member), absent := absent, audit := audit }
    let s := s.updGroup g fun e =>
      { e with closed := r.round + 1, lastCount := inc.length, lastTimeout := absent != 0, lastAudit := audit }
    let s := if absent = 0 then s else s.timeoutNotice e g r.round absent inc
    (s.schedule (s.now + 1 + Config.releaseDelay s.draws % s.us Config.roundTime) phLand (.aggHomeRelease g key)).closeNext g

/-- R293. -/
def execRoundClose (grp round : Nat) (s : State) : Host.Outcome State Fault Refusal :=
  .next (if s.roundReady grp round then s.closeRound grp round else s)

/-- R293. -/
def execRoundTimeout (grp round : Nat) (s : State) : Host.Outcome State Fault Refusal :=
  .next (if s.roundReady grp round then s.closeRound grp round else s)

/-- The first contribution opens the round. -/
def State.openRound (e : Group) (w : AggWork) (s : State) : State :=
  let key := roundKey e.gen w.round
  if (s.roundAt w.group key).isSome then s
  else
    (s.onHub fun h => { h with rounds := h.rounds ++
      [{ group := w.group, round := w.round, entry := e, opened := s.ticks, arrived := [], gone := [], isClosed := false, included := []
         absent := 0, audit := false, result := [] }] }).schedule (s.now + s.us Config.roundTime) phLand (.roundTimeout w.group key)

/-- A packet whose GEN or check word differs from this copy's is dropped and counted; the home partition is told where it is
this chip's (R290). -/
def State.staleAgg (e : Group) (w : AggWork) (s : State) : State :=
  if e.home ≠ s.chipId then s
  else
    let s := s.onPart e.hpart fun p => { p with stale := p.stale + 1 }
    s.addRecord (s.partRecord e.hpart 0x0805 0 16 w.group (BitVec.ofNat 64 w.gen) (BitVec.ofNat 64 (s.partAt e.hpart).stale))

/-- A round in which a partition of this chip has a member that has not joined, and does not come any more (R315). -/
def State.unjoined (s : State) (n : Nat) (r : Round) : Option Nat :=
  match s.memberIdx n r.group with
  | none => none
  | some m =>
    if r.isClosed || r.gone.contains m || (r.arrived.any fun a => a.member == m) ||
      s.agenda.any (fun d => match d.ev with
        | .aggReachHome w => w.group == r.group && w.round == r.round && w.member == m
        | _ => false) then none else some m

/-- Open rounds that a partition has not joined count it absent (R315 step 2). -/
def State.leaveRounds (n : Nat) (s : State) : State :=
  let t := s.onHub fun h => { h with rounds := h.rounds.map fun r => { r with gone := (s.unjoined n r).toList ++ r.gone } }
  (s.hub.rounds.map (·.group)).foldl (fun (t : State) g => t.closeNext g) t

/-- R290, R293. A member that counts as absent is late. -/
def execAggReachHome (w : AggWork) (s : State) : Host.Outcome State Fault Refusal :=
  let e := s.group w.group
  if e.gen ≠ w.gen ∨ e.check ≠ w.crc ∨ !e.valid then .next ((s.staleAgg e w).closeNext w.group)
  else if w.round < e.closed || (s.roundAt w.group (roundKey e.gen w.round)).any fun r => r.gone.contains w.member then
    .next ((s.lateAgg w).closeNext w.group)
  else
    .next (((s.openRound e w).updRound w.group (roundKey e.gen w.round) fun r => { r with arrived := r.arrived ++ [w] }).closeNext w.group)

/-- Noise of element i of a round whose allotment begins at bit b of the stream (R297, R298). -/
def noiseAt (e : Group) (b i : Nat) : Int :=
  let T := 2 ^ e.texp
  let ones := ((List.range T).filter fun j => Config.noiseBit (b + i * T + j)).length
  2 ^ e.shift * ((ones : Int) - (T : Int) / 2)

/-- R297. The exact sum of the included shares and the noise; the results of a home on another chip are its own. -/
def execAggHomeRelease (grp round : Nat) (s : State) : Host.Outcome State Fault Refusal :=
  match s.roundAt grp round with
  | none => .next s
  | some r =>
    let e := r.entry
    let n := e.elems
    let shares := r.arrived.filter fun a => r.included.contains a.member
    let here := e.home = s.chipId
    let y : List Int := (List.range n).map fun i =>
      if here then
        (shares.map fun a => (a.values[i]?).getD 0).foldl (· + ·) 0 + (if r.audit then 0 else noiseAt e s.noise i)
      else (Config.farResult (s.draws + i)).tmod (2 ^ 43)
    let s : State := if here then (if r.audit then s else { s with noise := s.noise + n * 2 ^ e.texp }) else { s with draws := s.draws + n }
    let s := s.updRound grp round fun r => { r with result := y }
    .next (r.arrived.foldl (fun (t : State) a =>
      t.schedule (t.now + ((frameOf a.res).map t.farTime).getD 0) phLand (.aggReleaseMember grp round a.member)) s)

/-- Status word of a member's release (R295). -/
def statusWord (r : Round) (a : AggWork) (rsat : Bool) : Nat :=
  r.included.length % 128 + (if a.nan then 2 ^ 8 else 0) + (if a.sat then 2 ^ 9 else 0) + (if a.clipped then 2 ^ 10 else 0) +
  (if r.audit then 2 ^ 11 else 0) + (if r.absent = 0 then 0 else 2 ^ 12) + (if rsat then 2 ^ 13 else 0) + r.entry.gen * 2 ^ 16 +
  r.round % 2 ^ 32 * 2 ^ 32

/-- A member leaves the round; the last takes the round with it. -/
def State.leaveRound (g key member : Nat) (s : State) : State :=
  let drop := fun (r : Round) => if r.is g key then { r with arrived := r.arrived.filter (fun a => a.member != member) } else r
  s.onHub fun h => { h with rounds := (h.rounds.map drop).filter (fun r => !(r.is g key && r.arrived.isEmpty)) }

/-- Cells of a contribution's result region, written by the member's engine. -/
def State.aggStore (a : AggWork) (cs : List Host.Cell) (s : State) : State :=
  let w := a.who.getD (0, 0)
  s.storeCellsBy (fun _ => a.rkey) (fun x => some (s.aggRecord a 0x0C01 2 0 0 (some (s.placeIn (s.coreAt w.1) (s.ctxAt w.1 w.2) x)))) cs

/-- R297, R305. Results and status, then the shares, in one cycle; the flag word in the next. An excluded member gets its
shares and its record. A round runs out whatever became of the launch that joined it (R330). An access to a frame that moves waits
for the move's end (R246). -/
def execAggReleaseMember (grp round member : Nat) (s : State) : Host.Outcome State Fault Refusal :=
  match s.roundAt grp round with
  | none => .next s
  | some r =>
    match r.arrived.find? (fun a => a.member == member) with
    | none => .next s
    | some a =>
      if a.who.isNone then .next (s.leaveRound grp round member)
      else if !r.included.contains member then
        .next (((s.returnShares a).leaveRound grp round member |>.aggTrap a 0x0901
          (BitVec.ofNat 64 r.entry.cost) (BitVec.ofNat 64 r.round) none).endAgg a)
      else if s.heldByMove [a.res] then .next (s.schedule (s.now + 1) phLand (.aggReleaseMember grp round member))
      else if a.released then
        .next (((s.aggStore a (cellsAt a.res (leBytes 8 (r.round + 1)))).endAgg a).leaveRound grp round member)
      else
        let out := r.result.map fun y => gridOut a.rf r.entry.q y
        let st := statusWord r a (out.any (·.2))
        let bytes := leBytes 8 st ++ (List.replicate 48 0 ++ out.flatMap fun o => leBytes (resultBytes a.rf) o.1)
        let s := s.aggStore a (cellsAt (a.res + 8) bytes)
        let s := (s.returnShares a).updRound grp round fun r =>
          { r with arrived := r.arrived.map fun b => if b.member = member then { b with released := true } else b }
        .next (s.schedule (s.now + 1) phFlag (.aggReleaseMember grp round member))

/-- R290. -/
def execGroupReuseHoldEnd (grp : Nat) (s : State) : Host.Outcome State Fault Refusal :=
  .next (s.updGroup grp fun e => { e with heldUntil := 0 })

/-- R298. The stream goes on under a new key: no bit serves two rounds. -/
def execStippleRekey (s : State) : Host.Outcome State Fault Refusal := .next { s with noise := s.noise + 1 }

/-- R302. A reseeded generator's next draws are new. -/
def execMaskReseed (_core : Nat) (s : State) : Host.Outcome State Fault Refusal := .next { s with draws := s.draws + 1 }

end Sys2Proof.Machine
end

