-- ==== Sys2Proof/Machine/Fetch.lean ====
section
/-! DEFINITION. Fetching an issue group from the instruction store and the checks that decode makes of it (R38 to R45). -/

namespace Sys2Proof.Machine

/-- The 32-bit word at a bundle and position of an instruction store (R38, R40). -/
def slotWord (m : Memory) (b p : Nat) : Nat := readLe m (16 * b + 4 * p) 4

/-- The lend word that a bundle's header gives a position; a bundle without a header lends p0, sense 0, X 0 (R41). -/
def lendOf (m : Memory) (b p : Nat) : Nat :=
  let h := slotWord m b 0
  if p = 0 || fld h 27 4 != 0 then 0 else fld h (9 * (3 - p)) 9

/-! ## Names of a slot that breaks a rule by itself (R43, R45)

A slot with a reserved bit or value still names registers and a bank, so that reasons 1, 2 and 4 can fail at it too. -/

/-- Bits hi : lo. -/
def bitsOf (hi lo : Nat) : Nat := 2 ^ (hi + 1) - 2 ^ lo

/-- The fields of an opcode that name registers, rings and banks, or say which of them the slot has. -/
def namingBits (w : Nat) : Nat :=
  match fld w 27 4 with
  | 1 => match fld w 21 6 with
    | 0 => 0
    | 22 => bitsOf 20 9
    | 23 => bitsOf 20 9
    | 26 => bitsOf 20 9
    | 24 => bitsOf 19 0
    | 34 => bitsOf 19 0
    | 41 => if fld w 0 1 = 0 then bitsOf 17 9 else bitsOf 17 15 + bitsOf 8 0
    | 42 => if fld w 13 1 = 0 then bitsOf 20 0 else bitsOf 20 1
    | 43 => if fld w 12 1 = 0 then bitsOf 20 0 else bitsOf 20 6
    | n => if 37 ≤ n ∧ n ≤ 38 then bitsOf 20 3 else if 39 ≤ n ∧ n ≤ 40 then bitsOf 20 7
        else if n ≤ 25 then bitsOf 20 3 else bitsOf 20 0
  | 2 => match fld w 21 6 with
    | 39 => bitsOf 13 9
    | 28 => bitsOf 18 8
    | 40 => bitsOf 18 8
    | 30 => bitsOf 18 14
    | 41 => bitsOf 18 14
    | 42 => bitsOf 18 14
    | n => if [8, 9, 11, 26, 29, 32, 33, 34, 35, 36, 37, 38].contains n then bitsOf 18 9
        else if 20 ≤ n ∧ n ≤ 22 then bitsOf 18 3 else bitsOf 18 4
  | 3 => if fld w 22 5 = 1 then bitsOf 19 5 else bitsOf 19 10
  | 4 => match fld w 22 5 with
    | 6 => bitsOf 21 16 + bitsOf 13 3
    | 7 => bitsOf 21 16 + bitsOf 13 3
    | 8 => bitsOf 20 16 + bitsOf 13 3
    | 9 => bitsOf 20 16 + bitsOf 13 3
    | 10 => bitsOf 20 7
    | 11 => bitsOf 20 7
    | 14 => bitsOf 20 10
    | 15 => bitsOf 20 16
    | 16 => 0
    | n => if 2 ≤ n ∧ n ≤ 5 then bitsOf 20 0 else bitsOf 21 0
  | 5 => match fld w 22 5 with
    | 1 => bitsOf 21 16
    | 4 => bitsOf 21 1
    | 6 => bitsOf 21 20
    | 7 => bitsOf 21 12
    | n => if n = 3 ∨ 8 ≤ n then 0 else bitsOf 21 0
  | 6 => match fld w 24 3 with
    | 2 => bitsOf 19 16 + bitsOf 8 6
    | 3 => 0
    | 6 => bitsOf 23 20
    | n => if n ≤ 1 then (if fld w 4 1 = 0 then bitsOf 23 9 else bitsOf 23 11 + bitsOf 4 4) else bitsOf 23 15
  | 7 => if fld w 25 2 = 3 then bitsOf 19 9 else bitsOf 24 9
  | 8 => if fld w 24 3 = 1 then bitsOf 23 18 else if fld w 24 3 = 5 then 0 else bitsOf 23 22
  | 9 => match fld w 24 3 with
    | 0 => bitsOf 23 14
    | 1 => bitsOf 23 23
    | 3 => bitsOf 23 17
    | _ => 0
  | 10 => bitsOf 23 14
  | 11 => if fld w 26 1 = 0 then bitsOf 25 20 else bitsOf 25 14
  | 12 => match fld w 23 4 with
    | 1 => bitsOf 22 17
    | 2 => bitsOf 22 5
    | 7 => bitsOf 22 16
    | 8 => if fld w 7 1 = 0 then bitsOf 16 12 else bitsOf 16 7
    | 9 => bitsOf 16 12
    | _ => bitsOf 22 11
  | 13 => if fld w 25 2 = 2 then 0 else bitsOf 24 12
  | 14 => match fld w 23 4 with
    | 1 => bitsOf 19 0
    | 2 => bitsOf 8 0
    | 3 => bitsOf 19 8
    | 4 => bitsOf 18 9
    | 5 => bitsOf 18 9
    | 6 => bitsOf 15 0
    | 7 => bitsOf 15 0
    | 8 => bitsOf 22 13 + bitsOf 7 0
    | _ => bitsOf 22 0
  | _ => 0

/-- Bits of the opcode field, with the class and the stop bit above it. -/
def opcodeBits (w : Nat) : Nat :=
  match fld w 27 4 with
  | 1 => bitsOf 31 21
  | 2 => bitsOf 31 21
  | 3 => bitsOf 31 22
  | 4 => bitsOf 31 22
  | 5 => bitsOf 31 22
  | 7 => bitsOf 31 25
  | 11 => bitsOf 31 26
  | 12 => bitsOf 31 23
  | 13 => bitsOf 31 25
  | 14 => bitsOf 31 23
  | _ => bitsOf 31 24

/-- A slot's word with every other field at a value that stands: the instruction it gives names what the slot names. A width
field of pack and unpack has no value 0. -/
def repairedWord (w : Nat) : Nat :=
  Nat.land w (opcodeBits w) + Nat.land w (namingBits w) +
    (if fld w 27 4 = 2 ∧ 37 ≤ fld w 21 6 ∧ fld w 21 6 ≤ 38 then 2 ^ 19 else 0)

/-- The instruction that says which registers and bank a slot of a listed opcode names, whatever else it breaks. -/
def namedBy (w lend : Nat) : Option Instr :=
  let form := fun (v : Nat) => (decodeForm v (Gate.ofLend lend) (fld lend 0 3)).bind fun o => o.bind id
  (form w).orElse fun _ => form (repairedWord w)

/-- One slot position of a group: where it stands, the reason of R43 it breaks by itself, its instruction (where it breaks
one, what it names) if it has one, its class field and whether it is a scalar nop or a header. -/
structure FSlot where
  bundle : Nat
  pos : Nat
  reason : Option Nat
  instr : Option Instr
  cls : Nat
  nop : Bool
deriving DecidableEq, Repr

/-- The position (b, p), the n-th left of the 16 a group may span. -/
def fetchSlot (m : Memory) (left b p : Nat) : FSlot :=
  let w := slotWord m b p
  let lend := lendOf m b p
  let ranOver := left = 0 && !stopBit w
  if Config.bundles ≤ b then { bundle := b, pos := p, reason := some 12, instr := none, cls := 0, nop := true }
  else if fld w 27 4 = 0 then
    let bad := p != 0 || stopBit w
    { bundle := b, pos := p, reason := if ranOver then some 5 else if bad then some 6 else none, instr := none, cls := 0, nop := true }
  else
    let own := match decodeSlot w lend with
      | .error r => some r
      | .ok _ => none
    { bundle := b, pos := p, reason := if ranOver then some 5 else own, instr := namedBy w lend, cls := fld w 27 4
      nop := fld w 27 4 == 1 && fld w 21 6 == 0 }

/-- The slots of the group that begins at (b, p), through its stop or its sixteenth position (R39). -/
def fetchGroup (m : Memory) : Nat → Nat → Nat → List FSlot
  | 0, b, p => [fetchSlot m 0 b p]
  | n + 1, b, p =>
    let f := fetchSlot m (n + 1) b p
    if Config.bundles ≤ b || stopBit (slotWord m b p) then [f]
    else f :: (if p = 3 then fetchGroup m n (b + 1) 0 else fetchGroup m n b (p + 1))

def Ctx.group (x : Ctx) (b p : Nat) : List FSlot := fetchGroup x.istore (Config.groupSpan - 1) b p

/-- Per-group limit of a class (R44). -/
def classLimit (cls : Nat) : Nat :=
  match cls with
  | 1 => 2
  | 2 => 3
  | 4 => 2
  | 7 => 2
  | _ => 1

/-- Bank named by an accumulator-port slot. -/
def portBank : Instr → Option Nat
  | .accrd _ _ _ b _ => some b.val
  | .accwr _ _ _ b _ => some b.val
  | .accadd _ _ _ b _ => some b.val
  | .accclr _ _ b _ => some b.val
  | _ => none

/-- Whether ldh or sth (R43 reason 11). -/
def frameForm : Instr → Bool
  | .ldh _ _ _ _ _ => true
  | .sth _ _ _ _ _ => true
  | _ => false

def meets (a b : List Reg) : Bool := a.any fun r => b.contains r

/-- Whether a rule of R43 fails at slot f, whose earlier slots are given. -/
def brokenAt (free : Bool) (earlier : List FSlot) (f : FSlot) (r : Nat) : Bool :=
  let olds := earlier.filterMap (·.instr)
  match r with
  | 1 => match f.instr with
    | none => false
    | some i => olds.any fun j => meets (readsOf i) (writesOf j) || meets (readsOf j) (writesOf i)
  | 2 => match f.instr with
    | none => false
    | some i => olds.any fun j => meets (writesOf i) (writesOf j)
  | 3 => !f.nop && decide (classLimit f.cls ≤ (earlier.filter fun e => !e.nop && e.cls == f.cls).length)
  | 4 => match f.instr.bind portBank with
    | none => false
    | some b => olds.any fun j => portBank j == some b
  | 11 => !free && (f.instr.map frameForm).getD false
  | _ => f.reason == some r

/-- The lowest reason that fails at slot f. -/
def reasonAt (free : Bool) (earlier : List FSlot) (f : FSlot) : Option Nat :=
  [1, 2, 3, 4, 5, 6, 7, 8, 9, 10, 11, 12].find? (brokenAt free earlier f)

/-- The reason and position of the first slot of a group at which a rule of R43 fails. -/
def rejectFrom (free : Bool) : List FSlot → List FSlot → Option (Nat × Nat)
  | _, [] => none
  | earlier, f :: r =>
    match reasonAt free earlier f with
    | some n => some (n, earlier.length)
    | none => rejectFrom free (earlier ++ [f]) r

def rejected (free : Bool) (l : List FSlot) : Option (Nat × Nat) := rejectFrom free [] l

/-! ## Counting groups of a block (R68, R71) -/

/-- Words of n bundles from bundle b on, in order. -/
def blockWords (m : Memory) (b n : Nat) : List Nat :=
  (List.range (4 * n)).map fun i => slotWord m (b + i / 4) (i % 4)

/-- Groups of a block: its stop bits, and one more for a last group that runs on. -/
def groupsIn (m : Memory) (b n : Nat) : Nat :=
  let ws := blockWords m b n
  (ws.filter stopBit).length + (if ws.getLast?.map stopBit == some false then 1 else 0)

/-- Whether a block holds a branch-class slot, a sync or a mark (R71). -/
def rollContent (m : Memory) (b n : Nat) : Bool :=
  (blockWords m b n).any fun w => fld w 27 4 == 5 || (fld w 27 4 == 14 && decide (fld w 23 4 ≤ 1))

end Sys2Proof.Machine
end

