-- ==== Sys2Proof/Machine/Branch.lean ====
section
/-! DEFINITION. The branch class (R62 to R72): one meaning for each instruction. What a slot hands to the end of its
group is carried out there: a transfer counts its delay groups, a loop and a roll begin, a yield and a halt end the turn. -/

namespace Sys2Proof.Machine

/-! ## Transfers (R62 to R65, R69) -/

/-- A branch-class transfer: its predicate must be uniform (R63); a taken one may not stand in a delay group (R62). -/
def State.transfer (s : State) (g : Gate) (chk : State → Verdict) (x : Ctx → Xfer) : Host.Outcome State Fault Refusal :=
  match s.core.ctx.uniform g with
  | none => .next (s.takeTrap (s.fault 0x0102 0 0 0))
  | some false => .next s
  | some true =>
    s.slot false 0
      (fun s => (Verdict.require s.core.ctx.flow.xfer.isNone (s.fault 0x0103 0 0 0)).andThen fun _ => chk s)
      fun s => s.post (.xfer (x s.core.ctx))

/-- The bundle a relative transfer names; a negative index is as far out of the store as one above it. -/
def relTarget (x : Ctx) (d : BitVec 25) : Nat := ((x.slotBundle : Int) + d.toInt) % 2 ^ 64 |>.toNat

/-- R64. -/
def execBr (g : Gate) (d : BitVec 25) (s : State) : Host.Outcome State Fault Refusal :=
  s.transfer g (fun _ => .go) fun x => { left := 2, target := relTarget x d, call := false, brk := none }

/-- R65. -/
def execBrr (g : Gate) (a : Fin 64) (s : State) : Host.Outcome State Fault Refusal :=
  s.transfer g (fun _ => .go) fun x => { left := 2, target := (x.rs a).toNat, call := false, brk := none }

/-- R64. lnk is written when the second delay group has issued. -/
def execCall (g : Gate) (d : BitVec 25) (s : State) : Host.Outcome State Fault Refusal :=
  s.transfer g (fun _ => .go) fun x => { left := 2, target := relTarget x d, call := true, brk := none }

/-- R65. -/
def execRet (g : Gate) (s : State) : Host.Outcome State Fault Refusal :=
  s.transfer g (fun _ => .go) fun x => { left := 2, target := x.regs.lnk.toNat, call := false, brk := none }

/-- R69. -/
def execLbreak (g : Gate) (l : Fin 4) (s : State) : Host.Outcome State Fault Refusal :=
  s.transfer g
    (fun s => Verdict.require (decide (l.val < s.core.ctx.regs.loops.length)) (s.fault 0x0104 0 0 0))
    fun x => { left := 2, target := ((x.regs.loops.reverse[l.val]?).map (·.last)).getD 0 + 1, call := false, brk := some l.val }

/-! ## Loops (R66, R68) -/

/-- loop and loopi. -/
def State.startLoop (s : State) (l : Fin 4) (count : Word) (n : Nat) (rot ilk : Bool) : Host.Outcome State Fault Refusal :=
  s.slot false 0
    (fun s =>
      (Verdict.require (s.core.ctx.endPos == 3) (s.fault 0x0105 0 0 0)).andThen fun _ =>
      Verdict.require (s.core.ctx.regs.loops.length == l.val) (s.fault 0x0104 0 0 0))
    fun s =>
      let first := s.core.ctx.endBundle + 1
      s.post (.loop { rot := rot, ilk := ilk, first := first, last := first + n - 1, exit := 0 } count)

/-- R66. -/
def execLoop (l : Fin 4) (c : Fin 64) (n : BitVec 11) (rot ilk : Bool) (s : State) : Host.Outcome State Fault Refusal :=
  s.startLoop l (s.core.ctx.rs c) n.toNat rot ilk

/-- R66. -/
def execLoopi (l : Fin 4) (c n : BitVec 9) (rot ilk : Bool) (s : State) : Host.Outcome State Fault Refusal :=
  s.startLoop l (c.setWidth 64) n.toNat rot ilk

/-! ## The roller (R70, R71) -/

/-- Level k's word of a roll's staging set (R70). -/
def rollLevel (w : Word) : RollLevel :=
  { cnt := w.toNat % 2 ^ 16, a1 := Fin.ofNat 16 (w.toNat / 2 ^ 16), a2 := Fin.ofNat 16 (w.toNat / 2 ^ 20)
    d1 := (w >>> 24).setWidth 20, d2 := (w >>> 44).setWidth 20, iter := 0 }

/-- The parameters of a roll of len bundles from bundle first on; none where R71 raises ROLL_PARAM. -/
def rollOf (x : Ctx) (set first len : Nat) : Option Roll :=
  let w0 := x.staged 3 set 0
  let lv := w0.toNat % 8
  let f := w0.toNat / 2 ^ 3 % 256
  let t := w0.toNat / 2 ^ 11 % 256
  let levels := (List.range lv).map fun k => rollLevel (x.staged 3 set (k + 1))
  let g := groupsIn x.istore first len
  if lv = 0 || 6 < lv || levels.any (fun v => v.cnt == 0) || decide (g < f + t) || w0.toNat / 2 ^ 20 != 0 ||
      x.staged 3 set 7 != 0 then none
  else
    some { first := first, length := len, groups := g, lead := f, trail := t, useSkim := w0.getLsbD 19
           levels := levels, g := 0, skip := false }

/-- R71. Needs capability bit 31 (R20). -/
def execRoll (n : Fin 2) (l : BitVec 9) (s : State) : Host.Outcome State Fault Refusal :=
  let first := s.core.ctx.endBundle + 1
  s.slot false (capBit 31)
    (fun s =>
      (Verdict.require (rollOf s.core.ctx n.val first l.toNat).isSome (s.faultOf 0x0107 5 0 0 0 none)).andThen fun _ =>
      Verdict.require (!rollContent s.core.ctx.istore first l.toNat) (s.faultOf 0x0106 5 0 0 0 none))
    fun s =>
      match rollOf s.core.ctx n.val first l.toNat with
      | none => s
      | some r => s.post (.roll r)

/-! ## yield and halt (R72) -/

/-- R72. In a timetable context it only occupies its cycle. -/
def execYield (s : State) : Host.Outcome State Fault Refusal :=
  s.plain false 0 fun s => if s.core.ctx.cfg.free then s.post .yield else s

/-- R72. -/
def execHalt (s : State) : Host.Outcome State Fault Refusal := s.plain false 0 fun s => s.post .halt

end Sys2Proof.Machine
end

