-- ==== Sys2Proof/Machine/Check.lean ====
section
/-! DEFINITION. The check/sync class (R53 to R57, R61, R73 to R75): one meaning for each instruction. -/

namespace Sys2Proof.Machine

/-- SEXT23 of a difference of cycles modulo 2^23 (R54, R56). -/
def sext23 (d : Word) : Int := (d.setWidth 23).toInt

/-- Scope of a plumb line: lines 0 to 7 span the partition, 8 to 11 exist once per die, 12 to 15 once per cluster (R53). -/
def lineScope (phys line : Nat) : Nat := if line < 8 then 0 else if line < 12 then dieOf phys else clusterOf phys

/-- R54. A register that names no domain raises ILLEGAL_GROUP with reason 9 (R53). The assertion takes effect with the
group, which also acts as a mark without the cycle check. -/
def execSync (d : Fin 8) (t : BitVec 23) (s : State) : Host.Outcome State Fault Refusal :=
  let r := s.core.ctx.regs.dm[d]
  s.slot false 0
    (fun s => Verdict.require (r.getLsbD 4) (s.fault 0x0101 0 9 (BitVec.ofNat 64 s.core.ctx.slotPos)))
    fun s =>
      let line := r.toNat % 16
      s.post (.sync
        { line := line, scope := lineScope s.core.phys line, domain := d.val
          due := ((s.now : Int) + sext23 (t.setWidth 64 - s.core.ctx.ttc s.now)).toNat, at_ := s.now
          bundle := s.core.ctx.slotBundle, g := none })

/-- R56. A free context performs no checkpoint check (R51). -/
def execMark (t : BitVec 23) (s : State) : Host.Outcome State Fault Refusal :=
  s.plain false 0 fun s =>
    let s := if s.core.ctx.cfg.free then s else s.post (.late (sext23 (s.core.ctx.ttc s.now - t.setWidth 64)))
    s.post .mark

/-- R61. The field holds n − 1. -/
def execHold (n : BitVec 9) (s : State) : Host.Outcome State Fault Refusal :=
  s.slot false 0
    (fun s => match s.core.ctx.flow.hold with
      | none => .go
      | some (left, cnt) =>
        Verdict.require (decide (n.toNat + 1 ≤ left) || decide (cnt + n.toNat + 1 ≤ 512)) (s.fault 0x0202 0 0 0))
    fun s => s.post (.hold (n.toNat + 1))

/-- A mismatch: the two operands' tags in the auxiliary words (R73, R311, R312). -/
def State.mismatch (s : State) (a b : Tag) : Verdict :=
  .recover (s.faultOf 0x0B03 0 0 (a.setWidth 64) (b.setWidth 64) none)

/-- R73. -/
def execCkeq (g : Gate) (a b : Fin 64) (s : State) : Host.Outcome State Fault Refusal :=
  s.slot (!s.core.ctx.gate0 g) 0
    (fun s =>
      let x := s.core.ctx
      if x.rs a = x.rs b then .go else s.mismatch x.regs.ts[a] x.regs.ts[b])
    fun s => s

/-- Tag of a vector register by name in a lane group. -/
def Ctx.vecTagOf (x : Ctx) (n k : Nat) : Tag := ((x.regs.tv[physOf x.regs.rrb n]?).bind (·[k]?)).getD 0

/-- R73. The record gives the lowest lane group that differs (R312). -/
def execCkeqv (g : Gate) (m : Fin 8) (a b : Fin 32) (s : State) : Host.Outcome State Fault Refusal :=
  let am := s.core.ctx.active g m
  s.slot (am == 0) (laneNeed (s.core.ctx.rgm m))
    (fun s =>
      let x := s.core.ctx
      match (List.range 128).find? fun l => am.getLsbD l && lane (x.rv a.val) l != lane (x.rv b.val) l with
      | none => .go
      | some l => s.mismatch (x.vecTagOf a.val (l / 16)) (x.vecTagOf b.val (l / 16)))
    fun s => s

/-- Tag of a predicate by name in a lane group (R312; log 56); p0 has none. -/
def Ctx.predTagOf (x : Ctx) (p : Fin 32) (k : Nat) : Tag :=
  if p = 0 then 0 else tagIn k ((x.regs.tp[physOf x.regs.rrb p.val]?).getD 0)

/-- R73. The record gives the tags of the lowest lane that differs (R312). -/
def execCkeqp (g : Gate) (a b : Fin 32) (s : State) : Host.Outcome State Fault Refusal :=
  let am := s.core.ctx.gateLanes g
  s.slot (am == 0) 0
    (fun s =>
      let x := s.core.ctx
      match (List.range 128).find? fun l => am.getLsbD l && (x.rp a).getLsbD l != (x.rp b).getLsbD l with
      | none => .go
      | some l => s.mismatch (x.predTagOf a (l / 16)) (x.predTagOf b (l / 16)))
    fun s => s

/-- R74. -/
def execTrap (g : Gate) (i : BitVec 16) (s : State) : Host.Outcome State Fault Refusal :=
  s.plain (!s.core.ctx.gate0 g) 0 fun s => s.post (.trapAfter (s.fault 0x0108 0 (i.setWidth 64) 0))

/-- R74, R340. Nothing when debug is not enabled for the context. -/
def execBrk (g : Gate) (i : BitVec 16) (s : State) : Host.Outcome State Fault Refusal :=
  s.plain (!s.core.ctx.gate0 g) 0 fun s =>
    if s.core.dblk.dbg.getLsbD s.core.ctx.id then
      s.post (.debugAfter { s.fault 0x010A 0 0 (i.setWidth 64) with sev := 0 })
    else s

/-- The place of a flag word. -/
def flagPieces (a : AddrReg) (o : BitVec 8) : List (Int × Nat) := [(((a.offset.toNat + 8 * o.toNat : Nat) : Int), 8)]

/-- The checks of an 8-byte load of a flag word (R75). DESIGN CHOICE: wflag and tflag carry no alias class and no rule gives their
load one; in free mode it waits for no engine command (R152; log 59). -/
def State.flagCheck (s : State) (n : Fin 16) (o : BitVec 8) : Verdict :=
  let a := s.core.ctx.ra n
  (s.memCheck false [0, 1] 8 a (flagPieces a o) [] none).andThen fun _ => s.spillVerdict a (flagPieces a o)

/-- The flag word as a load sees it. -/
def State.flagWord (s : State) (n : Fin 16) (o : BitVec 8) : Word :=
  let a := s.core.ctx.ra n
  s.loadWord a.space.toNat a.index.toNat (a.offset.toNat + 8 * o.toNat)

/-- R75. The group is withheld until the condition holds. -/
def execWflag (g : Gate) (n : Fin 16) (a : Fin 64) (c : Cond) (o : BitVec 8) (s : State) :
    Host.Outcome State Fault Refusal :=
  s.slot (!s.core.ctx.gate0 g) 0
    (fun s => (s.flagCheck n o).andThen fun _ =>
      if condHolds c (s.flagWord n o) (s.core.ctx.rs a) then .go else .hold { cause := 4, blocks := true })
    fun s => s.spillCounts (s.core.ctx.ra n) (flagPieces (s.core.ctx.ra n) o)

/-- R75. -/
def execTflag (g : Gate) (p : Fin 32) (n : Fin 16) (a : Fin 64) (c : Cond) (o : BitVec 8) (s : State) :
    Host.Outcome State Fault Refusal :=
  s.slot (!s.core.ctx.gate0 g) 0 (fun s => s.flagCheck n o)
    fun s =>
      (s.landP 5 p (BitVec.allOnes 128) (spread (condHolds c (s.flagWord n o) (s.core.ctx.rs a))) 0).spillCounts (s.core.ctx.ra n)
        (flagPieces (s.core.ctx.ra n) o)

end Sys2Proof.Machine
end

