-- ==== Sys2Proof/Machine/Link.lean ====
section
/-! DEFINITION. Channels, grants and the Clamer link (R265 to R285, R287): one meaning for each link slot, for each
event of a command, and for each kind of flit. The far ends of the links are other chips: their flits arrive as events. -/

namespace Sys2Proof.Machine

/-! ## Channels, grants and commands -/

def State.chan (s : State) (n ch : Nat) : Option ChanRec := (s.partAt n).chans.find? fun c => c.decl.ch == ch

def State.updChan (n ch : Nat) (f : ChanRec → ChanRec) (s : State) : State :=
  s.onPart n fun p => { p with chans := listMod (fun c => c.decl.ch == ch) f p.chans }

/-- A command of a core by the model's own number of it. -/
def State.findLink (s : State) (p id : Nat) : Option LinkCmd := (s.coreAt p).link.cmds.find? fun l => l.issue == id

def State.updLink (p id : Nat) (f : LinkCmd → LinkCmd) (s : State) : State :=
  s.updCore p fun c => { c with link := { c.link with cmds := listMod (fun l => l.issue == id) f c.link.cmds } }

/-- Chunks of LEN bytes, and the length of one (R277). -/
def chunkCount (len : Nat) : Nat := ceilDiv len 4096
def chunkLen (len i : Nat) : Nat := min 4096 (len - 4096 * i)

def isSender (o : LinkOp) : Bool := o == .send || o == .put

/-- Chunks that still count against the channel's depth (R271 step 7). -/
def pendingChunks (l : LinkCmd) : Nat :=
  if isSender l.op then l.unacked.length else chunkCount l.len - l.flagged.length - l.aborted.length

/-- Whether nothing of a command is left to do. -/
def linkDone (now : Nat) (l : LinkCmd) : Bool := decide (l.lc ≤ now) && pendingChunks l == 0

/-- Commands of a core that are done leave it. -/
def State.reap (p : Nat) (s : State) : State :=
  s.updCore p fun c => { c with link := { c.link with cmds := c.link.cmds.filter fun l => !linkDone s.now l } }

/-- The kind a channel must have for an op (R271); p2p stands as send. -/
def channelKind (o : LinkOp) : LinkOp :=
  match o with
  | .allred => .allred
  | .agfwd => .agfwd
  | _ => .send

/-- Bytes of an element: raw, f32, bf16, f16, i32 (R268). -/
def elemBytes (fmt : Nat) : Nat :=
  match fmt with
  | 0 => 1
  | 2 => 2
  | 3 => 2
  | _ => 4

/-! ## Chips and ports -/

/-- This chip's number. -/
def State.chip (s : State) : Nat := s.hub.chipid.toNat % 2 ^ 12

def State.updPort (p : Nat) (f : Port → Port) (s : State) : State := s.onHub fun h => { h with ports := vmod h.ports p f }

def State.portAt (s : State) (p : Nat) : Port := (s.hub.ports[p]?).getD Port.reset

/-- Route index of a chip's packets (R284). -/
def routeTo (dst : Nat) : Nat := Config.routeIndex dst % 512

/-- Port that a route leads to, while its entry is valid (R284, R321). -/
def State.portFor (s : State) (route : Nat) : Option Nat :=
  match s.hub.route[route % 512]? with
  | none => none
  | some e => if e.getLsbD 4 && decide (e.toNat % 16 < 12) then some (e.toNat % 16) else none

/-- Members of a collective in ring order: this chip's place among them, and the one behind it. -/
def ringPlace (chip : Nat) (d : ChanDecl) : Nat := (d.order.findIdx? fun m => m.1 == chip).getD 0

def nextMember (chip : Nat) (d : ChanDecl) : Nat := (ringPlace chip d + 1) % d.order.length

/-- The chip that a channel's packets go to: the peer, or the next member of the ring. -/
def nextChip (chip : Nat) (d : ChanDecl) : Nat :=
  match d.order[nextMember chip d]? with
  | some m => m.1
  | none => d.peerChip

/-! ## Staging (R270) -/

def linkLen (w : Words) : Nat := (w 2).toNat % 2 ^ 17
def linkRing (w : Words) : Nat := (w 2).toNat / 2 ^ 17 % 16
def linkRv (w : Words) : Bool := (w 2).getLsbD 21
def linkFlag (w : Words) : Nat := (w 3).toNat % 2 ^ 16

/-- Whether a command's destination is a ring. -/
def toRing (o : LinkOp) (w : Words) : Bool := o == .agfwd || (o == .recv && linkRv w)

/-- Words and fields that an op leaves unused are 0: recv's source, and its destination where that is a ring; the destination of
send and agfwd; the ring number where no ring is named, and RV outside recv and agfwd. -/
def linkUnused (o : LinkOp) (w : Words) : Bool :=
  (o != .recv || w 0 == 0) && (!(o == .send || o == .agfwd || toRing o w) || w 1 == 0) &&
  (toRing o w || (!linkRv w && linkRing w == 0))

/-- The fourth check of R271. -/
def linkParamOk (o : LinkOp) (d : ChanDecl) (w : Words) : Bool :=
  let len := linkLen w
  zeroAbove 45 (w 0) && zeroAbove 45 (w 1) && zeroAbove 22 (w 2) && zeroAbove 16 (w 3) && zeroAbove 4 (w 5) &&
  w 6 == 0 && w 7 == 0 && (o == .put || !(w 5).getLsbD 3) && linkUnused o w &&
  decide (64 ≤ len) && decide (len ≤ 65536) && len % 64 == 0 && (!toRing o w || len % 16384 == 0) &&
  len == d.shape * elemBytes d.fmt

/-! ## Checks at issue (R271) -/

def State.linkFault (s : State) (code ch : Nat) : ErrRecord := s.faultOf code 4 ch 0 0 none

/-- The destination of a put (R267). -/
def State.putCheck (s : State) (a : AddrReg) (len : Nat) : Verdict :=
  let bad := s.placeFault 0x0803 4 a.index.toNat 6 a.index.toNat a.offset.toNat
  match s.grantAt s.core.partNo a.index.toNat with
  | none => .trap bad
  | some g => Verdict.require (g.valid && g.side && g.rw && decide (a.offset.toNat + len ≤ g.count * granule g.space)) bad

/-- Tiles that a command lands in its ring in all. -/
def tileTotalOf (o : LinkOp) (d : ChanDecl) (len : Nat) : Nat := if o = .agfwd then d.order.length * (len / 16384) else len / 16384

def tilesOf (d : ChanDecl) (l : LinkCmd) : Nat := tileTotalOf l.op d l.len

/-- The k slots from the next reservation's on may be written (R168). -/
def State.slotsOwn (s : State) (q k : Nat) : Verdict :=
  firstOf ((List.range k).map fun i => s.own 4 false true 0 0 ((s.ring q).tileOff (ringNext (s.ring q) + i)) 16384)

/-- A ring destination: declared; for a recv room for its tiles; its slots may be written, those of an agfwd as far as the ring
goes, since it takes them as they free (R184, R280). -/
def State.ringCheck (s : State) (o : LinkOp) (q total : Nat) : Verdict :=
  (s.declared 4 q).andThen fun _ =>
  if o = .agfwd then s.slotsOwn q (min total (s.ring q).size.toNat)
  else (Verdict.require (decide (ringFill (s.ring q) + total ≤ (s.ring q).size.toNat)) (s.ringFault 0x0301 4 q)).andThen fun _ => s.slotsOwn q total

/-- Sides in use besides a put's destination. -/
def linkSides (o : LinkOp) (w : Words) : List SideRows :=
  let len := linkLen w
  let side := fun (wr : Bool) (a : AddrReg) => (wr, a, [((a.offset.toNat : Int), len)])
  (if o = .recv then [] else [side false (addrOf (w 0))]) ++
    (if o = .allred || (o = .recv && !linkRv w) then [side true (addrOf (w 1))] else [])

/-- Addresses in use with the spaces that they may name, source first (R270). -/
def linkAddrs (o : LinkOp) (w : Words) : List (AddrReg × List Nat) :=
  (linkSides o w).map (fun d => (d.2.1, [0, 2, 3, 4])) ++ (if o = .put then [(addrOf (w 1), [6])] else [])

/-- Slot-tabled resources that a command crosses: those of its sides, and the port that its packets leave by (R209, R272). -/
def State.linkPath (s : State) (o : LinkOp) (d : ChanDecl) (w : Words) : List Nat :=
  ((linkSides o w).flatMap fun x => s.sideResources x.2.1 (rowSpan x.2.2).1 (rowSpan x.2.2).2) ++
    ((s.portFor (routeTo (nextChip s.chip d))).map (6 + ·)).toList

/-- The fifth check of R271, as steps 4 to 6 of R209. -/
def State.linkPlaces (s : State) (o : LinkOp) (d : ChanDecl) (w : Words) : Verdict :=
  let at_ := fun (a : AddrReg) code => s.placeFault code 4 0 a.space.toNat a.index.toNat a.offset.toNat
  let f := 8 * linkFlag w
  (firstOf ((linkAddrs o w).map fun a => Verdict.require (a.2.contains a.1.space.toNat) (at_ a.1 0x0601))).andThen fun _ =>
  (firstOf ((linkAddrs o w).map fun a => Verdict.require (a.1.offset.toNat % 64 == 0) (at_ a.1 0x0603))).andThen fun _ =>
  (s.sidesRange 4 (linkSides o w)).andThen fun _ =>
  (if o = .put then s.putCheck (addrOf (w 1)) (linkLen w)
   else Verdict.require (decide (f + 8 * chunkCount (linkLen w) ≤ 2 ^ 19)) (s.placeFault 0x0602 4 0 0 0 f)).andThen fun _ =>
  Verdict.require ((s.linkPath o d w).all fun r => s.maskOf r != 0) (s.engineFault 0x0701 4)

/-- The sixth check of R271. -/
def State.linkOwns (s : State) (o : LinkOp) (d : ChanDecl) (w : Words) : Verdict :=
  (s.sidesOwn 4 false (linkSides o w)).andThen fun _ =>
  (if o = .put then .go else s.own 4 false true 0 0 (8 * linkFlag w) (8 * chunkCount (linkLen w))).andThen fun _ =>
  if toRing o w then s.ringCheck o (linkRing w) (tileTotalOf o d (linkLen w)) else .go

/-- The seventh check of R271. -/
def State.linkRoom (s : State) (d : ChanDecl) (len : Nat) : Verdict :=
  let used := ((s.core.link.cmds.filter fun l => l.ch == d.ch).map pendingChunks).foldl (· + ·) 0
  let queued := (s.core.link.cmds.filter fun l => decide (s.now < l.lc)).length
  if d.depth < used + chunkCount len ∨ Config.linkQueue ≤ queued then .hold { cause := 3, blocks := true } else .go

/-- Whether the issuing context's launch has loaded a channel. -/
def State.ownChannel (s : State) (ch : Nat) : Bool := ((s.launchOf s.core s.core.ctx).map fun l => l.chans.contains ch) == some true

def State.linkCheck (s : State) (o : LinkOp) (ch : Nat) (w : Words) : Verdict :=
  match s.chan s.core.partNo ch with
  | none => .trap (s.linkFault 0x0802 ch)
  | some c =>
    let x := s.core.ctx
    (Verdict.require (c.loaded && c.decl.kind == channelKind o && c.decl.lcore == x.cfg.lcore && s.ownChannel ch)
      (s.linkFault 0x0802 ch)).andThen fun _ =>
    (Verdict.require (match c.decl.dom with
      | none => true
      | some d => ((x.regs.dm[d]?).getD 0).getLsbD 5) (s.linkFault 0x0801 ch)).andThen fun _ =>
    (Verdict.require (linkParamOk o c.decl w) (s.linkFault 0x0701 ch)).andThen fun _ =>
    (s.linkPlaces o c.decl w).andThen fun _ =>
    (s.linkOwns o c.decl w).andThen fun _ => s.linkRoom c.decl (linkLen w)

/-! ## Flits (R282 to R284) -/

/-- The bytes of a sector in a flit: its data, then the check word that came with it. -/
def sectorBytes (x : List Byte × W32) : List Byte := x.1 ++ leBytes 4 (crc32c x.1 ^^^ x.2).toNat

/-- Bytes 0 to 251 of a flit. -/
def flitBody (f : Flit) : List Byte :=
  let data := (f.data.take 3).flatMap sectorBytes
  leBytes 2 f.seqNo ++ leBytes 2 f.ack ++ leBytes 1 f.kind ++ leBytes 1 f.nsec ++ leBytes 2 f.credit ++ leBytes 2 f.src ++ leBytes 2 f.dst ++
  leBytes 1 f.ch ++ leBytes 1 f.gen ++ leBytes 2 f.route ++ leBytes 4 f.cmd ++ leBytes 1 f.chunk ++ leBytes 1 f.sect ++ leBytes 2 f.age ++
  leBytes 8 f.offset ++ leBytes 8 f.flagv.toNat ++ leBytes 8 f.rsvd.toNat ++ data ++ List.replicate (204 - data.length) 0

def sealed (f : Flit) : Flit := { f with crc := crc32c (flitBody f) }

/-- Fields of a flit that a port may take: a kind that is not reserved, reserved bits 0. -/
def fieldsOk (f : Flit) : Bool :=
  decide (f.kind ≤ 6) && decide (f.nsec < 4) && f.nsec == f.data.length && decide (f.src < 2 ^ 12) && decide (f.dst < 2 ^ 12) &&
  decide (f.gen < 64) && f.rsvd == 0

/-- A flit that the receiving port does not discard. -/
def sound (f : Flit) : Bool := fieldsOk f && f.crc == crc32c (flitBody f)

/-- A flit leaves by a port, with the port's numbers, its credits and a CRC, and stays in the port's replay store until it is
acknowledged. -/
def State.sendBy (p : Nat) (f : Flit) (s : State) : State :=
  s.updPort p fun t =>
    { t with sent := t.sent + 1, owed := 0
             replay := t.replay ++
               [sealed { f with port := p, seqNo := (t.sent + 1).toNat, ack := t.got.toNat, credit := t.owed % 2 ^ 16 }] }

/-- The same by the port of its route. -/
def State.sendFlit (f : Flit) (s : State) : State :=
  match s.portFor f.route with
  | none => s
  | some p => s.sendBy p f

/-- A packet of a channel for a chip; it is stamped as it leaves. -/
def State.packet (s : State) (kind dst : Nat) (c : ChanRec) (cmd chunk : Nat) : Flit :=
  { port := 0, seqNo := 0, ack := 0, kind := kind, nsec := 0, credit := 0, src := s.chip, dst := dst, ch := c.decl.ch
    gen := c.gen.toNat, route := routeTo dst, cmd := cmd, chunk := chunk, sect := 0, age := 0, offset := 0, flagv := 0, rsvd := 0
    data := [], crc := 0, desc := 0 }

/-! ## Transmission (R272)

A channel's packets leave one by one, each in a cycle of the port that its launch's mask owns. That a flit takes one cycle is
DEDUCED from the port's rate: log 50. -/

/-- Cycles of a port that the launch of a channel owns. -/
def State.portMask (s : State) (n ch p : Nat) : Word :=
  (((s.partAt n).launches.find? fun l => l.chans.contains ch).map fun l => l.maskOf (6 + p)).getD (s.partMask (6 + p) n)

/-- Numbers from here on stand for no command: those under which a put's flags, a channel's turns at its port, and the turns of a
port's flits without a launch are scheduled. -/
def putId (n cmd : Nat) : Nat := 2 ^ 60 + n * 2 ^ 40 + cmd
def turnId (n : Nat) : Nat := 2 ^ 61 + n
def portTurn : Nat := 2 ^ 62

/-- The channel's next turn at its port. -/
def State.turnAt (n ch t : Nat) (s : State) : State := s.schedule t phLand (.linkLocalComplete 0 ch (turnId n))

/-- Flits of a channel wait for their cycles. -/
def State.push (n ch : Nat) (fs : List OutFlit) (s : State) : State :=
  match s.chan n ch with
  | none => s
  | some c =>
    if fs.isEmpty then s
    else
      let s := s.updChan n ch fun c => { c with out := c.out ++ fs, pumping := true }
      if c.pumping then s else s.turnAt n ch s.now

/-- One packet that starts no timer. -/
def State.pushOne (n ch : Nat) (f : Flit) (s : State) : State := s.push n ch [{ flit := f, timer := none }]

/-- A chunk's 64 µs begin with its first flit (R278). -/
def State.startTimer (ch : Nat) (t : Option (Nat × Nat × Nat)) (s : State) : State :=
  match t with
  | none => s
  | some (p, id, i) => s.schedule (s.now + s.us Config.chunkTime) phLand (.chunkTimeout p ch id i)

/-- The first flit has left; the next has its turn in the next cycle. -/
def State.popOut (n ch : Nat) (o : OutFlit) (r : List OutFlit) (s : State) : State :=
  let s := (s.updChan n ch fun c => { c with out := r, pumping := !r.isEmpty }).startTimer ch o.timer
  if r.isEmpty then s else s.turnAt n ch (s.now + 1)

/-- A channel's turn: its first flit leaves if this cycle is the channel's. A flit without a route is lost; one whose port
retrains, or gives the launch no cycle, stays. -/
def State.pump (n ch : Nat) (s : State) : State :=
  match (s.chan n ch).map (·.out) with
  | none => s
  | some [] => s.updChan n ch fun c => { c with pumping := false }
  | some (o :: r) =>
    match s.portFor o.flit.route with
    | none => s.popOut n ch o r
    | some p =>
      let mask := s.portMask n ch p
      if mask = 0 || (s.portAt p).retraining then s.updChan n ch fun c => { c with pumping := false }
      else
        let t := ownedAt mask (max s.now (s.portAt p).txAt) 1
        if t = s.now then
          ((s.sendFlit { o.flit with age := s.micros % 2 ^ 16 }).updPort p fun q => { q with txAt := s.now + 1 }).popOut n ch o r
        else s.turnAt n ch t

/-! ## Flits of no launch (R17, R272)

Migrations and the aborts of a launch that has retired go in cycles that their partition owns; a flit passed on from another chip,
which no partition here sees, in cycles that no partition owns, where the port has such. Log 50. -/

/-- Cycles of a port in which a waiting flit may leave. -/
def State.waitMask (s : State) (p : Nat) (who : Option Nat) : Word :=
  match who with
  | some n => s.partMask (6 + p) n
  | none =>
    let free := s.slotCycles (6 + p) fun e => !e.getLsbD 7
    if free = 0 then BitVec.allOnes 64 else free

/-- First cycle at or after t in which a waiting flit may leave. -/
def State.waitTurn (s : State) (p t : Nat) (x : Option Nat × Flit) : Option Nat :=
  let m := s.waitMask p x.1
  if m = 0 then none else some (ownedAt m t 1)

/-- The next turn of a port's waiting flits, if any has one. -/
def State.turnPort (p : Nat) (s : State) : State :=
  let q := s.portAt p
  match (q.wait.filterMap (s.waitTurn p (max s.now q.txAt))).min? with
  | none => s.updPort p fun q => { q with turning := false }
  | some t => (s.updPort p fun q => { q with turning := true }).schedule t phLand (.linkLocalComplete 0 p portTurn)

/-- A flit of no launch waits at the port of its route. -/
def State.queueFlit (who : Option Nat) (f : Flit) (s : State) : State :=
  match s.portFor f.route with
  | none => s
  | some p =>
    let turning := (s.portAt p).turning
    let s := s.updPort p fun q => { q with wait := q.wait ++ [(who, f)] }
    if turning || (s.portAt p).retraining then s else s.turnPort p

/-- Whether a flit is the last of a page that leaves this chip (R246). -/
def lastOfPage (f : Flit) : Bool := f.kind == 6 && f.offset % 2 ^ 21 == 192 * 10922

/-- The turn of a port's waiting flits: the first whose cycle this is leaves. -/
def State.pumpPort (p : Nat) (s : State) : State :=
  let q := s.portAt p
  if q.retraining then s.updPort p fun q => { q with turning := false }
  else if s.now < q.txAt then s.turnPort p
  else match q.wait.findIdx? fun x => s.waitTurn p s.now x == some s.now with
  | none => s.turnPort p
  | some i => match q.wait[i]? with
    | none => s
    | some x =>
      let t := ((s.updPort p fun q => { q with wait := q.wait.eraseIdx i, txAt := s.now + 1 }).sendBy p
        { x.2 with age := if x.1.isSome then s.micros % 2 ^ 16 else x.2.age }).turnPort p
      if lastOfPage x.2 then
        { t with draws := t.draws + 1 }.schedule (t.now + 1 + Config.linkDelay t.draws) phReg (.moveComplete x.2.desc)
      else t

/-- First cycle behind the resending of flits from t on, each in a cycle of its own launch or partition. -/
def State.resendEnd (s : State) (p t : Nat) (fs : List Flit) : Nat :=
  fs.foldl (fun t f =>
    let n := (List.range 16).find? fun n => ((s.partAt n).chans.any fun c => c.decl.ch == f.ch && c.gen.toNat == f.gen)
    let m := (n.map fun n => s.portMask n f.ch p).getD 0
    ownedAt (if m = 0 then BitVec.allOnes 64 else m) t 1 + 1) t

/-- Every flit from a SEQ on is sent again, as it stands in the replay store (R283). -/
def State.replayFrom (p : Nat) (seq : BitVec 16) (s : State) : State :=
  s.updPort p fun q => { q with txAt := s.resendEnd p (max s.now q.txAt) (q.replay.filter fun f => decide ((BitVec.ofNat 16 f.seqNo - seq).toNat < 2 ^ 15)) }

/-- An idle flit that requests a replay from a SEQ (R283). -/
def replayRequest (chip : Nat) (seq : BitVec 16) : Flit :=
  { port := 0, seqNo := 0, ack := 0, kind := 0, nsec := 0, credit := 0, src := chip, dst := 0, ch := 0, gen := 0, route := 0, cmd := 0
    chunk := 0, sect := 0, age := 0, offset := 0, flagv := 0, rsvd := 0, data := [], crc := 0, desc := 2 ^ 16 + seq.toNat }

/-! ## Chunks on their way out -/

/-- Sectors of bytes that start at an address under which their syndromes are kept. -/
def sectorsAt (bs : List Byte) (bads : List (Nat × W32)) (a : Nat) : List (List Byte × W32) :=
  (List.range (bs.length / 64)).map fun i => ((bs.drop (64 * i)).take 64, syndrome bads (a + 64 * i))

/-- Sectors of a chunk of a command's snapshot, with their syndromes (R154). -/
def chunkSectors (l : LinkCmd) (chunk : Nat) : List (List Byte × W32) :=
  sectorsAt ((l.bytes.drop (4096 * chunk)).take (chunkLen l.len chunk)) l.bads (4096 * chunk)

/-- Sectors of a chunk, three to a flit; the offset counts on in a put's. -/
def chunkFlits (f : Flit) (timer : Option (Nat × Nat × Nat)) (secs : List (List Byte × W32)) : List OutFlit :=
  (List.range (ceilDiv secs.length 3)).map fun i =>
    let d := (secs.drop (3 * i)).take 3
    { flit := { f with nsec := d.length, sect := 3 * i, data := d, offset := if f.desc = 0 then 0 else f.offset + 192 * i }
      timer := if i = 0 then timer else none }

/-- Bit 31 of CMD marks a put, whose commands count on their own. -/
def cmdOf (l : LinkCmd) : Nat := if l.op = .put then l.num + 2 ^ 31 else l.num

/-- What a put's packets tell besides their fields: first sector in the region, the granting side's entry, FLAG, RET and LEN. -/
def putDesc (l : LinkCmd) : Nat :=
  if l.op = .put then l.offset / 64 % 2 ^ 26 + l.grant * 2 ^ 26 + l.putFlag * 2 ^ 36 + (if l.ret then 2 ^ 52 else 0) + l.len / 64 * 2 ^ 53 else 0

/-- FLAGV of a packet: a put's flag value, a send's LEN. -/
def flagWordOf (l : LinkCmd) : Word := if l.op = .put then l.flagv else BitVec.ofNat 64 l.len

/-- A packet of a sender's chunk. -/
def State.sendPacket (s : State) (kind : Nat) (c : ChanRec) (l : LinkCmd) (chunk : Nat) : Flit :=
  { s.packet kind c.decl.peerChip c (cmdOf l) chunk with
    offset := if l.op = .put then l.offset + 4096 * chunk else 0, desc := putDesc l, flagv := flagWordOf l }

/-- Every chunk of a send or put goes to its port; each has 64 µs from its first flit on (R278). -/
def State.transmit (l : LinkCmd) (s : State) : State :=
  let n := (s.coreAt l.core).partNo
  match s.chan n l.ch with
  | none => s
  | some c =>
    (s.updLink l.core l.issue fun l => { l with matched := true, got := [1] }).push n l.ch
      (l.unacked.flatMap fun i => chunkFlits (s.sendPacket 1 c l i) (some (l.core, l.issue, i)) (chunkSectors l i))

/-- A send or put that is locally complete, and a send that is matched, is transmitted (R272, R274). -/
def State.tryTransmit (p id : Nat) (s : State) : State :=
  match s.findLink p id with
  | none => s
  | some l => if s.now < l.lc || !l.matched || !isSender l.op || !l.got.isEmpty then s else s.transmit l

/-! ## Matching (R274) -/

/-- A trap to come for the context of a command, with the record it goes by. -/
def State.linkTrap (l : LinkCmd) (code : Nat) (s : State) : State :=
  let r := { s.record l.core l.ctx code 3 4 l.ch 0 0 none with bundle := l.bundle, scyc := l.scyc }
  (s.addRecord r).doomOf l.core l.ctx l.tag r

/-- Chunks of a command leave the context's acknowledgement set, which may be saved with it. -/
def State.dropAcks (p k id : Nat) (f : Nat → Bool) (s : State) : State :=
  let g := fun (x : Ctx) => { x with acks := x.acks.filter fun a => !(a.2.1 == id && f a.2.2) }
  { (s.updCtx p k g) with saved := s.saved.map fun v => if v.core = p ∧ v.ctx = k then { v with rest := g v.rest } else v }

/-- The first unmatched send of a channel meets the far end's first unmatched arm. -/
def State.matchSend (p ch : Nat) (s : State) : State :=
  let n := (s.coreAt p).partNo
  match s.chan n ch, (s.coreAt p).link.cmds.find? (fun l => l.ch == ch && l.op == .send && !l.matched && !l.unacked.isEmpty) with
  | some c, some l =>
    match c.far with
    | [] => s
    | len :: far =>
      let s := s.updChan n ch fun c => { c with far := far }
      if len = l.len then (s.updLink p l.issue fun l => { l with matched := true }).tryTransmit p l.issue
      else
        let s := s.pushOne n ch (s.sendPacket 1 c l 0)
        ((s.updLink p l.issue fun l => { l with unacked := [], matched := true }).dropAcks p l.ctx l.issue
          (fun _ => true)).linkTrap l 0x0807
  | _, _ => s

/-! ## Issue (R272, R273) -/

/-- Reserve tiles of a command up to a total, as far as the ring has room. -/
def State.reserveTiles (l : LinkCmd) (q total : Nat) : Nat → State → State
  | 0, s => s
  | k + 1, s =>
    let s := s.reserveTiles l q total k
    let r := ((s.coreAt l.core).rings[q]?).getD Ring.reset
    let t := ((s.findLink l.core l.issue).map (·.taken)).getD total
    if t < total ∧ ringFill r + 1 ≤ r.size.toNat then
      (s.updCore l.core (Core.reserve q (tileId l.issue t) l.ctx l.bay)).updLink l.core l.issue fun l => { l with taken := t + 1 }
    else s

/-- How many byte counts a command of n chunks keeps: one a chunk it receives (R277, R279, R280). -/
def pieces (o : LinkOp) (n parts : Nat) : Nat :=
  match o with
  | .send | .put => 0
  | .recv => n
  | .allred => 2 * n
  | .agfwd => parts * n

/-- How many chunks or shards a command waits for after its local completion (R277, R279, R280). -/
def awaits (o : LinkOp) (n parts : Nat) : Nat :=
  match o with
  | .recv => 0
  | .agfwd => parts
  | .send | .put | .allred => n

/-- The command of a slot as it is queued. -/
def State.linkCmd (s : State) (o : LinkOp) (c : ChanRec) (w : Words) : LinkCmd :=
  let a := addrOf (w 0)
  let d := addrOf (w 1)
  let len := linkLen w
  let base := (s.spaceBase s.core s.core.ctx a.space.toNat a.index.toNat).getD 0 + a.offset.toNat
  let g := s.grantAt s.core.partNo d.index.toNat
  let n := chunkCount len
  let parts := c.decl.order.length
  let lc := (s.core.link.cmds.map (·.lc)).foldl max s.now + (if o = .recv then 0 else s.readTerm a + s.sideFar a) + 48 + ceilDiv len 128
  { core := s.core.phys, ctx := s.core.ctx.id, op := o, tag := s.core.ctx.cfg.launch, ch := c.decl.ch
    num := if o = .send then c.sends else if o = .put then c.puts else 0
    bytes := if o = .recv then [] else s.decrypted (s.keyOf a.space.toNat a.index.toNat) base len
    src := if o = .recv then [] else [(base, len)]
    len := len
    dst := (s.spaceBase s.core s.core.ctx d.space.toNat d.index.toNat).getD 0 + d.offset.toNat
    dkey := s.keyOf d.space.toNat d.index.toNat
    ring := if toRing o w then some (linkRing w) else none
    flag := unitBase s.core.phys + 8 * linkFlag w, flagv := w 4, putFlag := linkFlag w
    grant := (g.map (·.peer)).getD 0, offset := d.offset.toNat, ret := (w 5).getLsbD 3, ac := (w 5).toNat % 8
    bundle := s.core.ctx.flow.bundle, scyc := s.scyc, issue := s.issueSeq, since := s.now, lc := lc, armed := false, matched := o == .put
    got := List.replicate (pieces o n parts) 0
    flagged := []
    unacked := List.range (awaits o n parts)
    aborted := [], bay := s.core.ctx.bay.serial
    bads := if o = .recv then [] else (s.failing (s.keyOf a.space.toNat a.index.toNat) base len).map fun t => (t - base, s.syndromeAt (s.keyOf a.space.toNat a.index.toNat) t)
    inbox := [], inBads := [], landed := [], taken := 0, tiles := [] }

/-- A queued command: its place on the channel, its local completion, its ring slots. -/
def State.enqueueLink (l : LinkCmd) (c : ChanRec) (s : State) : State :=
  let s := s.onCore fun k => { k with link := { k.link with cmds := k.link.cmds ++ [l] } }
  let s := s.schedule l.lc phLand (.linkLocalComplete l.core l.ch l.issue)
  let s := match l.op with
    | .send => s.updChan s.core.partNo l.ch fun c => { c with sends := c.sends + 1 }
    | .put => s.updChan s.core.partNo l.ch fun c => { c with puts := c.puts + 1 }
    | _ => s
  match l.ring with
  | none => s
  | some q => s.reserveTiles l q (tilesOf c.decl l) (tilesOf c.decl l)

/-- A link slot. send and put act at issue and are commit points; recv, allred and agfwd reserve, and arm at the commit. -/
def State.linkSlot (s : State) (g : Gate) (o : LinkOp) (ch : Fin 256) (n : Fin 4) : Host.Outcome State Fault Refusal :=
  let w := s.core.ctx.stagedSet 2 n.val
  s.slot (!s.core.ctx.gate0 g) (capBit 29) (fun s => s.linkCheck o ch.val w)
    fun s =>
      match s.chan s.core.partNo ch.val with
      | none => s
      | some c =>
        let l := s.linkCmd o c w
        let s := s.enqueueLink l c
        (if isSender o then (s.post (.sent l)).post .commitPoint else s.post (.publish (.arm l))).engineStart

/-- The end of the group of a send or put: its chunks join the context's acknowledgement set (R258), and a send is matched. -/
def State.sent (l : LinkCmd) (s : State) : State :=
  let s := s.onCtx fun x => { x with acks := x.acks ++ l.unacked.map fun i => (l.ch, l.issue, i) }
  if l.op = .send then s.matchSend l.core l.ch else s

/-- R274. -/
def execSend (g : Gate) (c : Fin 256) (n : Fin 4) (s : State) : Host.Outcome State Fault Refusal := s.linkSlot g .send c n

/-- R275. -/
def execPut (g : Gate) (c : Fin 256) (n : Fin 4) (s : State) : Host.Outcome State Fault Refusal := s.linkSlot g .put c n

/-- R273. -/
def execRecv (g : Gate) (c : Fin 256) (n : Fin 4) (s : State) : Host.Outcome State Fault Refusal := s.linkSlot g .recv c n

/-- R279. -/
def execAllred (g : Gate) (c : Fin 256) (n : Fin 4) (s : State) : Host.Outcome State Fault Refusal := s.linkSlot g .allred c n

/-- R280. -/
def execAgfwd (g : Gate) (c : Fin 256) (n : Fin 4) (s : State) : Host.Outcome State Fault Refusal := s.linkSlot g .agfwd c n

/-! ## Landing and flags (R274, R277) -/

/-- Flag words of complete chunks are written in a later cycle. -/
def State.flagLater (l : LinkCmd) (chunk : Nat) (s : State) : State :=
  s.schedule (s.now + 1 + Config.linkDelay s.issueSeq) phFlag (.chunkFlagWrite l.core l.ch l.issue chunk)

/-- Address of an offset of a ring command: its tile's slot, by the reservation's place in the ring (R182). -/
def State.tileAddr (s : State) (l : LinkCmd) (q t : Nat) : Option Nat :=
  match (s.coreAt l.core).rings[q]? with
  | none => none
  | some r => (r.resv.findIdx? fun v => v.id == tileId l.issue t).map fun i =>
    unitBase l.core + r.tileOff (r.tail.toNat + i)

/-- Sectors of a command land at an offset of its destination, their check words carried (R154, R274). -/
def State.landSectors (l : LinkCmd) (off : Nat) (secs : List (List Byte × W32)) (s : State) : State :=
  let at_ := match l.ring with
    | none => some (l.dst + off)
    | some q => (s.tileAddr l q (off / 16384)).map (· + off % 16384)
  match at_ with
  | none => s
  | some a =>
    s.landHeld l.dkey [{ addr := a, bytes := secs.flatMap (·.1) }] ((secs.zipIdx.filter fun x => x.1.2 != 0).map fun x => (a + 64 * x.2, x.1.2))

/-- Chunk counters: bytes added to one of them. -/
def addGot (i n : Nat) (l : LinkCmd) : LinkCmd := { l with got := listAt (· + n) i l.got }

/-- A tile whose every byte has landed lands as a producer's (R182); where it stands is kept for R281. -/
def State.tileLands (l : LinkCmd) (q t : Nat) (s : State) : State :=
  let a := s.tileAddr l q t
  (s.updCore l.core (Core.landReserved q (tileId l.issue t))).updLink l.core l.issue fun l =>
    { l with tiles := l.tiles ++ (a.map fun b => (t, b)).toList }

/-- A tile of a receive whose every byte has arrived. -/
def State.landTile (l : LinkCmd) (t : Nat) (s : State) : State :=
  match l.ring with
  | none => s
  | some q => if ((l.got.drop (4 * t)).take 4).foldl (· + ·) 0 = 16384 then s.tileLands l q t else s

/-- R277. The flag of a complete chunk, with a fresh check word; then the acknowledgement. -/
def State.writeFlag (l : LinkCmd) (chunk : Nat) (s : State) : State :=
  let a := l.flag + 8 * chunk
  let n := (s.coreAt l.core).partNo
  let s := ({ s with mem := writeRun s.mem a (leBytes 8 l.flagv.toNat), bad := setSyndrome s.bad (sectorOf a) 0 } : State).touch (fun _ => none) [a]
  let s := s.updLink l.core l.issue fun l => { l with flagged := chunk :: l.flagged }
  let s := match s.chan n l.ch with
    | none => s
    | some c => if l.op == LinkOp.recv then s.pushOne n l.ch (s.packet 2 c.decl.peerChip c l.num chunk) else s
  s.reap l.core

/-! ## Collectives (R279, R280, R287) -/

/-- One element combined with another (R279). -/
def combineElem (op : SaOp) (fmt a b : Nat) : Nat :=
  let float := fun (f : Fmt) => match op with
    | .add => f.round .rn false (Num.add .rn (f.decode a) (f.decode b))
    | .min => f.minPat a b
    | .max => f.maxPat a b
  match fmt with
  | 1 => float Fmt.f32
  | 2 => float Fmt.bf16
  | 3 => float Fmt.f16
  | _ =>
    let x := BitVec.ofNat 32 a
    let y := BitVec.ofNat 32 b
    (match op with
     | .add => x + y
     | .min => if x.toInt ≤ y.toInt then x else y
     | .max => if x.toInt ≤ y.toInt then y else x).toNat

/-- Bytes combined element by element. -/
def combineBytes (d : ChanDecl) (a b : List Byte) : List Byte :=
  let n := elemBytes d.fmt
  (List.range (a.length / n)).flatMap fun i =>
    leBytes n (combineElem d.op d.fmt (leVal ((a.drop (n * i)).take n)) (leVal ((b.drop (n * i)).take n)))

/-- Sectors combined. DESIGN CHOICE: the result of a sector that fails verification on either side is poisoned (log 51). -/
def combineSectors (d : ChanDecl) (a b : List (List Byte × W32)) : List (List Byte × W32) :=
  List.zipWith (fun x y => (combineBytes d x.1 y.1, if x.2 = 0 ∧ y.2 = 0 then 0 else poison)) a b

/-- Collective descriptor of a packet (R282): the phase of an all-reduce or the shard's origin, and LEN. -/
def descWord (l : LinkCmd) (tag : Nat) : Word := BitVec.ofNat 64 (tag + l.len * 2 ^ 16)

/-- A chunk of a collective to the next member. -/
def State.sendOn (l : LinkCmd) (c : ChanRec) (tag chunk : Nat) (secs : List (List Byte × W32)) (s : State) : State :=
  s.push (s.coreAt l.core).partNo l.ch
    (chunkFlits { s.packet 1 (nextChip s.chip c.decl) c l.num chunk with flagv := descWord l tag } none secs)

/-- Address in the inbox of a byte of a phase or shard. -/
def inboxAt (tag off : Nat) : Nat := tag * 2 ^ 17 + off

/-- Sectors of one chunk in the inbox. -/
def inboxChunk (l : LinkCmd) (tag chunk : Nat) : List (List Byte × W32) :=
  sectorsAt (readRun l.inbox (inboxAt tag (4096 * chunk)) (chunkLen l.len chunk)) l.inBads (inboxAt tag (4096 * chunk))

/-- Sectors arrive in the inbox, counted against their chunk. -/
def LinkCmd.take (tag : Nat) (f : Flit) (l : LinkCmd) : LinkCmd :=
  let a := inboxAt tag (4096 * f.chunk + 64 * f.sect)
  { addGot (tag * chunkCount l.len + f.chunk) (64 * f.data.length) l with
    inbox := writeRun l.inbox a (f.data.flatMap (·.1))
    inBads := f.data.zipIdx.foldl (fun b x => setSyndrome b (a + 64 * x.2) x.1.2) l.inBads }

/-- Whether a chunk under a tag has all its bytes. -/
def chunkFull (l : LinkCmd) (tag chunk : Nat) : Bool :=
  (l.got[tag * chunkCount l.len + chunk]?).getD 0 == chunkLen l.len chunk

/-- A member that is armed and locally complete combines every chunk that has come (R279). -/
def State.allredTry (p id : Nat) (s : State) : State :=
  match s.findLink p id with
  | none => s
  | some l =>
    match s.chan (s.coreAt p).partNo l.ch with
    | none => s
    | some c =>
      if !(l.op == .allred && l.armed && decide (l.lc ≤ s.now)) then s
      else
        l.unacked.foldl (fun (t : State) i =>
          if ringPlace s.chip c.decl = 0 then t.schedule t.now phLand (.allredCombine p l.ch id i [])
          else if chunkFull l 0 i then t.schedule t.now phLand (.allredCombine p l.ch id i (inboxChunk l 0 i))
          else t) s

/-- R279. The member's contribution joins the running result, which goes on to the next member; at the last it is the
result, which lands here and goes back to the first. -/
def State.combine (l : LinkCmd) (c : ChanRec) (chunk : Nat) (acc : List (List Byte × W32)) (s : State) : State :=
  let j := ringPlace s.chip c.decl
  let own := chunkSectors l chunk
  let r := if j = 0 then own else combineSectors c.decl acc own
  let s := s.updLink l.core l.issue fun l => { l with unacked := l.unacked.filter (· != chunk) }
  if j + 1 = c.decl.order.length then ((s.landSectors l (4096 * chunk) r).flagLater l chunk).sendOn l c 1 chunk r
  else s.sendOn l c 0 chunk r

/-- R279. -/
def execAllredCombine (core ch num chunk : Nat) (acc : List (List Byte × W32)) (s : State) : Host.Outcome State Fault Refusal :=
  match s.findLink core num, s.chan (s.coreAt core).partNo ch with
  | some l, some c => if l.unacked.contains chunk then .next (s.combine l c chunk acc) else .next s
  | _, _ => .next s

/-- Place of an origin in the order of filling at a member: its own shard first, then back along the ring (R280). -/
def fillPlace (parts j origin : Nat) : Nat := (j + parts - origin % parts) % parts

/-- Number of a chunk of a shard. -/
def shardChunk (origin chunk : Nat) : Nat := 16 * origin + chunk

/-- Whether chunk i of every shard has landed. -/
def gathered (l : LinkCmd) (parts i : Nat) : Bool := (List.range parts).all fun o => l.landed.contains (shardChunk o i)

/-- A chunk of a shard has landed: its tile with its last chunk, the shard with its last tile, and the flag of chunk i once
chunk i of every shard has landed. DEDUCED: chunk i of an agfwd counts LEN bytes of every shard (log 52). -/
def State.chunkLanded (l : LinkCmd) (parts first q origin chunk : Nat) (s : State) : State :=
  let s := s.updLink l.core l.issue fun l => { l with landed := shardChunk origin chunk :: l.landed }
  match s.findLink l.core l.issue with
  | none => s
  | some l =>
    let t := chunk / 4
    let s := if (List.range 4).all fun i => l.landed.contains (shardChunk origin (4 * t + i)) then s.tileLands l q (first + t) else s
    let s := if (List.range (chunkCount l.len)).all fun i => l.landed.contains (shardChunk origin i) then
        s.updLink l.core l.issue fun l => { l with unacked := l.unacked.filter (· != origin) }
      else s
    if gathered l parts chunk then s.flagLater l chunk else s

/-- A complete chunk of a shard lands in its reserved slot, and goes on unless the next member originated it; what has no slot
yet waits (R280). -/
def State.landChunk (l : LinkCmd) (c : ChanRec) (origin chunk : Nat) (secs : List (List Byte × W32)) (s : State) : State :=
  let parts := c.decl.order.length
  let j := ringPlace s.chip c.decl
  let first := fillPlace parts j origin * (l.len / 16384)
  match l.ring with
  | none => s
  | some q =>
    if l.taken ≤ first + chunk / 4 || l.landed.contains (shardChunk origin chunk) || l.aborted.contains chunk then s
    else
      let s := (s.landSectors l (16384 * first + 4096 * chunk) secs).chunkLanded l parts first q origin chunk
      if origin = j ∨ nextMember s.chip c.decl = origin then s else s.sendOn l c origin chunk secs

/-- R280. -/
def execAgfwdForward (core ch num : Nat) (shard : Nat × Nat) (secs : List (List Byte × W32)) (s : State) : Host.Outcome State Fault Refusal :=
  match s.findLink core num, s.chan (s.coreAt core).partNo ch with
  | some l, some c => .next (s.landChunk l c shard.1 shard.2 secs)
  | _, _ => .next s

/-- Whether a chunk of a shard can land: the member's own once armed and from LC + 4 on, another's once complete. -/
def shardReady (l : LinkCmd) (own origin chunk now : Nat) : Bool :=
  if origin = own then l.armed && decide (l.lc + 4 ≤ now) else chunkFull l origin chunk

def shardSectors (l : LinkCmd) (own origin chunk : Nat) : List (List Byte × W32) :=
  if origin = own then chunkSectors l chunk else inboxChunk l origin chunk

/-- Chunks of a command that can land do, in the order of filling (R280). -/
def State.landShards (l : LinkCmd) (c : ChanRec) (s : State) : State :=
  let parts := c.decl.order.length
  let j := ringPlace s.chip c.decl
  (List.range (parts * chunkCount l.len)).foldl (fun (t : State) k =>
    let origin := (j + parts - k / chunkCount l.len) % parts
    let i := k % chunkCount l.len
    match t.findLink l.core l.issue with
    | none => t
    | some l => if shardReady l j origin i t.now then t.landChunk l c origin i (shardSectors l j origin i) else t) s

/-- Slots are reserved as ring room frees, and chunks that waited for them land (R280). -/
def State.fillRings (p : Nat) (s : State) : State :=
  ((s.coreAt p).link.cmds.filter fun l => l.op == .agfwd).foldl (fun (t : State) l =>
    match l.ring, t.chan (t.coreAt p).partNo l.ch with
    | some q, some c =>
      let n := tilesOf c.decl l
      (if l.armed then t.reserveTiles l q n (n - l.taken) else t).landShards l c
    | _, _ => t) s

/-- What an armed and locally complete collective does: the 64 µs of its chunks begin, chunks are combined, the own shard goes
out and lands four cycles after LC (R278 to R280). -/
def State.startCollective (p id : Nat) (s : State) : State :=
  match s.findLink p id with
  | none => s
  | some l =>
    match s.chan (s.coreAt p).partNo l.ch with
    | none => s
    | some c =>
      if !l.armed || decide (s.now < l.lc) then s
      else
        let n := chunkCount l.len
        let s : State := (List.range n).foldl (fun (t : State) i =>
          t.schedule (t.now + t.us Config.chunkTime) phLand (.chunkTimeout p l.ch id i)) s
        match l.op with
        | .allred => s.allredTry p id
        | .agfwd =>
          let j := ringPlace s.chip c.decl
          (List.range n).foldl (fun (t : State) i =>
            (t.sendOn l c j i (chunkSectors l i)).schedule (max t.now (l.lc + 4)) phLand (.agfwdForward p l.ch id (j, i) (chunkSectors l i))) s
        | _ => s

/-- Whether accesses of a command to its source wait for a move's end (R246). -/
def State.sourceMoves (s : State) (l : LinkCmd) : Bool := s.heldByMove (l.src.map (·.1))

/-- R272. Local completion, which a source that moves puts off (R246), and the turns of a channel, or of flits without a launch, at a
port. -/
def execLinkLocalComplete (core ch num : Nat) (s : State) : Host.Outcome State Fault Refusal :=
  if 2 ^ 62 ≤ num then .next (s.pumpPort ch)
  else if 2 ^ 61 ≤ num then .next (s.pump (num - 2 ^ 61) ch)
  else match s.findLink core num with
    | some l =>
      if s.sourceMoves l then
        .next ((s.updLink core num fun l => { l with lc := s.now + 1 }).schedule (s.now + 1) phLand (.linkLocalComplete core ch num))
      else .next ((if isSender l.op then s.tryTransmit core num else s.startCollective core num).reap core)
    | none => .next s

/-- R278. A chunk out of time is recorded, aborted at the far end, and forgotten; its context will trap. -/
def State.giveUpChunk (l : LinkCmd) (chunk : Nat) (s : State) : State :=
  let n := (s.coreAt l.core).partNo
  let s := s.linkTrap l 0x0804
  let s := match s.chan n l.ch with
    | none => s
    | some c => if isSender l.op then s.pushOne n l.ch (s.sendPacket 4 c l chunk) else s
  let s := s.updLink l.core l.issue fun l =>
    if isSender l.op then { l with unacked := l.unacked.filter (· != chunk) }
    else { l with aborted := chunk :: l.aborted, unacked := if l.op = .allred then l.unacked.filter (· != chunk) else l.unacked }
  (s.dropAcks l.core l.ctx l.issue (· == chunk)).reap l.core

/-- R278. -/
def execChunkTimeout (core _ch num chunk : Nat) (s : State) : Host.Outcome State Fault Refusal :=
  match s.findLink core num with
  | none => .next s
  | some l =>
    let open_ := if isSender l.op then l.unacked.contains chunk else !l.flagged.contains chunk && !l.aborted.contains chunk
    if open_ then .next (s.giveUpChunk l chunk) else .next s

/-! ## Arriving flits -/

/-- Flits that an acknowledgement covers leave the replay store (R283). -/
def acked (ack : BitVec 16) : List Flit → List Flit
  | [] => []
  | f :: r => if (ack - BitVec.ofNat 16 f.seqNo).toNat < 2 ^ 15 then acked ack r else f :: r

/-- A port starts retraining: its replay store is lost, and every partition with slots on it is told (R283). -/
def State.retrain (p : Nat) (s : State) : State :=
  let slots := ((s.hub.slots[6 + p]?).map (·.toList)).getD []
  let holders := (List.range 16).filter fun n => slots.any fun e => e.getLsbD 7 && e.toNat % 16 == n
  let notice : ErrRecord :=
    { code := 0x0808, sev := 0, part := none, owner := none, who := none, engine := 18 + p, bundle := 0, object := p, scyc := 0
      gcyc := BitVec.ofNat 64 s.now, addr := none, aux0 := 0, aux1 := 0, seq := 0 }
  let s := s.updPort p fun t => { t with replay := [], asking := none, fails := 0, retraining := true }
  let s := if holders.isEmpty then s.addRecord notice
    else holders.foldl (fun (t : State) n => t.addRecord { notice with part := some n, owner := (t.partAt n).owner }) s
  s.schedule (s.now + Config.linkDelay s.issueSeq % s.us 20 + 1) phLand (.linkRetrainDone p)

/-- R283. -/
def execLinkRetrain (port : Nat) (s : State) : Host.Outcome State Fault Refusal := .next (if port < 12 then s.retrain port else s)

/-- Channels whose flits waited for a port have their turns again. -/
def State.resumePumps (s : State) : State :=
  (List.range 16).foldl (fun (t : State) n => ((t.partAt n).chans.filter fun c => !c.pumping && !c.out.isEmpty).foldl (fun (t : State) c =>
    (t.updChan n c.decl.ch fun c => { c with pumping := true }).turnAt n c.decl.ch t.now) t) s

/-- R283. DESIGN CHOICE: both directions begin again at SEQ 1 (log 50). -/
def execLinkRetrainDone (port : Nat) (s : State) : Host.Outcome State Fault Refusal :=
  .next ((s.updPort port fun t => { t with retraining := false, sent := 0, got := 0, owed := 0 }).resumePumps.turnPort port)

/-- The replay that a port asks for, by an idle flit of its own (R283). -/
def State.askReplay (p : Nat) (seq : BitVec 16) (s : State) : State := s.sendBy p (replayRequest s.chip seq)

/-- A flit is dropped and a replay from the SEQ that is due is requested. A dropped flit of that SEQ is a failed replay, and the
sixteenth retrains the port; flits behind it are dropped uncounted (R283). -/
def State.dropFaulty (f : Flit) (s : State) : State :=
  let q := s.portAt f.port
  let due := q.got + 1
  if q.asking = some due then
    if BitVec.ofNat 16 f.seqNo = due then
      if 15 ≤ q.fails then s.retrain f.port else (s.updPort f.port fun t => { t with fails := t.fails + 1 }).askReplay f.port due
    else s
  else (s.updPort f.port fun t => { t with asking := some due, fails := 0 }).askReplay f.port due

/-- R283. -/
def execFaultyFlit (f : Flit) (s : State) : Host.Outcome State Fault Refusal := .next (if f.port < 12 then s.dropFaulty f else s)

/-- A sound flit of the right sequence number is taken; one for another chip is passed on; one older than 64 µs is discarded. -/
def State.accept (f : Flit) (body : State → State) (s : State) : State :=
  let q := s.portAt f.port
  if q.retraining || decide (12 ≤ f.port) then s
  else if !sound f || BitVec.ofNat 16 f.seqNo ≠ q.got + 1 then s.dropFaulty f
  else
    let s := s.updPort f.port fun t =>
      { t with got := t.got + 1, asking := none, fails := 0, owed := t.owed + 1, replay := acked (BitVec.ofNat 16 f.ack) t.replay }
    if 64 < (s.micros + 2 ^ 16 - f.age % 2 ^ 16) % 2 ^ 16 then s
    else if f.kind ≠ 0 ∧ f.dst ≠ s.chip then s.queueFlit none f
    else body s

/-- R282. An idle flit goes no further than the link. One that requests a replay has the port send every flit from that SEQ again
(R283). -/
def execIdleFlit (f : Flit) (s : State) : Host.Outcome State Fault Refusal :=
  .next (s.accept f fun s => if 2 ^ 16 ≤ f.desc then s.replayFrom f.port (BitVec.ofNat 16 f.desc) else s)

/-- R284. -/
def execFlitAgeDiscard (f : Flit) (s : State) : Host.Outcome State Fault Refusal := .next (s.accept f fun s => s)

/-- Whether an entry of the channel table is one that a chip may send to. -/
def ChanRec.hears (c : ChanRec) (src : Nat) : Bool := c.decl.peerChip == src || c.decl.order.any fun m => m.1 == src

/-- Whether an entry takes the packets of a generation: what its launch has issued runs out while its number is held (R227, R269). -/
def ChanRec.takes (c : ChanRec) (gen : Nat) : Bool := (c.loaded || c.heldUntil != 0) && c.gen.toNat == gen

/-- Partition whose channel a packet names; with the same number in several partitions, a loaded one of its generation and
peer, then a loaded one of its peer, then one of its peer, then one that its generation shows to be stale. -/
def State.channelOf (s : State) (f : Flit) : Option Nat :=
  let named := fun (ok : ChanRec → Bool) => (List.range 16).find? fun n => ((s.chan n f.ch).map ok) == some true
  (named fun c => c.hears f.src && c.takes f.gen).or ((named fun c => c.hears f.src && c.loaded).or
    ((named fun c => c.hears f.src).or (named fun c => !c.takes f.gen)))

/-- A packet of another generation, or of an entry that no launch has and whose hold is over, is dropped and counted (R269). -/
def State.onChannel (f : Flit) (body : Nat → ChanRec → State → State) (s : State) : State :=
  match s.channelOf f with
  | none => s
  | some n =>
    match s.chan n f.ch with
    | none => s
    | some c =>
      if c.takes f.gen then body n c s
      else
        (s.updChan n f.ch fun c => { c with stale := c.stale + 1 }).addRecord
          (s.partRecord n 0x0805 0 4 f.ch (BitVec.ofNat 64 f.gen) (BitVec.ofNat 64 (c.stale + 1)))

/-- The launch that loaded a channel. -/
def Part.chanLaunch (p : Part) (ch : Nat) : Option Launch := p.launches.find? fun l => l.running && l.chans.contains ch

/-- Physical core that runs a channel's logical core: a member of the launch that loaded the channel; once that launch has
ended, the core where its link commands run out (R227, log 53). -/
def State.coreOfChan (s : State) (n : Nat) (d : ChanDecl) : Option Nat :=
  match (s.partAt n).chanLaunch d.ch with
  | some l => (l.members.find? fun m => m.2.2 == d.lcore).map (·.1)
  | none => (s.allCores.find? fun c => c.partNo == n && c.link.cmds.any fun l => l.ch == d.ch).map (·.phys)

/-- The command of a core that a packet belongs to. -/
def State.linkFor (s : State) (p : Nat) (f : Flit) : Option LinkCmd :=
  (s.coreAt p).link.cmds.find? fun l => l.ch == f.ch && l.armed && !isSender l.op && l.num == f.cmd

/-- Sectors of a receive arrive (R274, R277). -/
def State.recvFlit (l : LinkCmd) (f : Flit) (s : State) : State :=
  if f.flagv.toNat ≠ l.len then
    (s.updLink l.core l.issue fun l => { l with aborted := List.range (chunkCount l.len), flagged := [] }).linkTrap l 0x0807
  else if l.aborted.contains f.chunk || l.flagged.contains f.chunk then s
  else
    let s := s.landSectors l (4096 * f.chunk + 64 * f.sect) f.data
    let s := s.updLink l.core l.issue (addGot f.chunk (64 * f.data.length))
    match s.findLink l.core l.issue with
    | none => s
    | some l =>
      let s := s.landTile l (f.chunk / 4)
      if chunkFull l 0 f.chunk then s.flagLater l f.chunk else s

/-- Sectors of an all-reduce: running results wait to be combined, final ones land (R279). -/
def State.allredFlit (l : LinkCmd) (c : ChanRec) (tag : Nat) (f : Flit) (s : State) : State :=
  let s := s.updLink l.core l.issue (LinkCmd.take tag f)
  let s := if tag = 1 then s.landSectors l (4096 * f.chunk + 64 * f.sect) f.data else s
  match s.findLink l.core l.issue with
  | none => s
  | some l =>
    if !chunkFull l tag f.chunk then s
    else if tag = 0 then s.allredTry l.core l.issue
    else
      let s := s.flagLater l f.chunk
      if ringPlace s.chip c.decl + 2 = c.decl.order.length then s else s.sendOn l c 1 f.chunk (inboxChunk l 1 f.chunk)

/-- Sectors of a shard (R280). -/
def State.agfwdFlit (l : LinkCmd) (origin : Nat) (f : Flit) (s : State) : State :=
  let s := s.updLink l.core l.issue (LinkCmd.take origin f)
  match s.findLink l.core l.issue with
  | none => s
  | some l =>
    if chunkFull l origin f.chunk then s.schedule s.now phLand (.agfwdForward l.core l.ch l.issue (origin, f.chunk) (inboxChunk l origin f.chunk)) else s

/-- A packet for an armed command. A collective's packet of another LEN is discarded: the command fails by R278 (R287). -/
def State.commandFlit (l : LinkCmd) (c : ChanRec) (f : Flit) (s : State) : State :=
  let tag := f.flagv.toNat % 2 ^ 16
  let taken := f.flagv.toNat / 2 ^ 16 == l.len && !l.aborted.contains f.chunk
  match l.op with
  | .recv => s.recvFlit l f
  | .allred => if taken && decide (tag ≤ 1) then s.allredFlit l c tag f else s
  | .agfwd => if taken && decide (tag < c.decl.order.length) then s.agfwdFlit l tag f else s
  | _ => s

/-! ## Puts at the receiver (R275 to R277) -/

def descOffset (d : Nat) : Nat := 64 * (d % 2 ^ 26)
def descGrant (d : Nat) : Nat := d / 2 ^ 26 % 2 ^ 10
def descFlag (d : Nat) : Nat := d / 2 ^ 36 % 2 ^ 16
def descRet (d : Nat) : Bool := d / 2 ^ 52 % 2 == 1
def descLen (d : Nat) : Nat := 64 * (d / 2 ^ 53 % 2 ^ 11)

/-- First byte of a store's granule of a partition: the place of a granule number, a logical core being one of a launch (R164). -/
def State.granuleAddr (s : State) (n tag sp loc : Nat) : Option Nat :=
  let p := s.partAt n
  match sp with
  | 0 => (p.coreFor tag (loc / 128)).map fun q => unitBase q + loc % 128 * 2 ^ 12
  | 2 => ((List.range 16).find? fun k => p.ctl.getLsbD k && p.clusterIdx k == loc / 128).map fun k => clusterBase k + loc % 128 * 2 ^ 16
  | 3 => some (dieBase (loc / 128) + loc % 128 * 2 ^ 19)
  | 4 => some (frameBase ((p.xlatEntry loc).toNat / 2 ^ 10 % 2 ^ 17))
  | _ => none

/-- Granule of a byte of a granted region. -/
def State.grantLoc (s : State) (n g off : Nat) : Option (Nat × Nat) :=
  (s.grantAt n g).bind fun e => if off < e.count * granule e.space then some (e.space, e.loc + off / granule e.space) else none

/-- Granule and address of a byte of a granted region, for a channel's launch. -/
def State.grantPlace (s : State) (n ch g off : Nat) : Option (Nat × Nat × Nat) :=
  let tag := (((s.partAt n).chanLaunch ch).map (·.tag)).getD 0
  (s.grantLoc n g off).bind fun x => (s.granuleAddr n tag x.1 x.2).map fun a => (x.1, x.2, a + off % granule x.1)

/-- Whether two grants name one peer. A lend goes by an entry of the using side and a put names one of the granting side (R267), so
that no entry serves both; DEDUCED: they belong together by their peer's chip and partition (log 53). -/
def State.samePeer (s : State) (n g h : Nat) : Bool :=
  (s.grantAt n g).isSome && ((s.grantAt n g).map fun e => (e.chip, e.ppart)) == ((s.grantAt n h).map fun e => (e.chip, e.ppart))

/-- Whether a record is of a trowel that covers a granule and is lent to the peer of a grant. -/
def State.lentUnder (s : State) (n g sp loc : Nat) (r : TRec) : Bool :=
  r.space == sp && decide (r.loc ≤ loc) && decide (loc < r.loc + r.count) &&
  match r.holder with
  | .remote h _ _ _ => s.samePeer n g h
  | _ => false

/-- Whether a chip holds, under a grant, the trowel of a granule of a channel's launch. -/
def State.remoteHolds (s : State) (n ch g chip sp loc : Nat) : Bool :=
  ((s.grantAt n g).map (·.chip)) == some chip &&
  (s.partAt n).trowels.any fun r => s.lentUnder n g sp loc r && (((s.partAt n).chanLaunch ch).map (·.tag)) == some r.launch

/-- The receiving port's check of a chunk before it writes any byte of it. -/
def State.putAllowed (s : State) (n : Nat) (c : ChanRec) (u : PutIn) (chunk : Nat) : Bool :=
  let len := descLen u.desc
  let g := descGrant u.desc
  ((List.range (chunkLen len chunk / 64)).all fun i =>
    match s.grantPlace n u.ch g (descOffset u.desc + 4096 * chunk + 64 * i) with
    | none => false
    | some (sp, loc, _) => s.remoteHolds n u.ch g u.src sp loc) &&
  (match c.decl.flags with
   | none => false
   | some (_, bytes) => decide (8 * (descFlag u.desc + chunkCount len) ≤ bytes))

/-- Change the put of a channel and command. -/
def State.updPut (n ch cmd : Nat) (f : PutIn → PutIn) (s : State) : State :=
  s.onHub fun h => { h with puts := listMod (fun u => u.part == n && u.ch == ch && u.cmd == cmd) f h.puts }

def State.putOf (s : State) (n ch cmd : Nat) : Option PutIn := s.hub.puts.find? fun u => u.part == n && u.ch == ch && u.cmd == cmd

/-- R276. The lent trowel returns to the entry it came from; where that is taken it goes home and is lost. -/
def State.returnRemote (n g off : Nat) (s : State) : State :=
  match s.grantLoc n g off with
  | none => s
  | some (sp, loc) =>
    match (s.partAt n).trowels.find? (s.lentUnder n g sp loc) with
    | none => s
    | some r =>
      match r.holder with
      | .remote _ p k t =>
          let gen := (r.gen + 1) % 256
          let e : TEntry := { kind := 1, state := 0, ctx := k, taint := r.taint, swatch := r.swatch, space := r.space, gen := gen, loc := r.loc, count := r.count, launch := r.launch }
          let s := (s.refreshFar ((s.partAt n).mobileFrames r.space r.loc r.count)).mayMigrate n g false r.space r.loc r.count
          if (s.coreAt p).entryFree none s.now t then
            ((s.giveEntry p k t e).updRec n e fun r => { r with gen := gen, holder := .board p t }).regen n e r.gen gen r.taint
          else
            ((s.updRec n e fun r => { r with gen := gen, holder := .home }).regen n e r.gen gen r.taint).addRecord (s.lostRecord n e (entryWordOf e))
      | _ => s

/-- R276. -/
def execPutTrowelReturn (part grant offset : Nat) (s : State) : Host.Outcome State Fault Refusal :=
  .next (s.returnRemote part grant offset)

/-- A complete chunk of a put: its flag in the receiver's flags= region, and the acknowledgement. The flag is written in
the same phase of a later cycle than its last byte: the packet that completes the chunk is this cycle's. Where the launch
that the region belongs to runs no more, there is no region and no flag. -/
def State.putFlag (n : Nat) (c : ChanRec) (u : PutIn) (chunk : Nat) (s : State) : State :=
  let s : State := match c.decl.flags, s.coreOfChan n c.decl with
    | some (o, _), some p =>
      let a := unitBase p + o + 8 * (descFlag u.desc + chunk)
      { s with mem := writeRun s.mem a (leBytes 8 u.flagv.toNat), bad := setSyndrome s.bad (sectorOf a) 0 }
    | _, _ => s
  let s := s.updPut n u.ch u.cmd fun u => { u with flagged := chunk :: u.flagged }
  let s := s.pushOne n u.ch (s.packet 2 u.src c u.cmd chunk)
  let all := u.flagged.length + 1 == chunkCount (descLen u.desc)
  if all && descRet u.desc then s.schedule (s.now + 1) phArrive (.putTrowelReturn n (descGrant u.desc) (descOffset u.desc)) else s

/-- The put that a packet belongs to; it is known from its first packet on until its channel is unloaded. -/
def State.openPut (n : Nat) (f : Flit) (s : State) : State :=
  if (s.putOf n f.ch f.cmd).isSome then s
  else
    s.onHub fun h => { h with puts := h.puts ++
      [{ part := n, ch := f.ch, cmd := f.cmd, src := f.src, desc := f.desc, flagv := f.flagv
         got := List.replicate (chunkCount (descLen f.desc)) 0, flagged := [], dead := [] }] }

/-- Sectors of a put land at the offset that their packet names, their check words carried. -/
def State.landPut (n : Nat) (u : PutIn) (f : Flit) (s : State) : State :=
  f.data.zipIdx.foldl (fun (t : State) (x : (List Byte × W32) × Nat) =>
    match t.grantPlace n u.ch (descGrant u.desc) (f.offset + 64 * x.2) with
    | none => t
    | some (_, _, a) =>
      t.landHeld none [{ addr := a, bytes := x.1.1 }] (if x.1.2 = 0 then [] else [(a, x.1.2)])) s

/-- Sectors of a put arrive. -/
def State.putFlit (n : Nat) (c : ChanRec) (f : Flit) (s : State) : State :=
  let s := s.openPut n f
  match s.putOf n f.ch f.cmd with
  | none => s
  | some u =>
    if u.dead.contains f.chunk || u.flagged.contains f.chunk then s
    else if !s.putAllowed n c u f.chunk then
      let s := s.updPut n f.ch f.cmd fun u => { u with dead := f.chunk :: u.dead }
      (s.pushOne n f.ch (s.packet 5 f.src c f.cmd f.chunk)).addRecord (s.partRecord n 0x0806 3 4 f.ch 0 0)
    else
      let s := (s.landPut n u f).updPut n f.ch f.cmd fun u => { u with got := listAt (· + 64 * f.data.length) f.chunk u.got }
      let full := ((s.putOf n f.ch f.cmd).bind fun u => u.got[f.chunk]?) == some (chunkLen (descLen u.desc) f.chunk)
      if full then s.schedule (s.now + 1 + Config.linkDelay s.issueSeq) phFlag (.chunkFlagWrite 0 f.ch (putId n f.cmd) f.chunk) else s

/-- Whether the bytes of a put's chunk go to a frame that moves. -/
def State.putMoves (s : State) (n : Nat) (u : PutIn) (chunk : Nat) : Bool :=
  match s.grantPlace n u.ch (descGrant u.desc) (descOffset u.desc + 4096 * chunk) with
  | none => false
  | some (_, _, a) => s.heldByMove [a]

/-- R277. The flag of a command's chunk, or of a put's. Bytes for a frame that moves land once the move is done, and the flag behind
them (R246). -/
def execChunkFlagWrite (core ch num chunk : Nat) (s : State) : Host.Outcome State Fault Refusal :=
  if 2 ^ 60 ≤ num then
    let n := (num - 2 ^ 60) / 2 ^ 40
    match s.putOf n ch (num % 2 ^ 40), s.chan n ch with
    | some u, some c =>
      if u.flagged.contains chunk || u.dead.contains chunk then .next s
      else if s.putMoves n u chunk then .next (s.schedule (s.now + 1) phFlag (.chunkFlagWrite core ch num chunk))
      else .next (s.putFlag n c u chunk)
    | _, _ => .next s
  else
    match s.findLink core num with
    | some l =>
      if l.flagged.contains chunk || l.aborted.contains chunk then .next s
      else if l.ring.isNone && s.heldByMove [l.dst + 4096 * chunk] then .next (s.schedule (s.now + 1) phFlag (.chunkFlagWrite core ch num chunk))
      else .next (s.writeFlag l chunk)
    | none => .next s

/-- R277. A data flit for a command that is not armed here waits at its port. -/
def execDataFlit (f : Flit) (s : State) : Host.Outcome State Fault Refusal :=
  .next (s.accept f fun s => s.onChannel f fun n c s =>
    if 2 ^ 31 ≤ f.cmd then s.putFlit n c f
    else match s.coreOfChan n c.decl with
      | none => s
      | some p =>
        match s.linkFor p f with
        | some l => s.commandFlit l c f
        | none => if c.arms ≤ f.cmd then s.updChan n f.ch fun c => { c with early := c.early ++ [f] } else s)

/-- The sender's command that an answer of the far end names. -/
def State.senderFor (s : State) (p : Nat) (f : Flit) : Option LinkCmd :=
  (s.coreAt p).link.cmds.find? fun l => l.ch == f.ch && isSender l.op && cmdOf l == f.cmd

/-- A sender's chunk is done with. -/
def State.settleChunk (p : Nat) (l : LinkCmd) (chunk : Nat) (s : State) : State :=
  ((s.updLink p l.issue fun l => { l with unacked := l.unacked.filter (· != chunk) }).dropAcks p l.ctx l.issue (· == chunk)).reap p

/-- R277. -/
def execChunkAckFlit (f : Flit) (s : State) : Host.Outcome State Fault Refusal :=
  .next (s.accept f fun s => s.onChannel f fun n c s =>
    match s.coreOfChan n c.decl with
    | none => s
    | some p =>
      match s.senderFor p f with
      | none => s
      | some l => s.settleChunk p l f.chunk)

/-- R274. FLAGV carries the arm's LEN. -/
def execArmNoticeFlit (f : Flit) (s : State) : Host.Outcome State Fault Refusal :=
  .next (s.accept f fun s => s.onChannel f fun n c s =>
    let s := s.updChan n f.ch fun c => { c with far := c.far ++ [f.flagv.toNat] }
    match s.coreOfChan n c.decl with
    | none => s
    | some p => s.matchSend p f.ch)

/-- An aborted chunk of a put, of which no packet may have come. -/
def State.abortPut (n : Nat) (f : Flit) (s : State) : State :=
  let s := s.openPut n f
  match s.putOf n f.ch f.cmd with
  | none => s
  | some u =>
    if u.flagged.contains f.chunk || u.dead.contains f.chunk then s
    else (s.updPut n f.ch f.cmd fun u => { u with dead := f.chunk :: u.dead }).addRecord (s.partRecord n 0x0804 3 4 f.ch 0 0)

/-- R278. The receiver records the chunk, unless its flag is written, and takes no more of it. -/
def execAbortFlit (f : Flit) (s : State) : Host.Outcome State Fault Refusal :=
  .next (s.accept f fun s => s.onChannel f fun n c s =>
    if 2 ^ 31 ≤ f.cmd then s.abortPut n f
    else match s.coreOfChan n c.decl with
      | none => s
      | some p =>
        match s.linkFor p f with
        | none => s
        | some l => if l.flagged.contains f.chunk || l.aborted.contains f.chunk then s else s.giveUpChunk l f.chunk)

/-- R275. The sender's side of a refusal. -/
def execRefusalFlit (f : Flit) (s : State) : Host.Outcome State Fault Refusal :=
  .next (s.accept f fun s => s.onChannel f fun n c s =>
    match s.coreOfChan n c.decl with
    | none => s
    | some p =>
      match s.senderFor p f with
      | none => s
      | some l => (s.linkTrap l 0x0806).settleChunk p l f.chunk)

/-! ## Arming (R273) -/

/-- An arm at the commit: the command takes its number on the channel, the far end is told, packets that waited are
taken in, and a collective that is locally complete begins. -/
def State.arm (l : LinkCmd) (s : State) : State :=
  let p := l.core
  let n := (s.coreAt p).partNo
  match s.chan n l.ch with
  | none => s
  | some c =>
    let s := s.updLink p l.issue fun l => { l with armed := true, num := c.arms }
    let s := s.updChan n l.ch fun c => { c with arms := c.arms + 1, early := c.early.filter fun f => f.cmd != c.arms }
    let s := if l.op = .recv then s.pushOne n l.ch { s.packet 3 c.decl.peerChip c c.arms 0 with flagv := BitVec.ofNat 64 l.len } else s
    let s : State := (c.early.filter fun f => f.cmd == c.arms).foldl (fun (t : State) f =>
      match t.findLink p l.issue with
      | none => t
      | some l => t.commandFlit l c f) s
    s.startCollective p l.issue

/-- The hold of a channel number ends: what its launch had issued and is not done by now goes (DESIGN CHOICE: log 53). -/
def State.endHold (n ch : Nat) (s : State) : State :=
  (((s.updChan n ch fun c => { c with heldUntil := 0, far := [], early := [], out := [] }).onHub fun h =>
    { h with puts := h.puts.filter fun u => !(u.part == n && u.ch == ch) })).mapCores fun c =>
      if c.partNo = n then { c with link := { c.link with cmds := c.link.cmds.filter fun l => l.ch != ch } } else c

/-- R269. -/
def execChannelReuseHoldEnd (part ch : Nat) (s : State) : Host.Outcome State Fault Refusal :=
  .next (s.endHold part ch)

end Sys2Proof.Machine
end

