-- ==== Sys2Proof/Machine/Array.lean ====
section
/-! DEFINITION. The arithmetic of the matrix array (R112 to R117, R187, R193 to R195): tile and weight elements, tile
totals, checksum extras. -/

namespace Sys2Proof.Machine

/-- Matrix formats of integers. -/
def mInt (f : MFmt) : Bool := decide (5 ≤ f.code)

/-- Format of the A elements and of the weights (R46, R187), for codes 0 to 4. -/
def aFmt (f : MFmt) : Fmt :=
  match f with
  | .e5m2 => Fmt.e5m2
  | .bf16 => Fmt.bf16
  | .f16 => Fmt.f16
  | _ => Fmt.e4m3

def bFmt (f : MFmt) : Fmt :=
  match f with
  | .e4m3e5m2 => Fmt.e5m2
  | f => aFmt f

/-- Two-byte elements. -/
def mWide (f : MFmt) : Bool := f.code == 3 || f.code == 4

/-- Consecutive 16-bit values. -/
def pairs16 : List Byte → List Nat
  | a :: b :: r => (a.toNat + 256 * b.toNat) :: pairs16 r
  | _ => []

/-- Nibbles of packed int4 data in element order (R101). -/
def nibbles (bs : List Byte) : List Nat := bs.flatMap fun b => [b.toNat % 16, b.toNat / 16]

/-- Raw element patterns of a byte run (R187). -/
def rawElems (wide : Bool) (bs : List Byte) : List Nat := if wide then pairs16 bs else bs.map (·.toNat)

/-- The 1,024 bytes of a weight column over slices 0 to 7. -/
def weightCol (buf : WBuf) (loaded : BitVec 8) (n : Nat) : List Byte :=
  (List.range 8).flatMap fun k =>
    if loaded.getLsbD k then ((buf[k]?.getD []).drop (128 * n)).take 128 else List.replicate 128 0

/-- Weight elements with those of unloaded slices left out: n of them stand in the 128 bytes that a slice gives a column. -/
def onlyLoaded {α : Type} (loaded : BitVec 8) (n : Nat) (l : List α) : List (Option α) :=
  l.zipIdx.map fun p => if loaded.getLsbD (p.2 / n) then some p.1 else none

/-- Weight elements of a format in a slice's part of a column. -/
def sliceElems (f : MFmt) : Nat := if mWide f then 64 else if f = .i8i4 then 256 else 128

/-- Integers of a weight column for codes 5 and 6 (R187). -/
def weightInts (f : MFmt) (col : List Byte) : List Int :=
  if f = .i8i4 then (nibbles (col.take 512)).map (sintOf 4) else col.map (·.toInt)

/-- Elements of a group. -/
def groupLen (gs : GroupSize) : Nat :=
  match gs with
  | .none => 64
  | .g32 => 32
  | .g64 => 64
  | .g128 => 128

/-- Levels of the tree over 1,024 / gs group values (R115). -/
def groupLevels (gs : GroupSize) : Nat :=
  match gs with
  | .g32 => 5
  | .g64 => 4
  | _ => 3

/-- Group parameter word x, g of a part of the scale buffer (R194). -/
def scaleWord (m : Memory) (x g : Nat) : W32 := BitVec.ofNat 32 (readLe m (128 * x + 4 * g) 4)

/-- d[g] of a group of integers with their zero points (R115); a weight that is not loaded reads as 0 in every byte. -/
def intDot (za zb : Int) (a b : List Int) : Int := (List.zipWith (fun x q => (x - za) * (q - zb)) a b).foldl (· + ·) 0

/-- v[g] of a group: RNE of d × (sa × sb). Words as they stand before any scld give +0 (R194); DEDUCED for a negative d, where R115
alone would give −0 (log 57). -/
def groupVal (sa sb : W32) (d : Int) : Nat :=
  if sa = 0 ∧ sb = 0 then 0 else rne32 (Num.mul (.ofInt false d 0) (Num.mul (gpScale sa) (gpScale sb)))

/-- Values v[g] of the groups (R115): each of two lists gives its group's elements first. -/
def groupVals (zp : Bool) (len : Nat) (sa sb : Nat → W32) : Nat → Nat → List Int → List Int → List Nat
  | 0, _, _, _ => []
  | n + 1, g, a, b =>
    let za := if zp then gpZero (sa g) else 0
    let zb := if zp then gpZero (sb g) else 0
    groupVal (sa g) (sb g) (intDot za zb (a.take len) (b.take len)) ::
      groupVals zp len sa sb n (g + 1) (a.drop len) (b.drop len)

/-- Tile total of a row of A and a column of weights (R113, R115). -/
def tileTotal (f : MFmt) (zp : Bool) (gs : GroupSize) (loaded : BitVec 8) (sa sb : Nat → W32) (row col : List Byte) : Nat :=
  if mInt f then
    treeFold add32 0 (groupLevels gs)
      (groupVals zp (groupLen gs) sa sb (1024 / groupLen gs) 0 (row.map (·.toInt))
        (weightInts f col))
  else
    dotFloat (if mWide f then 3 else 4) ((rawElems (mWide f) row).map (aFmt f).decode)
      (onlyLoaded loaded (sliceElems f) ((rawElems (mWide f) col).map (bFmt f).decode))

/-! ## Checksum extras (R116, R193) -/

/-- Input values of a row of A, or the dequantized ones of the integer formats. -/
def rowVals (f : MFmt) (zp : Bool) (gs : GroupSize) (sa : Nat → W32) (row : List Byte) : List Num :=
  if mInt f then
    row.zipIdx.map fun p =>
      let w := sa (p.2 / groupLen gs)
      Num.mul (gpScale w) (.ofInt false (p.1.toInt - (if zp then gpZero w else 0)) 0)
  else (rawElems (mWide f) row).map (aFmt f).decode

def colVals (f : MFmt) (zp : Bool) (gs : GroupSize) (loaded : BitVec 8) (sb : Nat → W32) (col : List Byte) : List (Option Num) :=
  if mInt f then
    (weightInts f col).zipIdx.map fun p =>
      let w := sb (p.2 / groupLen gs)
      some (Num.mul (gpScale w) (.ofInt false (p.1 - (if zp then gpZero w else 0)) 0))
  else onlyLoaded loaded (sliceElems f) ((rawElems (mWide f) col).map (bFmt f).decode)

/-- Element-wise exact sums of lists, each rounded once to FP32. -/
def sumsOf (n : Nat) (ls : List (List Num)) : List Num :=
  (List.range n).map fun k => Fmt.f32.decode (rne32 (sumExact (ls.map fun l => l[k]?.getD .nan)))

/-- The sums over columns; an unloaded k has none. -/
def loadedSums (n : Nat) (ls : List (List (Option Num))) : List (Option Num) :=
  (List.range n).map fun k =>
    (ls.mapM fun l => l[k]?.getD none).map fun xs => Fmt.f32.decode (rne32 (sumExact xs))

/-- K_t of a format. -/
def tileK (f : MFmt) : Nat := if mWide f then 512 else 1024

/-- One result of R113 over values. -/
def dotVals (f : MFmt) (a : List Num) (b : List (Option Num)) : Nat := dotFloat (if mWide f then 3 else 4) a b

end Sys2Proof.Machine
end

