-- ==== Sys2Proof/Machine/Port.lean ====
section
/-! DEFINITION. Accumulator memory (R196 to R204): access checks, the row journal, the accumulator-port slots, and the
allocation and freeing of banks. -/

namespace Sys2Proof.Machine

/-! ## Rows and their checks -/

/-- State word of a bank (R197). -/
def Core.bankWord (c : Core) (b : Nat) : Byte := (c.banks[b]?).getD 0

/-- ALLOC = 1 and FREEING = 0. -/
def bankOpen (w : Byte) : Bool := w.getLsbD 0 && !w.getLsbD 1

/-- Owner of a row's band. -/
def bandOwner (w : Byte) (row : Nat) : Nat := if row < 32 then w.toNat / 16 % 4 else w.toNat / 64

/-- The word of a bank that context k has just allocated with its two band owners. -/
def bankWordOf (k lo hi : Nat) : Byte := BitVec.ofNat 8 (1 + 4 * k + 16 * lo + 64 * hi)

/-- An error record about a bank (R200). -/
def State.accFault (s : State) (code engine b row : Nat) : ErrRecord :=
  s.faultOf code engine b (BitVec.ofNat 64 row) ((s.core.bankWord b).setWidth 64) none

/-- Whether an event is a landing still to come into a row of a bank of a core. -/
def landsInto (p b : Nat) (row : Nat → Bool) : Instr → Bool
  | .mmaRowLand r => r.core == p && r.bank == b && row r.row
  | .mmaExtraRowLand r => r.core == p && r.bank == b && row r.row
  | _ => false

/-- Whether an event is a port write on its way to a bank. -/
def portInto (p b : Nat) : Instr → Bool
  | .accPortPerform o => o.core == p && o.bank == b && match o.kind with
    | .rd _ => false
    | _ => true
  | _ => false

/-- Whether something that earlier groups started satisfies f. -/
def State.underWay (f : Instr → Bool) (s : State) : Bool :=
  s.agenda.any fun d => decide (d.seq ≤ s.core.ctx.groupSeq) && f d.ev

/-- Rows, in rising order, that have no entry in the bay's journal. -/
def Ctx.unjournalled (x : Ctx) (b : Nat) (rows : List Nat) : List Nat :=
  rows.filter fun r => !(x.journal.any fun j => j.bank == b && j.row == r)

/-- The first three checks of R200 on rows in rising order; a slot that only reads takes no journal entry. -/
def State.accCheck (s : State) (engine b : Nat) (writes : Bool) (rows : List Nat) : Verdict :=
  let w := s.core.bankWord b
  let x := s.core.ctx
  if !bankOpen w then .trap (s.accFault 0x0401 engine b (rows.head?.getD 0))
  else match rows.find? (fun r => bandOwner w r != x.id) with
  | some r => .trap (s.accFault 0x0402 engine b r)
  | none =>
    if writes then
      match ((x.unjournalled b rows).drop (Config.journalRows - x.journal.length)).head? with
      | some r => .trap (s.accFault 0x0405 engine b r)
      | none => .go
    else .go

/-- One journal entry for each row that has none (R204). -/
def Ctx.reserveRows (b : Nat) (rows : List Nat) (x : Ctx) : Ctx :=
  { x with journal := x.journal ++ (x.unjournalled b rows).map fun r => { bank := b, row := r, old := none } }

/-- A row as it stands and its last writer. -/
def Core.accEntry (c : Core) (b r : Nat) : Lanes × Option Nat :=
  ((c.acc.find? (fun x => x.bank == b && x.row == r)).map (fun x => (x.val, x.fmt))).getD (Lanes.zero, none)

/-- The journal just before a write of the bay, or under a landing from before it (R204). -/
def Ctx.journalWrite (now : Lanes × Option Nat) (f : Lanes → Lanes) (fmt : Option Nat) (b r bay : Nat) (x : Ctx) : Ctx :=
  { x with journal := x.journal.map fun j =>
      if j.bank = b ∧ j.row = r then
        match j.old with
        | none => if bay = x.bay.serial then { j with old := some now } else j
        | some o => if bay < x.bay.serial then { j with old := some (f o.1, fmt) } else j
      else j }

/-- Write a row for a context and bay: its journal first, then the row. -/
def Core.writeRow (k bay b r : Nat) (f : Lanes → Lanes) (fmt : Option Nat) (c : Core) : Core :=
  let e := c.accEntry b r
  (c.updCtx k (Ctx.journalWrite e f fmt b r bay)).setAcc b r (f e.1) fmt

/-! ## Port slots (R201 to R203) -/

/-- A port slot: its checks in the order of R200, then its way to the bank. -/
def State.portSlot (s : State) (g : Gate) (m : Fin 8) (b : Fin 32) (row : Fin 64) (kind : PortKind) (writes : Bool) :
    Host.Outcome State Fault Refusal :=
  let am := s.core.ctx.active g m
  s.slot (am == 0) (laneNeed (s.core.ctx.rgm m))
    (fun s => (s.accCheck 0 b.val writes [row.val]).andThen fun _ =>
      if s.underWay (landsInto s.core.phys b.val (· == row.val)) then .hold { cause := 1, blocks := true } else .go)
    fun s =>
      let s := if writes then s.onCtx (Ctx.reserveRows b.val [row.val]) else s
      s.schedule (s.now + 2) phLand
        (.accPortPerform
          { core := s.core.phys, ctx := s.core.ctx.id, kind := kind, bank := b.val, row := row.val, mask := am,
            unit := s.core.ctx.unit, seq := s.issueSeq, bay := s.core.ctx.bay.serial, late := 0 })

/-- R201. -/
def execAccrd (g : Gate) (m : Fin 8) (d : Fin 32) (b : Fin 32) (row : Fin 64) (s : State) : Host.Outcome State Fault Refusal :=
  s.portSlot g m b row (.rd (physOf s.core.ctx.regs.rrb d.val)) false

/-- R201. -/
def execAccwr (g : Gate) (m : Fin 8) (d : Fin 32) (b : Fin 32) (row : Fin 64) (s : State) : Host.Outcome State Fault Refusal :=
  s.portSlot g m b row (.wr (s.core.ctx.rv d.val)) true

/-- R201. -/
def execAccadd (g : Gate) (m : Fin 8) (d : Fin 32) (b : Fin 32) (row : Fin 64) (s : State) : Host.Outcome State Fault Refusal :=
  s.portSlot g m b row (.add (s.core.ctx.rv d.val)) true

/-- R201. -/
def execAccclr (g : Gate) (m : Fin 8) (b : Fin 32) (row : Fin 64) (s : State) : Host.Outcome State Fault Refusal :=
  s.portSlot g m b row .clr true

/-- RNE(x + y) in FP32, lane by lane. -/
def addLanes (x y : Lanes) : Lanes := lanesOf fun l => BitVec.ofNat 32 (add32 (lane x l).toNat (lane y l).toNat)

/-- A row after a port write. -/
def portRow (kind : PortKind) (m : LaneMask) (row : Lanes) : Lanes :=
  match kind with
  | .rd _ => row
  | .wr x => mergeLanes m x row
  | .add x => mergeLanes m (addLanes row x) row
  | .clr => mergeLanes m Lanes.zero row

/-- A sampled row on its way to its register; a context that has reached its stop boundary keeps it in the dust sheet,
with its count from that boundary (R90, R204). -/
def State.landSample (o : PortOp) (dst : Nat) (s : State) : State :=
  let e := (s.coreAt o.core).accEntry o.bank o.row
  let tag := match e.2 with
    | some f => mkTag 5 0 f 0
    | none => mkTag 4 o.unit 0 0
  let l : Landing :=
    { core := o.core, ctx := o.ctx, res := .v dst o.mask e.1, tag := tag, bay := o.bay, seq := o.seq, frame := none }
  let x := s.ctxAt o.core o.ctx
  match x.st with
  | .stopping | .stopped | .debug =>
    s.updCtx o.core o.ctx fun x => { x with dust := x.dust ++ [{ land := l, k := s.now + 1 + o.late - (x.flow.stopB - 1) }] }
  | _ => s.scheduleAs (s.now + 1 + o.late) phReg o.seq (.registerResultLand l)

/-- R201. -/
def execAccPortPerform (o : PortOp) (s : State) : Host.Outcome State Fault Refusal :=
  match o.kind with
  | .rd dst => .next (s.landSample o dst)
  | k => .next (s.updCore o.core (Core.writeRow o.ctx o.bay o.bank o.row (portRow k o.mask) none))

/-! ## Banks (R198, R199) -/

/-- bkalloc of a bank with its owners. The state from before the group decides. -/
def State.allocBank (s : State) (g : Gate) (b : Fin 32) (lo hi : Nat) : Host.Outcome State Fault Refusal :=
  s.slot (!s.core.ctx.gate0 g) 0
    (fun s => Verdict.require ((s.core.bankWord b.val).toNat % 4 == 0) (s.accFault 0x0403 0 b.val 0))
    fun s => s.post (.bank b.val (bankWordOf s.core.ctx.id lo hi) true)

/-- R198. -/
def execBkalloc (g : Gate) (b : Fin 32) (s : State) : Host.Outcome State Fault Refusal :=
  s.allocBank g b s.core.ctx.id s.core.ctx.id

/-- R198. -/
def execBkallocNamed (g : Gate) (b : Fin 32) (lo hi : Fin 4) (s : State) : Host.Outcome State Fault Refusal :=
  s.allocBank g b lo.val hi.val

/-- R199. -/
def execBkfree (g : Gate) (b : Fin 32) (s : State) : Host.Outcome State Fault Refusal :=
  s.slot (!s.core.ctx.gate0 g) 0
    (fun s =>
      let w := s.core.bankWord b.val
      if !bankOpen w then .trap (s.accFault 0x0401 0 b.val 0)
      else if w.toNat / 4 % 4 != s.core.ctx.id then .trap (s.accFault 0x0404 0 b.val 0)
      else if s.underWay (fun i => landsInto s.core.phys b.val (fun _ => true) i || portInto s.core.phys b.val i) then
        .hold { cause := 1, blocks := true }
      else .go)
    fun s => (s.post (.bank b.val (s.core.bankWord b.val ||| 2) false)).post (.publish (.bankFree b.val))

end Sys2Proof.Machine
end

