-- ==== Sys2Proof/Machine/Scale.lean ====
section
/-! DEFINITION. The scale class and the scale buffer (R194, R195). -/

namespace Sys2Proof.Machine

/-- One change of the buffer: a part replaced, or every zero point cleared. -/
def Core.scaleOp (c : Core) (o : ScaleOp) : Core :=
  match o.part with
  | 0 => { c with scaleA := writeRun c.scaleA 0 o.bytes }
  | 1 => { c with scaleB := writeRun c.scaleB 0 o.bytes }
  | _ => { c with scaleA := c.scaleA.filter (fun x => x.1 % 4 != 2), scaleB := c.scaleB.filter (fun x => x.1 % 4 != 2) }

/-- The changes that an mma issued at a cycle sees, taken in. -/
def Core.settleScale (now : Nat) (c : Core) : Core :=
  let done := c.scaleQ.filter fun o => decide (o.due ≤ now)
  { done.foldl Core.scaleOp c with scaleQ := c.scaleQ.filter fun o => !decide (o.due ≤ now) }

/-- Seen by an mma issued four cycles later (R195). -/
def State.scaleLater (part : Nat) (bytes : List Byte) (s : State) : State :=
  s.onCore fun c => { c with scaleQ := c.scaleQ ++ [{ due := s.now + 4, part := part, bytes := bytes }] }

/-- scld and scldb: the read as a core load, then the part. -/
def State.scaleLoad (s : State) (g : Gate) (n : Fin 16) (o : BitVec 9) (part len : Nat) : Host.Outcome State Fault Refusal :=
  let a := s.core.ctx.ra n
  let ea := effOff a o.toInt 64
  s.slot (!s.core.ctx.gate0 g) 0 (fun s => s.memCheck false [0] 64 a [(ea, len)] [] none)
    fun s => s.scaleLater part (s.loadBytes 0 0 ea.toNat len)

/-- R195. -/
def execScld (g : Gate) (n : Fin 16) (o : BitVec 9) (s : State) : Host.Outcome State Fault Refusal := s.scaleLoad g n o 0 2048

/-- R195. -/
def execScldb (g : Gate) (n : Fin 16) (o : BitVec 9) (s : State) : Host.Outcome State Fault Refusal :=
  s.scaleLoad g n o 1 16384

/-- R195. -/
def execZpclr (g : Gate) (s : State) : Host.Outcome State Fault Refusal :=
  s.plain (!s.core.ctx.gate0 g) 0 fun s => s.scaleLater 2 []

end Sys2Proof.Machine
end

