-- ==== Sys2Proof/Machine/Matrix.lean ====
section
/-! DEFINITION. The matrix class and the array's own events (R185, R188 to R193): one meaning for each instruction. -/

namespace Sys2Proof.Machine

/-! ## Weight buffers (R188) -/

/-- Tag, loaded bits and bytes of the live buffer, and of the shadow. -/
def WeightRoles.tagLive (w : WeightRoles) : Option Nat := if w.live then w.tag1 else w.tag0
def WeightRoles.tagShadow (w : WeightRoles) : Option Nat := if w.live then w.tag0 else w.tag1
def WeightRoles.loadedLive (w : WeightRoles) : BitVec 8 := if w.live then w.loaded1 else w.loaded0

/-- The shadow buffer takes a tag. -/
def WeightRoles.tagAs (q : Nat) (w : WeightRoles) : WeightRoles :=
  if w.live then { w with tag0 := some q } else { w with tag1 := some q }

/-- A slice of the shadow buffer is loaded. -/
def WeightRoles.load (k : Nat) (w : WeightRoles) : WeightRoles :=
  if w.live then { w with loaded0 := w.loaded0 ||| BitVec.ofNat 8 (2 ^ k) }
  else { w with loaded1 := w.loaded1 ||| BitVec.ofNat 8 (2 ^ k) }

/-- The swap performs: roles exchange, the new shadow is empty and untagged (R190). -/
def WeightRoles.exchange (w : WeightRoles) : WeightRoles :=
  if w.live then { w with live := false, loaded1 := 0, tag1 := none, pending := false }
  else { w with live := true, loaded0 := 0, tag0 := none, pending := false }

/-- Keep the roles on their first change in a context's bay. -/
def Core.shadowRoles (k : Nat) (c : Core) : Core :=
  c.updCtx k fun x => if x.shadow.roles.isSome then x else { x with shadow := { x.shadow with roles := some c.roles } }

/-! ## bld and bswap (R189, R190) -/

/-- Whether an event is a slice load still to land in a core's shadow buffer. -/
def isBld (p : Nat) : Instr → Bool
  | .bldLand b => b.core == p
  | _ => false

/-- Behind a pending swap the group is withheld before any other check: the shadow is still to become another one (R189, R190).
DESIGN CHOICE: no rule orders the checks of a bld among themselves; here WEIGHT_TAG comes first, then WEIGHT_ORDER, then
RING_UNDECLARED (log 59). -/
def State.bldCheck (q : Nat) (s : State) : Verdict :=
  let w := s.core.roles
  if w.pending then .hold { cause := 1, blocks := false }
  else
  (Verdict.require (w.tagShadow == none || w.tagShadow == some q) (s.ringFault 0x0306 1 q)).andThen fun _ =>
  (Verdict.require (!s.core.ctx.bay.swapped) (s.ringFault 0x0305 1 q)).andThen fun _ => (s.declared 1 q).andThen fun _ =>
  s.tileRead q

/-- R189. -/
def execBld (g : Gate) (qb : Fin 16) (l : Fin 8) (s : State) : Host.Outcome State Fault Refusal :=
  s.slot (!s.core.ctx.gate0 g) 0 (State.bldCheck qb.val) fun s =>
    let q := qb.val
    let ld : BldLand :=
      { core := s.core.phys, ctx := s.core.ctx.id, ring := q, idx := (s.ring q).head.toNat, slice := l.val,
        bytes := s.tileBytes q, bay := s.core.ctx.bay.serial }
    let s := s.onCore fun c => { c.shadowRoles c.ctx.id with roles := c.roles.tagAs q }
    ((s.schedule (s.now + 20) phLand (.bldLand ld)).post (.pop q 1 (s.now + 20))).engineStart

/-- R189. A slice issued before a bay counts as loaded in that bay's shadow too. -/
def execBldLand (b : BldLand) (s : State) : Host.Outcome State Fault Refusal :=
  .next (s.updCore b.core fun c =>
    let put := fun (w : WBuf) => w.setIfInBounds b.slice b.bytes
    let c := if c.roles.live then { c with wbuf0 := put c.wbuf0 } else { c with wbuf1 := put c.wbuf1 }
    ({ c with roles := c.roles.load b.slice } : Core).mapCtx fun x =>
      if x.id = b.ctx ∧ x.bay.serial = b.bay then x
      else { x with shadow := { x.shadow with roles := x.shadow.roles.map (WeightRoles.load b.slice) } })

/-- R190. DESIGN CHOICE: no rule says what a second bswap does while a swap is pending; here its group is withheld with snag cause 1,
as behind a bld that has not landed (log 59). -/
def execBswap (g : Gate) (s : State) : Host.Outcome State Fault Refusal :=
  s.slot (!s.core.ctx.gate0 g) 0
    (fun s => if s.core.roles.pending || s.agenda.any (fun d => isBld s.core.phys d.ev) then .hold { cause := 1, blocks := false } else .go)
    fun s => (s.post .swap).engineStart

/-- The swap of a bswap whose group has issued: at once where the array is free, else at the end of its sixteen cycles. -/
def State.beginSwap (s : State) : State :=
  let s := s.onCore fun c => (c.shadowRoles c.ctx.id).updCtx c.ctx.id fun x => { x with bay := { x.bay with swapped := true } }
  if s.core.arrayUntil ≤ s.now then s.onCore fun c => { c with roles := c.roles.exchange }
  else
    (s.onCore fun c => { c with roles := { c.roles with pending := true } }).schedule s.core.arrayUntil phLand
      (.swapPerform s.core.phys)

/-- R190. A swap taken back by a rollback does not perform. -/
def execSwapPerform (core : Nat) (s : State) : Host.Outcome State Fault Refusal :=
  .next (s.updCore core fun c =>
    if c.roles.pending && decide (c.arrayUntil ≤ s.now) then { c with roles := c.roles.exchange } else c)

/-! ## Ring instructions (R185) -/

/-- R185. -/
def execQpop (g : Gate) (q : Fin 16) (n : Fin 32) (s : State) : Host.Outcome State Fault Refusal :=
  s.slot (!s.core.ctx.gate0 g) 0
    (fun s => (s.declared 0 q.val).andThen fun _ =>
      Verdict.require (decide (n.val ≤ ringOcc (s.ring q.val))) (s.ringFault 0x0302 0 q.val))
    fun s => (s.post (.pop q.val n.val s.now)).engineStart

/-- R185. -/
def execQadv (g : Gate) (q : Fin 16) (n : Fin 32) (s : State) : Host.Outcome State Fault Refusal :=
  s.slot (!s.core.ctx.gate0 g) 0
    (fun s =>
      let r := s.ringBefore q.val
      (s.declared 0 q.val).andThen fun _ =>
      (Verdict.require (r.pr == 0) (s.ringFault 0x0303 0 q.val)).andThen fun _ =>
      Verdict.require (decide ((r.tail + BitVec.ofNat 16 n.val - r.hr).toNat ≤ r.size.toNat) && decide (n.val ≤ r.size.toNat)) (s.ringFault 0x0301 0 q.val))
    fun s => (s.post (.push q.val n.val)).engineStart

/-- R185. -/
def execQrst (g : Gate) (q : Fin 16) (s : State) : Host.Outcome State Fault Refusal :=
  s.slot (!s.core.ctx.gate0 g) 0
    (fun s => (s.declared 0 q.val).andThen fun _ =>
      Verdict.require ((s.ringBefore q.val).pr == 0 && (s.busySlots s.core q.val).isEmpty) (s.ringFault 0x0303 0 q.val))
    fun s => (s.post (.ringReset q.val)).engineStart

/-! ## mma and mmaz (R191 to R193) -/

/-- A product's operands, latched at issue: rows of A, columns of the live weights, the two parts of the scale buffer. -/
structure Product where
  f : MFmt
  zp : Bool
  gs : GroupSize
  rows : List (List Byte)
  cols : List (List Byte)
  /-- slices of the live buffer that are loaded -/
  loaded : BitVec 8
  sa : Memory
  sb : Memory

def State.product (s : State) (qa : Nat) (f : MFmt) (zp : Bool) (gs : GroupSize) : Product :=
  let c := s.core.settleScale s.now
  let buf := if c.roles.live then c.wbuf1 else c.wbuf0
  { f := f, zp := zp, gs := gs, rows := chunks 1024 16 (s.tileBytes qa)
    cols := (List.range 128).map fun n => weightCol buf c.roles.loadedLive n, loaded := c.roles.loadedLive, sa := c.scaleA, sb := c.scaleB }

/-- Totals of row r against every column. -/
def Product.row (p : Product) (r : Nat) : List W32 :=
  p.cols.zipIdx.map fun col =>
    BitVec.ofNat 32 (tileTotal p.f p.zp p.gs p.loaded (scaleWord p.sa r) (scaleWord p.sb col.2) (p.rows[r]?.getD []) col.1)

/-- Values of row r of A, and of column n of the weights, as the checksum extras take them (R116). -/
def Product.rowVals (p : Product) (r : Nat) : List Num := Machine.rowVals p.f p.zp p.gs (scaleWord p.sa r) (p.rows[r]?.getD [])
def Product.colVals (p : Product) (n : Nat) : List (Option Num) :=
  Machine.colVals p.f p.zp p.gs p.loaded (scaleWord p.sb n) (p.cols[n]?.getD [])

/-- rs over columns 0 to 126, cs over the sixteen rows (R116, R193). -/
def Product.rs (p : Product) : List (Option Num) := loadedSums (tileK p.f) ((List.range 127).map p.colVals)
def Product.cs (p : Product) : List Num := sumsOf (tileK p.f) ((List.range 16).map p.rowVals)

/-- A row with its extra column element in column 127 (R193). -/
def Product.rowCk (p : Product) (r : Nat) : List W32 :=
  (p.row r).take 127 ++ [BitVec.ofNat 32 (dotVals p.f (p.rowVals r) p.rs)]

/-- The extra row (R193). -/
def Product.extraRow (p : Product) : List W32 :=
  (List.range 127).map (fun n => BitVec.ofNat 32 (dotVals p.f p.cs (p.colVals n))) ++ [BitVec.ofNat 32 (dotVals p.f p.cs p.rs)]

/-- Capability bits of a product (R191). -/
def mmaNeed (f : MFmt) (ck dl : Bool) : W32 :=
  capBit f.code ||| ((if ck then capBit 7 else 0) ||| (if dl then laneNeed 0xFF else 0))

/-- Row of the extra row (R193). -/
def extraRowNo (q : Nat) : Nat := 16 * (q ^^^ 1) + 15

/-- Target rows of a product in rising order. -/
def mmaRows (q : Nat) (ck : Bool) : List Nat :=
  let rs := (List.range 16).map fun r => 16 * q + r
  if !ck then rs else if q % 2 = 0 then rs ++ [extraRowNo q] else extraRowNo q :: rs

/-- The checks of R191 behind those of the bank, then the wait for the array (R192); behind a pending swap the tag is still to
come (R190). DESIGN CHOICE: the list of R191 does not place RING_UNDECLARED; here it comes behind the weight tag, so that an undeclared
qB unlike the live tag is WEIGHT_TAG (log 59). -/
def State.mmaCheck (qa qb : Nat) (s : State) : Verdict :=
  let busy : Verdict := .hold { cause := 2, blocks := false }
  if s.core.roles.pending then busy
  else
    (Verdict.require (s.core.roles.tagLive == some qb) (s.ringFault 0x0306 1 qb)).andThen fun _ =>
    (s.declared 1 qa).andThen fun _ => (s.declared 1 qb).andThen fun _ => (s.tileRead qa).andThen fun _ =>
    if s.now < s.core.arrayUntil then busy else .go

/-- The tile is popped and read for sixteen cycles, and the array is busy for them. -/
def State.startArray (qa : Nat) (s : State) : State :=
  let idx := (s.ring qa).head.toNat
  let s := s.onCore fun c => { c.settleScale s.now with arrayUntil := s.now + 16 }
  ((s.schedule (s.now + 16) phLand (.mmaTileRetire s.core.phys qa idx)).post (.pop qa 1 (s.now + 16))).engineStart

/-- Counting of an armed injection at a product's issue (R317): the flip of a row where it fires. -/
def CtxCfg.injects (c : CtxCfg) : Option (Nat × Nat × Nat) :=
  if finjMode c.finj = 1 && c.finjLeft = 0 then some (finjRow c.finj, finjCol c.finj, finjBit c.finj) else none

def CtxCfg.countMma (c : CtxCfg) : CtxCfg :=
  if finjMode c.finj != 1 then c
  else if c.finjLeft = 0 then { c with finj := (c.finj &&& ~~~3#64) ||| BitVec.ofNat 64 (2 ^ 63) }
  else { c with finjLeft := c.finjLeft - 1 }

/-- A row on its way to accumulator memory. -/
def State.rowLand (s : State) (b row : Nat) (acc : Bool) (f : MFmt) (t : List W32) (flip : Option (Nat × Nat)) : RowLand :=
  { core := s.core.phys, ctx := s.core.ctx.id, bank := b, row := row, acc := acc, t := t, flip := flip, fmt := f.code,
    bay := s.core.ctx.bay.serial }

/-- mma and mmaz without dl. -/
def State.multiply (s : State) (g : Gate) (qa qb : Fin 16) (b : Fin 32) (q : Fin 4) (f : MFmt) (ck zp : Bool) (gs : GroupSize)
    (acc : Bool) : Host.Outcome State Fault Refusal :=
  s.slot (!s.core.ctx.gate0 g) (mmaNeed f ck false)
    (fun s => (s.accCheck 1 b.val true (mmaRows q.val ck)).andThen fun _ => s.mmaCheck qa.val qb.val)
    fun s =>
      let p := s.product qa.val f zp gs
      let inj := s.core.ctx.cfg.injects
      let t := (s.startArray qa.val).onCtx fun x => { x.reserveRows b.val (mmaRows q.val ck) with cfg := x.cfg.countMma }
      let t := (List.range 16).foldl (fun t r =>
        let flip := inj.bind fun i => if i.1 = r then some i.2 else none
        t.schedule (s.now + 600 + r) phLand
          (.mmaRowLand (s.rowLand b.val (16 * q.val + r) acc f (if ck then p.rowCk r else p.row r) flip))) t
      if ck then
        t.schedule (s.now + 616) phLand (.mmaExtraRowLand (s.rowLand b.val (extraRowNo q.val) acc f p.extraRow none))
      else t

/-- R192. -/
def execMma (g : Gate) (qa qb : Fin 16) (b : Fin 32) (q : Fin 4) (f : MFmt) (ck zp : Bool) (gs : GroupSize) (s : State) :
    Host.Outcome State Fault Refusal :=
  s.multiply g qa qb b q f ck zp gs true

/-- R192. -/
def execMmaz (g : Gate) (qa qb : Fin 16) (b : Fin 32) (q : Fin 4) (f : MFmt) (ck zp : Bool) (gs : GroupSize) (s : State) :
    Host.Outcome State Fault Refusal :=
  s.multiply g qa qb b q f ck zp gs false

/-- Drain to lanes: both opcodes deliver the totals (R192). -/
def State.multiplyDl (s : State) (g : Gate) (qa qb : Fin 16) (d : Fin 32) (f : MFmt) (zp : Bool) (gs : GroupSize) :
    Host.Outcome State Fault Refusal :=
  s.slot (!s.core.ctx.gate0 g) (mmaNeed f false true) (fun s => s.mmaCheck qa.val qb.val)
    fun s =>
      let p := s.product qa.val f zp gs
      (List.range 16).foldl (fun t r =>
        (p.row r).zipIdx.foldl (fun t v =>
          t.schedule (s.now + 472 + r + v.2) phReg
            (.mmaDrainLand
              { core := s.core.phys, ctx := s.core.ctx.id, lane := v.2, row := r,
                reg := physOf s.core.ctx.regs.rrb (d.val + r), val := v.1, fmt := f.code, seq := s.issueSeq,
                bay := s.core.ctx.bay.serial })) t) (s.startArray qa.val)

/-- R192. -/
def execMmaDl (g : Gate) (qa qb : Fin 16) (d : Fin 32) (f : MFmt) (zp : Bool) (gs : GroupSize) (s : State) :
    Host.Outcome State Fault Refusal :=
  s.multiplyDl g qa qb d f zp gs

/-- R192. -/
def execMmazDl (g : Gate) (qa qb : Fin 16) (d : Fin 32) (f : MFmt) (zp : Bool) (gs : GroupSize) (s : State) :
    Host.Outcome State Fault Refusal :=
  s.multiplyDl g qa qb d f zp gs

/-! ## Landings of the array -/

/-- R192. The slot's busy bit falls as the event leaves the agenda. -/
def execMmaTileRetire (core _ring _idx : Nat) (s : State) : Host.Outcome State Fault Refusal :=
  .next (s.updCore core fun c => { c with arrayUntil := min c.arrayUntil s.now })

/-- Row values after a landing: accumulated or replaced, then an injected flip (R192, R317). -/
def landRow (r : RowLand) (x : Lanes) : Lanes :=
  lanesOf fun l =>
    let t := r.t[l]?.getD 0
    let v := if r.acc then BitVec.ofNat 32 (add32 (lane x l).toNat t.toNat) else t
    match r.flip with
    | some (c, b) => if c = l then v ^^^ BitVec.ofNat 32 (2 ^ b) else v
    | none => v

/-- A row of the array lands. -/
def State.rowPerform (r : RowLand) (s : State) : State :=
  s.updCore r.core (Core.writeRow r.ctx r.bay r.bank r.row (landRow r) (some r.fmt))

/-- R192. -/
def execMmaRowLand (r : RowLand) (s : State) : Host.Outcome State Fault Refusal := .next (s.rowPerform r)

/-- R193. -/
def execMmaExtraRowLand (r : RowLand) (s : State) : Host.Outcome State Fault Refusal := .next (s.rowPerform r)

/-- R192. -/
def execMmaDrainLand (r : DrainLand) (s : State) : Host.Outcome State Fault Refusal :=
  match landingOf (.mmaDrainLand r) with
  | none => .next s
  | some l => .next (s.landDrain r l)

end Sys2Proof.Machine
end

