-- ==== Sys2Proof/Machine/Scatter.lean ====
section
/-! DEFINITION. The scatter-accumulate engine (R206, R215 to R218): one meaning for each slot and for each event. -/

namespace Sys2Proof.Machine

/-! ## Parameters (R206) -/

/-- A range of a word's value. -/
def within (lo hi v : Nat) : Bool := decide (lo ≤ v) && decide (v ≤ hi)

def saTarget (w : Words) : AddrReg := addrOf (w 0)
def saTlen (w : Words) : Nat := (w 1).toNat % 2 ^ 18
def saCount (w : Words) : Nat := (w 4).toNat % 2 ^ 17
def saAc (w : Words) : Nat := (w 5).toNat / 8 % 8

def saOpOf (w : Word) : SaOp :=
  match w.toNat % 4 with
  | 1 => .min
  | 2 => .max
  | _ => .add

/-- The two words that saenq and sarun both use. -/
def saTargetOk (w : Words) : Bool := zeroAbove 45 (w 0) && zeroAbove 18 (w 1) && within 1 131072 (saTlen w)

def sarunOk (w : Words) : Bool :=
  saTargetOk w && zeroAbove 45 (w 2) && zeroAbove 45 (w 3) && zeroAbove 17 (w 4) && within 1 65536 (saCount w) &&
  zeroAbove 6 (w 5) && (w 5).toNat % 4 != 3 && w 6 == 0 && w 7 == 0

/-- An address word with the bytes it covers: whether they are written, and its alignment. -/
abbrev SaSide := Bool × AddrReg × Nat × Nat

def State.saFault (s : State) (code : Nat) (a : AddrReg) : ErrRecord :=
  s.placeFault code 3 0 a.space.toNat a.index.toNat a.offset.toNat

/-- Spaces, alignment, range and ownership, in this order (R216); then whether a chunk is still to come into the bytes (R281). -/
def State.saSides (s : State) (sides : List SaSide) : Verdict :=
  (firstOf (sides.map fun d => Verdict.require (d.2.1.space == 0) (s.saFault 0x0601 d.2.1))).andThen fun _ =>
  (firstOf (sides.map fun d => Verdict.require (d.2.1.offset.toNat % d.2.2.2 == 0) (s.saFault 0x0603 d.2.1))).andThen fun _ =>
  (firstOf (sides.map fun d => s.inRange 3 d.1 0 0 d.2.1.offset.toNat d.2.2.1 false)).andThen fun _ =>
  (firstOf (sides.map fun d => s.own 3 false d.1 0 0 d.2.1.offset.toNat d.2.2.1)).andThen fun _ =>
  firstOf (sides.map fun d => s.chunkRace (s.byteAddr 0 0 d.2.1.offset.toNat) d.2.2.1)

def saTargetSide (w : Words) : SaSide := (true, saTarget w, 4 * saTlen w, 4)

/-! ## The window (R215) -/

/-- OP of an entry on raw elements. -/
def saApply (op : SaOp) (ty : SaTy) (a b : W32) : W32 :=
  match ty, op with
  | .f32, .add => BitVec.ofNat 32 (add32 a.toNat b.toNat)
  | .f32, .min => BitVec.ofNat 32 (Fmt.f32.minPat a.toNat b.toNat)
  | .f32, .max => BitVec.ofNat 32 (Fmt.f32.maxPat a.toNat b.toNat)
  | .i32, .add => a + b
  | .i32, .min => if a.toInt ≤ b.toInt then a else b
  | .i32, .max => if a.toInt ≤ b.toInt then b else a

/-- Whether an arriving entry merges into one of the window: same index, operation and type (R215). -/
def saMerges (e x : SaEntry) : Bool := e.idx == x.idx && e.op == x.op && e.ty == x.ty

/-- Address of an entry's element. -/
def saElem (e : SaEntry) : Nat := e.base + 4 * e.idx

/-- The first cycle after every retirement to an address that is under way; 0 for none. -/
def State.elemFree (s : State) (p a : Nat) : Nat :=
  s.agenda.foldl (fun n d => match d.ev with
    | .saRetirePerform q x => if q = p ∧ saElem x = a then max n (d.cyc + 1) else n
    | _ => n) 0

/-- An entry that retires at a cycle performs eight cycles later, in the issue order of the command that retires it (R149, R216), and
after every earlier retirement to its element: no two perform in one cycle (R215, log 31). -/
def State.retireAt (p t issue : Nat) (e : SaEntry) (s : State) : State :=
  s.scheduleAs (max (t + 8) (s.elemFree p (saElem e))) phLand issue (.saRetirePerform p e)

/-- Entries retire one per cycle from a cycle on. -/
def State.retireFrom (p t issue : Nat) (es : List SaEntry) (s : State) : State :=
  es.zipIdx.foldl (fun s x => s.retireAt p (t + x.2) issue x.1) s

/-- An entry arrives. One of another context retires the whole window first, in its own cycle (log 31); a full window retires its
oldest; a window of one entry merges nothing (R217). -/
def State.saArrive (p : Nat) (e : SaEntry) (s : State) : State :=
  let sa := (s.coreAt p).sa
  let other := sa.window.any fun x => x.ctx != e.ctx
  let s := if other then sa.window.foldl (fun s x => s.retireAt p s.now e.issue x) s else s
  let win := if other then [] else sa.window
  if sa.w ≠ 1 ∧ win.any (saMerges e) then
    s.updCore p fun c => { c with sa := { c.sa with window := listMod (saMerges e) (fun x => { x with val := saApply e.op e.ty x.val e.val }) win } }
  else
    let full := decide (sa.w ≤ win.length)
    let s := if full then s.retireFrom p s.now e.issue (win.take 1) else s
    s.updCore p fun c => { c with sa := { c.sa with window := (if full then win.drop 1 else win) ++ [e] } }

/-- R215. -/
def execSaEntryArrive (p : Nat) (e : SaEntry) (s : State) : Host.Outcome State Fault Refusal := .next (s.saArrive p e)

/-- R215. The element is read and written in the perform cycle. A write over the source of a link command that is not locally
complete is a data race (R272). -/
def execSaRetirePerform (p : Nat) (e : SaEntry) (s : State) : Host.Outcome State Fault Refusal :=
  let a := saElem e
  if s.sourceRace 1 [(a, 4)] then .fault .dataRace
  else
  let v := saApply e.op e.ty (BitVec.ofNat 32 (readLe s.mem a 4)) e.val
  .next (s.storeCellsAt p e.ctx 3 (fun x => { sector := x, bundle := e.bundle, scyc := e.scyc, key := none }) (cellsAt a (leBytes 4 v.toNat)))

/-! ## Commands (R207, R216 to R218) -/

/-- Cycles of the engine that a command takes from its start. -/
def State.saCycles (s : State) (c : SaCmd) : Nat :=
  let sa := (s.coreAt c.core).sa
  if c.flush then sa.window.length
  else match c.win with
    | some n => sa.window.length - n
    | none => c.entries.length

/-- A command that only wakes the engine. -/
def saWake (p : Nat) : SaCmd :=
  { core := p, ctx := 0, entries := [], flush := false, win := none, ac := 0, bundle := 0, scyc := 0, issue := 0, start := 0, stream := 0, release := 0
    dropped := 0, firstDropped := 0 }

/-- A command starts: entries arrive one per cycle, an index at or beyond TLEN is dropped and counted; a flush or a
smaller window retires the oldest. -/
def State.startSa (c : SaCmd) (s : State) : State :=
  let p := c.core
  let n := s.saCycles c
  let out := c.entries.filter fun e => decide (e.tlen ≤ e.idx)
  let c := { c with start := s.now, stream := s.now + n, release := s.now + n + 8, dropped := out.length
                    firstDropped := (out.head?.map fun (e : SaEntry) => e.idx).getD 0 }
  let s : State := c.entries.zipIdx.foldl (fun (t : State) (x : SaEntry × Nat) =>
    if x.1.tlen ≤ x.1.idx then t else t.scheduleAs (s.now + x.2) phLand c.issue (.saEntryArrive p x.1)) s
  let win := (s.coreAt p).sa.window
  let retires := c.flush || c.win.isSome
  let s := if retires then s.retireFrom p s.now c.issue (win.take n) else s
  let s := s.updCore p fun k => { k with sa := { k.sa with
    streamEnd := c.stream
    window := if retires then win.drop n else k.sa.window
    w := c.win.getD k.sa.w } }
  s.scheduleAs c.stream phLand c.issue (.sarunRelease c)

/-- The engine takes the first command that does not pause, once its cycle has come and the stream has ended. -/
def State.kickSa (p : Nat) (s : State) : State :=
  let c := s.coreAt p
  if s.now < c.sa.streamEnd then s
  else match c.sa.queue.find? (fun q => !c.pauses q.ctx) with
  | none => s
  | some q =>
    if s.now < q.start then s.schedule q.start phLand (.sarunRelease (saWake p))
    else (s.updCore p fun c => { c with sa := { c.sa with queue := c.sa.queue.erase q } }).startSa q

def State.enqueueSa (c : SaCmd) (s : State) : State :=
  (s.updCore c.core fun k => { k with sa := { k.sa with queue := k.sa.queue ++ [c] } }).kickSa c.core

/-- Entries of the queue taken (R207). -/
def State.saRoom (s : State) : Verdict :=
  let n := s.core.sa.queue.length + (s.agenda.filter fun d => match d.ev with
    | .sarunRelease c => c.core == s.core.phys && !isSaWake c
    | _ => false).length
  if n < Config.saQueue then .go else .hold { cause := 3, blocks := true }

def State.saCmd (s : State) (es : List SaEntry) (flush : Bool) (win : Option Nat) (ac : Nat) : SaCmd :=
  { core := s.core.phys, ctx := s.core.ctx.id, entries := es.map fun e => { e with issue := s.issueSeq }, flush := flush, win := win
    ac := ac, bundle := s.core.ctx.flow.bundle, scyc := s.scyc, issue := s.issueSeq
    start := s.now, stream := 0, release := 0, dropped := 0, firstDropped := 0 }

/-- Entries of the index and value arrays as they stand (R211). -/
def State.saArrays (s : State) (w : Words) : List SaEntry :=
  let u := unitBase s.core.phys
  let ty : SaTy := if (w 5).getLsbD 2 then .i32 else .f32
  (List.range (saCount w)).map fun i =>
    { idx := readLe s.mem (u + (addrOf (w 2)).offset.toNat + 4 * i) 4
      val := BitVec.ofNat 32 (readLe s.mem (u + (addrOf (w 3)).offset.toNat + 4 * i) 4)
      op := saOpOf (w 5), ty := ty, base := u + (saTarget w).offset.toNat, tlen := saTlen w, ctx := s.core.ctx.id
      issue := s.issueSeq, bundle := s.core.ctx.flow.bundle, scyc := s.scyc }

/-- R216. A commit point. -/
def execSarun (g : Gate) (n : Fin 2) (s : State) : Host.Outcome State Fault Refusal :=
  let w := s.core.ctx.stagedSet 1 n.val
  s.slot (!s.core.ctx.gate0 g) (capBit 28)
    (fun s =>
      (Verdict.require (sarunOk w) (s.engineFault 0x0701 3)).andThen fun _ =>
      (s.saSides [saTargetSide w, (false, addrOf (w 2), 4 * saCount w, 64), (false, addrOf (w 3), 4 * saCount w, 64)]).andThen fun _ =>
      s.saRoom)
    fun s => ((s.enqueueSa (s.saCmd (s.saArrays w) false none (saAc w))).post .commitPoint).engineStart

/-- Entries already held for the bay's commit, and those of the group's earlier slots. -/
def postedEnq (l : List Post) : List SaEntry :=
  l.flatMap fun p => match p with
    | .enq es => es
    | _ => []

/-- R216. -/
def execSaenq (g : Gate) (m : Fin 8) (i v : Fin 32) (o : SaOp) (t : SaTy) (s : State) : Host.Outcome State Fault Refusal :=
  let x := s.core.ctx
  let am := x.active g m
  let w := x.stagedSet 1 0
  let ls := (List.range 128).filter fun l => am.getLsbD l
  s.slot (am == 0) (capBit 28 ||| laneNeed (x.rgm m))
    (fun s =>
      (Verdict.require (saTargetOk w) (s.engineFault 0x0701 3)).andThen fun _ =>
      (s.saSides [saTargetSide w]).andThen fun _ =>
      Verdict.require (decide (x.enq.length + (postedEnq s.core.ctx.post).length + ls.length ≤ Config.enqueueEntries)) (s.engineFault 0x0704 3))
    fun s =>
      (s.post (.enq (ls.map fun l =>
        { idx := (lane (x.rv i.val) l).toNat, val := lane (x.rv v.val) l, op := o, ty := t
          base := unitBase s.core.phys + (saTarget w).offset.toNat, tlen := saTlen w, ctx := x.id, issue := s.issueSeq, bundle := x.flow.bundle, scyc := s.scyc }))).engineStart

/-- R216. DESIGN CHOICE: a saflush names no staging set, and has alias class 0 (R152, log 31). -/
def execSaflush (g : Gate) (s : State) : Host.Outcome State Fault Refusal :=
  s.slot (!s.core.ctx.gate0 g) (capBit 28) (fun s => s.saRoom)
    fun s => (s.enqueueSa (s.saCmd [] true none 0)).engineStart

/-- R217. DESIGN CHOICE: a sawin names no staging set, and has alias class 0 (R152, log 31). -/
def execSawin (g : Gate) (n : Fin 128) (s : State) : Host.Outcome State Fault Refusal :=
  s.slot (!s.core.ctx.gate0 g) (capBit 28) (fun s => s.saRoom)
    fun s => (s.enqueueSa (s.saCmd [] false (some n.val) 0)).engineStart

/-- R218. The event comes at the stream's end, where the next command starts, and again at the release cycle. -/
def execSarunRelease (c : SaCmd) (s : State) : Host.Outcome State Fault Refusal :=
  if isSaWake c then .next (s.kickSa c.core)
  else if s.now < c.release then .next ((s.scheduleAs c.release phLand c.issue (.sarunRelease c)).kickSa c.core)
  else if c.dropped = 0 then .next s
  else
    let r := { s.record c.core c.ctx 0x0705 3 3 0 (BitVec.ofNat 64 c.firstDropped) (BitVec.ofNat 64 c.dropped) none with bundle := c.bundle, scyc := c.scyc }
    .next ((s.addRecord r).doom c.core c.ctx r)

end Sys2Proof.Machine
end

