-- ==== Sys2Proof/Machine/Commit.lean ====
section
/-! DEFINITION. What happens between groups: landings of register results (R86 to R92), commits (R56 to R58, R72), the
end of a group with its loops, transfers and roller (R61 to R71), and fault injection (R316, R317). -/

namespace Sys2Proof.Machine

/-! ## Landings -/

/-- Whether a result is held at the controllers: its frame moves (R246). -/
def State.landingHeld (s : State) (r : Landing) : Bool := s.heldByMove ((r.frame.map frameBase).toList)

/-- R86, R87. -/
def execRegisterResultLand (r : Landing) (s : State) : Host.Outcome State Fault Refusal :=
  if s.landingHeld r then .next (s.scheduleAs (s.now + 1) phReg r.seq (.registerResultLand r)) else .next (s.landResult r)

/-- R91. The entry leaves the dust sheet. -/
def execDustSheetLand (r : Landing) (s : State) : Host.Outcome State Fault Refusal :=
  if s.landingHeld r then .next (s.scheduleAs (s.now + 1) phReg r.seq (.dustSheetLand r)) else .next (s.landResult r)

/-- What a commit keeps of a sector. -/
def noteIn (c : Commit) (a : Nat) : GateNote :=
  (c.notes.find? fun n => n.sector == a).getD { sector := a, bundle := 0, scyc := 0, key := none }

/-- R148. Bytes of a frame that moves wait for the move's end, before the writes of that cycle (R246). A write over the source of a link command that is not locally complete is a data race (R272, R281), and so is
one over a chunk of an armed destination whose flag is still to come (R281). -/
def execGatedCommitPerform (c : Commit) (s : State) : Host.Outcome State Fault Refusal :=
  let held := c.bytes.filter fun x => s.heldByMove [x.1]
  let due := c.bytes.filter fun x => !s.heldByMove [x.1]
  if s.sourceRace 2 (due.map fun x => (x.1, 1)) || (due.any fun x => s.chunkRace x.1 1 == .race) then .fault .dataRace
  else
    let t := s.storeCellsAt c.core c.ctx 0 (noteIn c) due
    .next (if held.isEmpty then t else t.schedule (s.now + 1) phExternal (.gatedCommitPerform { c with bytes := held }))

/-! ## Commits (R56, R58, R72) -/

/-- What the commit publishes begins. A freed bank's contents are discarded, and its ALLOC and FREEING fall (R199). DESIGN CHOICE: no
rule says what an accrd in flight samples of such a bank; here it reads +0 (log 27). -/
def State.publishOne (q : Pub) (s : State) : State :=
  match q with
  | .ret t => s.beginReturn s.core.phys (t + 64 * (((s.core.board[t]?).map (·.launch)).getD 0))
  | .unswatch e => s.beginUnswatch e
  | .share p k t e => s.beginShare p k t e
  | .unshare e p t => s.beginUnshare e p t
  | .clean e z => s.beginClean e z
  | .bankFree b => s.onCore fun c => { c with banks := vmod c.banks b (· &&& 0xFC), acc := c.acc.filter (fun r => r.bank != b) }
  | .arm l => s.arm l

/-- Gated bytes are on their way to perform at m + 2. -/
def State.commitGate (s : State) : State :=
  let x := s.core.ctx
  if x.gate.isEmpty then s
  else s.schedule (s.now + 2) phCommit (.gatedCommitPerform { core := s.core.phys, ctx := x.id, bytes := x.gate, notes := x.gateNotes })

/-- Enqueued entries become a command of the scatter-accumulate engine (R216). DESIGN CHOICE: no rule makes a commit wait for room in
the engine's queue, nor gives these entries an alias class; here they enter whatever the queue holds, and their class is 0 (log 31). -/
def State.commitEnq (s : State) : State :=
  let es := s.core.ctx.enq
  if es.isEmpty then s else s.enqueueSa (s.saCmd es false none 0)

/-- A commit of the issuing context in this cycle. What was provisional is published and no rollback undoes it. -/
def State.commit (s : State) : State :=
  let s := s.commitGate
  let s := (s.onCore (Core.releaseRings s.core.ctx.id s.now)).fillRings s.core.phys
  let s := s.onPart s.core.partNo s.core.ctx.tableView
  let s := s.core.ctx.bay.publish.foldl (fun (t : State) q => t.publishOne q) s
  s.commitEnq.onCtx fun x =>
    { x with
      gate := [], gateNotes := [], enq := [], journal := [], bay := { x.bay with publish := [] }
      lag := (x.lag.filter fun l => decide (s.now < l.2.2)) ++ x.shadow.board.map fun l => (l.1, l.2, s.now + 2)
      shadow := { x.shadow with board := [], banks := [], table := [], reserved := [] } }

/-- A new bay: its shadow holds the state that its entry group finds (R56). -/
def Ctx.openBay (x : Ctx) : Ctx :=
  { x with
    bay := { x.bay with serial := x.bay.serial + 1, groups := 0, first := none, seen := [], redo := false, swapped := false }
    shadow :=
      { regs := x.regs, spill := x.spill, bundle := x.flow.bundle, pos := x.flow.pos, xfer := x.flow.xfer, roll := x.flow.roll
        hold := x.flow.hold, rings := [], roles := none, board := [], banks := [], table := [], reserved := [] } }

/-! ## Special registers (R83, R84) -/

/-- A wrs of a register of the shadowed set: truncated to its width; a domain's PH is cleared (R53). -/
def Regs.writeSpecial (n : Nat) (v : Word) (r : Regs) : Regs :=
  if n = 0x12 then { r with lnk := v }
  else if n = 0x13 then { r with rrb := v.setWidth 4 }
  else if n = 0x14 then { r with skim := v }
  else if 0x20 ≤ n ∧ n < 0x28 then { r with dm := r.dm.setIfInBounds (n - 0x20) ((v.setWidth 5).setWidth 6) }
  else if 0x30 ≤ n ∧ n < 0x34 then { r with lc := r.lc.setIfInBounds (n - 0x30) v }
  else if 0x34 ≤ n ∧ n < 0x38 then { r with lsa := r.lsa.setIfInBounds (n - 0x34) (v.setWidth 14) }
  else if 0x38 ≤ n ∧ n < 0x3C then { r with lea := r.lea.setIfInBounds (n - 0x38) (v.setWidth 14) }
  else r

/-! ## Fault injection (R316, R317) -/

/-- finj after a write: MODE, BIT, COL, ROW, NTH and SECTOR. -/
def finjWritten (v : Word) : Word := v &&& BitVec.ofNat 64 (2 ^ 39 - 1)

/-- MODE 0 drops an injection that has not fired. -/
def State.finjOff (p k : Nat) (v : Word) (s : State) : State :=
  s.updCtx p k fun x => { x with cfg := { x.cfg with finj := finjWritten v, finjLeft := 0 } }

/-- MODE 1 arms an injection for a later mma. -/
def State.finjArray (p k : Nat) (v : Word) (s : State) : State :=
  s.updCtx p k fun x => { x with cfg := { x.cfg with finj := finjWritten v, finjLeft := finjNth v } }

/-- MODE 2 flips a bit of a check word, and has fired. -/
def State.finjSector (p k : Nat) (v : Word) (s : State) : State :=
  let a := unitBase p + 64 * finjSectorNo v
  let bad := setSyndrome s.bad a (syndrome s.bad a ^^^ BitVec.ofNat 32 (2 ^ finjBit v))
  ({ s with bad := bad } : State).updCtx p k fun x =>
    { x with cfg := { x.cfg with finj := (finjWritten v &&& ~~~3#64) ||| BitVec.ofNat 64 (2 ^ 63), finjLeft := 0 } }

/-- R317. -/
def execFinjOff (core ctx : Nat) (v : Word) (s : State) : Host.Outcome State Fault Refusal := .next (s.finjOff core ctx v)

/-- R317. -/
def execFinjArray (core ctx : Nat) (v : Word) (s : State) : Host.Outcome State Fault Refusal := .next (s.finjArray core ctx v)

/-- R317. -/
def execFinjSector (core ctx : Nat) (v : Word) (s : State) : Host.Outcome State Fault Refusal := .next (s.finjSector core ctx v)

/-! ## Effects that a group's end performs -/

/-- Cells put into a gate buffer, one byte per address: of two for one byte the later stands (R149). -/
def gatePut (g : List Host.Cell) (cs : List Host.Cell) : List Host.Cell :=
  cs.foldl (fun g c => g.filter (fun o => o.1 != c.1) ++ [c]) g

/-- A spill slot written whole holds no error any more (R151). -/
def spillRepair (e : List (Nat × Bool)) (cs : List Host.Cell) : List (Nat × Bool) :=
  e.filter fun x => !(List.range 8).all fun i => cs.any fun c => c.1 == 8 * x.1 + i

/-- Keep an entry's value at its first change in the bay (R169). -/
def Ctx.shadowEntry (t : Nat) (e : TEntry) (x : Ctx) : Ctx :=
  if x.shadow.board.any (fun y => y.1 == t) then x
  else { x with shadow := { x.shadow with board := (t, e) :: x.shadow.board } }

/-- A bank's word, kept at its first change in the bay; rows of a new bank are +0 (R198, R204). -/
def Core.setBank (b : Nat) (w : Byte) (zero : Bool) (c : Core) : Core :=
  let old := c.bankWord b
  let keep := fun (x : Ctx) =>
    if x.shadow.banks.any (fun y => y.1 == b) then x
    else { x with shadow := { x.shadow with banks := (b, old) :: x.shadow.banks } }
  let c := c.updCtx c.ctx.id keep
  { c with banks := c.banks.setIfInBounds b w, acc := if zero then c.acc.filter (fun r => r.bank != b) else c.acc }

/-- Number of a staging set among the 13 (R205, R206, R270, R70, R295). -/
def stgSet (e : StgId) : Nat :=
  match e.eng.val with
  | 0 => e.set.val
  | 1 => 4 + e.set.val % 2
  | 2 => 6 + e.set.val
  | 3 => 10 + e.set.val % 2
  | _ => 12

/-- One effect of a slot. Those of the flow of issue, of commits and of stops are carried out by the end of the group. -/
def State.applyPost (q : Post) (s : State) : State :=
  match q with
  | .stg e v => s.onCtx fun x => { x with staging := vmod x.staging (stgSet e) fun w => w.setIfInBounds e.word.val v }
  | .gm d v => s.onCtx fun x => { x with regs := { x.regs with gm := x.regs.gm.setIfInBounds d v } }
  | .sreg _ _ => s
  | .finj v =>
    match finjMode v with
    | 0 => s.finjOff s.core.phys s.core.ctx.id v
    | 1 => s.finjArray s.core.phys s.core.ctx.id v
    | _ => s.finjSector s.core.phys s.core.ctx.id v
  | .gate cs ns => s.onCtx fun x =>
    { x with gate := gatePut x.gate cs, gateNotes := (x.gateNotes.filter fun o => !ns.any fun n => n.sector == o.sector) ++ ns }
  | .spill cs => s.onCtx fun x => { x with spill := writeCells x.spill cs, spillErr := spillRepair x.spillErr cs }
  | .board t e => (s.onCtx (Ctx.shadowEntry t ((s.core.board[t]?).getD TEntry.empty))).setEntry s.core.phys t e
  | .leave t e => s.setEntry s.core.phys t e
  | .table l =>
    s.onCtx fun x => { x with shadow := { x.shadow with table := x.shadow.table ++ [l] } }
  | .publish p => s.onCtx fun x => { x with bay := { x.bay with publish := x.bay.publish ++ [p] } }
  | .reserve p t =>
    (s.updCore p fun c => { c with reserved := t :: c.reserved }).onCtx fun x =>
      { x with shadow := { x.shadow with reserved := (p, t) :: x.shadow.reserved } }
  | .shares a b => s.takeShares a b
  | .sent l => s.sent l
  | .bank b w z => s.onCore (Core.setBank b w z)
  | .pop q n r => s.onCore (Core.pop s.core.ctx.id q n r)
  | .push q n => s.onCore (Core.push s.core.ctx.id q n)
  | .ringReset q => s.onCore (Core.ringReset s.core.ctx.id q)
  | .swap => s.beginSwap
  | .enq es => s.onCtx fun x => { x with enq := x.enq ++ es }
  | .commitPoint => s.onFlow fun f => { f with needMark := true }
  | .lend _ => s
  | .lendRemote _ _ _ => s
  | .mark => s
  | .flush => s
  | .halt => s
  | .xfer _ => s
  | .loop _ _ => s
  | .roll _ => s
  | .yield => s
  | .hold _ => s
  | .sync _ => s
  | .late _ => s
  | .trapAfter _ => s
  | .debugAfter _ => s

/-! ## Loops (R66 to R69) -/

/-- The end-of-body step at bundle b on active loops that end there, innermost first: the registers, the next fetch of a
wrap, and the latest exit cycle of an .ilk loop that ended. -/
def bodyEndLoops (b : Nat) (r : Regs) : List Loop → Regs × Option Nat × Option Nat
  | [] => ({ r with loops := [] }, none, none)
  | l :: ls =>
    if l.last ≠ b then ({ r with loops := l :: ls }, none, none)
    else
      let lv := ls.length
      let r := if l.rot then
          { r with rrb := r.rrb - 1, p := r.p.setIfInBounds (physOf (r.rrb - 1) 16) (BitVec.allOnes 128)
                   tp := r.tp.setIfInBounds (physOf (r.rrb - 1) 16) 0 }
        else r
      let n := (r.lc[lv]?).getD 0
      if n.toNat ≤ 1 then
        let u := bodyEndLoops b { r with lc := r.lc.setIfInBounds lv 0 } ls
        (u.1, u.2.1, if l.ilk then some (max l.exit (u.2.2.getD 0)) else u.2.2)
      else
        let first := ((r.lsa[lv]?).getD 0).toNat
        let last := ((r.lea[lv]?).getD 0).toNat
        ({ r with lc := r.lc.setIfInBounds lv (n - 1), loops := { l with first := first, last := last } :: ls }, some first, none)

/-- The end-of-body step of a context: loops inside the one that ends here stay active where it wraps. -/
def Regs.bodyEnd (b : Nat) (r : Regs) : Regs × Option Nat × Option Nat :=
  let inner := r.loops.takeWhile fun l => l.last != b
  let outer := r.loops.drop inner.length
  if outer.isEmpty then (r, none, none)
  else
    let u := bodyEndLoops b r outer
    if u.1.loops.length = outer.length then ({ u.1 with loops := inner ++ u.1.loops }, u.2) else u

/-- Levels from n on end (R66, R69): their counts, the loops that remain, and the exit cycle of an .ilk loop among them. -/
def Regs.endLevels (n : Nat) (r : Regs) : Regs × Option Nat :=
  let gone := r.loops.take (r.loops.length - n)
  ({ r with
     lc := (List.range 4).foldl (fun (v : Vector Word 4) i => if n ≤ i ∧ i < r.loops.length then v.setIfInBounds i 0 else v) r.lc
     loops := r.loops.drop (r.loops.length - n) },
   (gone.filter fun l => l.ilk).foldl (fun o l => some (max l.exit (o.getD 0))) none)

/-- The outermost level that a transfer to a bundle leaves. -/
def Regs.leftBy (target : Nat) (r : Regs) : Nat :=
  (r.loops.reverse.findIdx? fun l => decide (target < l.first) || decide (l.last < target)).getD r.loops.length

/-- Fetch goes to a transfer's target (R62, R66, R69). -/
def Ctx.transferTo (target : Nat) (brk : Option Nat) (x : Ctx) : Ctx × Option Nat :=
  let n := min (x.regs.leftBy target) (brk.getD x.regs.loops.length)
  let u := x.regs.endLevels n
  ({ x with regs := u.1, flow := { x.flow with bundle := target, pos := 0, xfer := none } }, u.2)

/-- A loop begins: its registers; its body is skipped for a count of 0 (R66, R68). -/
def Ctx.beginLoop (now : Nat) (l : Loop) (count : Word) (x : Ctx) : Ctx :=
  let lv := x.regs.loops.length
  let r := { x.regs with
    lc := x.regs.lc.setIfInBounds lv count, lsa := x.regs.lsa.setIfInBounds lv (BitVec.ofNat 14 l.first)
    lea := x.regs.lea.setIfInBounds lv (BitVec.ofNat 14 l.last) }
  if count = 0 then { x with regs := r, flow := { x.flow with bundle := l.last + 1, pos := 0 } }
  else
    let g := groupsIn x.istore l.first (l.last + 1 - l.first)
    let l := { l with exit := now + 1 + count.toNat * (g + x.cfg.ilkpad.toNat) }
    { x with regs := { r with loops := l :: x.regs.loops }, flow := { x.flow with bundle := l.first, pos := 0 } }

/-- The group after an .ilk loop: the wait for its cycle, or the overrun, whose episode ends as that group issues (R52,
R68). -/
def State.leaveIlk (p k : Nat) (s : State) : State :=
  let x := s.ctxAt p k
  match x.flow.ilkExit with
  | none => s
  | some e =>
    if s.now + 1 ≤ e then s.updCtx p k fun x => { x with flow := { x.flow with nextAt := e } }
    else
      let v := s.now + 1 - e
      let s := s.updCtx p k fun x => { x with flow := { x.flow with ilkExit := none } }
      if x.cfg.free then s
      else s.updCtx p k fun x => { x with cfg := { x.cfg with dv := x.cfg.dv + v }, flow := { x.flow with snag := some (6, v) } }

/-- R68. -/
def execIlkLoopExit (core ctx : Nat) (s : State) : Host.Outcome State Fault Refusal := .next (s.leaveIlk core ctx)

/-- Set the exit cycle to wait for. -/
def Ctx.waitExit (e : Option Nat) (x : Ctx) : Ctx := if e.isSome then { x with flow := { x.flow with ilkExit := e } } else x

/-- A taken transfer reaches its target (R62). -/
def State.branchTransfer (p k target : Nat) (brk : Option Nat) (s : State) : State :=
  let u := (s.ctxAt p k).transferTo target brk
  s.updCtx p k fun _ => u.1.waitExit u.2

/-- R62. -/
def execBranchTransfer (core ctx target : Nat) (s : State) : Host.Outcome State Fault Refusal :=
  .next ((s.branchTransfer core ctx target (((s.ctxAt core ctx).flow.xfer).bind (·.brk))).leaveIlk core ctx)

/-! ## The roller (R71) -/

/-- offset(A) += D; a stride of 0 leaves the register unchanged. -/
def Regs.stepAddr (n : Fin 16) (d : BitVec 20) (r : Regs) : Regs :=
  if d = 0 then r else { r with a := vmod r.a n.val fun a => { a with offset := a.offset + d.signExtend 32 } }

/-- Levels at the end of an innermost iteration, innermost first; true when the last one is complete. -/
def stepLevels (r : Regs) : List RollLevel → Regs × List RollLevel × Bool
  | [] => (r, [], true)
  | l :: ls =>
    let r := (r.stepAddr l.a1 l.d1).stepAddr l.a2 l.d2
    if l.iter + 1 < l.cnt then (r, { l with iter := l.iter + 1 } :: ls, false)
    else
      let u := stepLevels r ls
      (u.1, { l with iter := 0 } :: u.2.1, u.2.2)

/-- Innermost iteration that runs, and its level's count. -/
def Roll.iter (r : Roll) : Nat := (r.levels.head?.map (·.iter)).getD 0
def Roll.count (r : Roll) : Nat := (r.levels.head?.map (·.cnt)).getD 1

/-- Whether an iteration is skipped by its skim bit, read as it starts. -/
def Roll.skips (skim : Word) (r : Roll) : Bool :=
  r.useSkim && decide (1 ≤ r.iter) && decide (r.iter ≤ 64) && !skim.getLsbD (r.iter - 1)

/-- Whether the block's group g is suppressed: a leading group after the first iteration, a trailing one before the last,
any but a trailing one of the last iteration in a skipped iteration. -/
def Roll.suppresses (r : Roll) : Bool :=
  let lastIter := r.iter + 1 == r.count
  let trailing := decide (r.groups ≤ r.g + r.trail)
  (decide (r.g < r.lead) && r.iter != 0) || (trailing && !lastIter) || (r.skip && !(trailing && lastIter))

/-- The end of an innermost iteration: address steps, then the next iteration, or none. Its skim bit is read as it begins. -/
def Ctx.rollIterationEnd (x : Ctx) : Ctx :=
  match x.flow.roll with
  | none => x
  | some r =>
    let u := stepLevels x.regs r.levels
    { x with regs := u.1, flow := { x.flow with bundle := r.first, pos := 0, roll := some { r with levels := u.2.1, g := 0, skip := false } } }

/-- Whether the iteration that ends is the last of the roll. -/
def Roll.isLast (r : Roll) : Bool := r.levels.all fun l => l.iter + 1 == l.cnt

/-- The main stream resumes at the bundle after the block, which may end a loop's body. -/
def Ctx.rollComplete (x : Ctx) : Ctx :=
  match x.flow.roll with
  | none => x
  | some r =>
    let u := x.regs.bodyEnd (r.first + r.length - 1)
    ({ x with regs := u.1, flow := { x.flow with bundle := u.2.1.getD (r.first + r.length), pos := 0, roll := none } } : Ctx).waitExit u.2.2

/-- R71. -/
def execRollIterationEnd (core ctx : Nat) (s : State) : Host.Outcome State Fault Refusal :=
  .next (s.updCtx core ctx Ctx.rollIterationEnd)

/-- R71. -/
def execRollComplete (core ctx : Nat) (s : State) : Host.Outcome State Fault Refusal :=
  .next ((s.updCtx core ctx Ctx.rollComplete).leaveIlk core ctx)

/-- The roller goes on behind a group of its block that issued or was suppressed. -/
def Ctx.rollNext (x : Ctx) : Ctx :=
  match x.flow.roll with
  | none => x
  | some r =>
    if r.g + 1 < r.groups then { x with flow := { x.flow with roll := some { r with g := r.g + 1 } } }
    else if r.isLast then x.rollIterationEnd.rollComplete
    else x.rollIterationEnd

/-! ## Stops after a group (R74, R340) -/

/-- A parked context is ready again (R220). -/
def Ctx.readied (x : Ctx) : Ctx := if x.st = .parked then { x with st := .running } else x

/-- The core goes on to its free contexts, as for a group first held at cycle h. -/
def State.readyFree (p k h : Nat) (s : State) : State := (s.updCore p fun c => c.mapCtx Ctx.readied).giveUp p k h

/-- Debug stop whose first idle cycle is b: results in flight to the dust sheet, free contexts ready (R90, R220, R340). -/
def State.debugAt (p k b : Nat) (r : Option ErrRecord) (s : State) : State :=
  let s := s.endSnag p k
  let s := match r with
    | none => s
    | some r => s.addRecord r
  let s := s.capture p k (b - 1)
  let s := s.updCtx p k fun x => { x with st := .debug, flow := { x.flow with stopB := b, step := false } }
  let s := s.updCore p fun c => { c with dblk := { c.dblk with stopped := c.dblk.stopped ||| BitVec.ofNat 4 (2 ^ k) } }
  s.readyFree p k b

/-! ## The end of a group -/

/-- Where the stream goes on behind the last slot of the group. -/
def Ctx.sequential (x : Ctx) : Nat × Nat := if x.endPos = 3 then (x.endBundle + 1, 0) else (x.endBundle, x.endPos + 1)

/-- The first of a list of effects that f picks. -/
def pick {α : Type} (f : Post → Option α) (ps : List Post) : Option α := (ps.filterMap f).head?

def loopOf : Post → Option (Loop × Word)
  | .loop l c => some (l, c)
  | _ => none

def xferOf : Post → Option Xfer
  | .xfer x => some x
  | _ => none

def rollOf? : Post → Option Roll
  | .roll r => some r
  | _ => none

def holdOf : Post → Option Nat
  | .hold n => some n
  | _ => none

def syncOf : Post → Option SyncWait
  | .sync w => some w
  | _ => none

def trapOf : Post → Option ErrRecord
  | .trapAfter r => some r
  | _ => none

def debugOf : Post → Option ErrRecord
  | .debugAfter r => some r
  | _ => none

/-- The hold region behind a group (R61). -/
def holdAfter (cur : Option (Nat × Nat)) (new : Option Nat) : Option (Nat × Nat) :=
  let left := max ((cur.map (·.1)).getD 0 - 1) (new.getD 0 - 1)
  if left = 0 then none else some (left, (cur.map (·.2)).getD 0 + 1)

/-- A transfer under way after one more of its delay groups. -/
def Ctx.delayGroup (x : Ctx) : Ctx :=
  match x.flow.xfer with
  | none => x
  | some t =>
    let r := if t.call ∧ t.left = 1 then { x.regs with lnk := BitVec.ofNat 64 (x.endBundle + 1) } else x.regs
    { x with regs := r, flow := { x.flow with xfer := some { t with left := t.left - 1 } } }

/-- The stream behind a group that stands outside the roller: the end of a loop's body, a loop that begins, a transfer
that counts its delay groups. -/
def Ctx.advance (now : Nat) (ps : List Post) (x : Ctx) : Ctx :=
  let n := x.sequential
  let u := if x.endPos = 3 then x.regs.bodyEnd x.endBundle else (x.regs, none, none)
  let x := ({ x with regs := u.1, flow := { x.flow with bundle := u.2.1.getD n.1, pos := if u.2.1.isSome then 0 else n.2 } } : Ctx).waitExit u.2.2
  let x := match pick loopOf ps with
    | none => x
    | some (l, c) => x.beginLoop now l c
  let x := x.delayGroup
  match pick xferOf ps with
  | none => x
  | some t => { x with flow := { x.flow with xfer := some t } }

/-- The roller takes over: nothing issues in the next cycle (R71). -/
def Ctx.beginRoll (now : Nat) (r : Roll) (x : Ctx) : Ctx :=
  { x with flow := { x.flow with roll := some r, bundle := r.first, pos := 0, nextAt := now + 2 } }

/-- The stream and the counters behind a group. -/
def Ctx.afterGroup (now : Nat) (ps : List Post) (x : Ctx) : Ctx :=
  let start := x.flow.bundle
  let x := if x.flow.roll.isSome then
      ({ x with flow := { x.flow with bundle := x.sequential.1, pos := x.sequential.2 } } : Ctx).rollNext
    else x.advance now ps
  let x := { x with
    flow := { x.flow with nextAt := now + 1, hold := holdAfter x.flow.hold (pick holdOf ps), last := start, resumed := false }
    bay := { x.bay with groups := x.bay.groups + 1, first := x.bay.first.orElse fun _ => some now } }
  match pick rollOf? ps with
  | none => x
  | some r => x.beginRoll now r

/-- Trowels that leave behind the group's implied flush (R172, R173). -/
def State.departs (q : Post) (s : State) : State :=
  match q with
  | .lend m => s.beginLend m
  | .lendRemote t g f => s.beginRemote t g f
  | _ => s

/-- An eviction stop comes at the group boundary behind a commit (R224). -/
def State.stopsAgain (s : State) : State :=
  s.onFlow fun f => match f.evict with
    | none => f
    | some p => { f with evict := none, stopAt := some p }

/-- Special registers take their wrs values behind the stream's own step in the group: seen from the next group on (R84). -/
def Ctx.writeSpecials (ps : List Post) (x : Ctx) : Ctx :=
  { x with
    regs := ps.foldl (fun r q => match q with
      | .sreg n v => r.writeSpecial n v
      | _ => r) x.regs }

/-- The commits of a group: an implied flush with its departures; a mark, a sync or a halt (R56, R58, R72). -/
def State.commits (ps : List Post) (s : State) : State :=
  let s := if ps.contains .flush then s.commit else s
  let s := ps.foldl (fun (t : State) q => t.departs q) s
  if ps.contains .mark || (pick syncOf ps).isSome then (s.commit.onCtx Ctx.openBay).stopsAgain
  else if ps.contains .halt then s.commit.stopsAgain
  else s

/-- The transfer whose delay groups have issued reaches its target. DESIGN CHOICE: no rule says what a roll in the second delay group of
a taken transfer replays; here the roller stays active and the groups from the target on are its block (log 20). -/
def State.transfers (s : State) : State :=
  match s.core.ctx.flow.xfer with
  | none => s
  | some t => if t.left = 0 then s.branchTransfer s.core.phys s.core.ctx.id t.target t.brk else s

/-- A launch whose bound contexts have all halted retires in the next harvest slot (R72, R323, R330). -/
def State.retireCheck (p k : Nat) (s : State) : State :=
  let c := s.coreAt p
  match s.launchOf c (c.ctxAt k) with
  | none => s
  | some l =>
    if l.members.all fun m => (s.ctxAt m.1 m.2.1).st == .halted then
      s.schedule (nextSlot s.now harvestSlot) phLand (.launchRetire c.partNo l.tag)
    else s

/-- What ends or pauses the context's turn behind the group: trap, brk, halt, yield, a sync's wait (R54, R72, R74). -/
def State.turnEnd (ps : List Post) (s : State) : State :=
  let p := s.core.phys
  let k := s.core.ctx.id
  let free := s.core.ctx.cfg.free
  match pick trapOf ps with
  | some r => s.trapAt p k (s.now + 1) r
  | none =>
    if ps.contains .halt then
      let s := (s.onCtx fun x => { x with st := .halted }).retireCheck p k
      if free then s.giveUp p k (s.now + 1) else s.readyFree p k (s.now + 1)
    else
      let s := match pick syncOf ps with
        | none => s
        | some w =>
          let s := s.onFlow fun f => { f with sync := some w }
          if free then (s.onCtx fun x => { x with st := .blocked }).giveUp p k (s.now + 1) else s
      match pick debugOf ps with
      | some r => s.debugAt p k (s.now + 1) (some r)
      | none => if ps.contains .yield then (s.onCtx fun x => { x with st := .blocked }).giveUp p k (s.now + 1) else s

/-- The end of a group whose slots have all executed. -/
def State.endGroup (s : State) : State :=
  let ps := s.core.ctx.post
  let s := s.onCtx fun x => { x with post := [] }
  let s := s.onFlow fun f => { f with needMark := false, ilkExit := none, flush := [], held := none, heldFrom := none }
  let s := ps.foldl (fun (t : State) q => t.applyPost q) s
  let s := ((s.onCtx (Ctx.afterGroup s.now ps)).onCtx (Ctx.writeSpecials ps)).transfers
  let s := (s.commits ps).leaveIlk s.core.phys s.core.ctx.id
  if s.core.ctx.st = .running then s.turnEnd ps else s

end Sys2Proof.Machine
end

