-- ==== Sys2Proof/Machine/Plumb.lean ====
section
/-! DEFINITION. Plumb lines (R53, R54): who waits, when a line completes, the cycle G, the rebase and its limit. -/

namespace Sys2Proof.Machine

/-- Whether a context is stopped, so that its pending cycles are not settled (R228). -/
def Ctx.stopped (x : Ctx) : Bool := x.st == .stopping || x.st == .stopped || x.st == .debug

/-- Whether a context names a line in a valid domain register. -/
def Ctx.names (line : Nat) (x : Ctx) : Bool :=
  x.st != .empty && x.st != .halted && x.regs.dm.toList.any fun d => d.getLsbD 4 && d.toNat % 16 == line

/-- A context that waits at a line that has not completed. -/
def Ctx.waitsAt (line scope : Nat) (x : Ctx) : Bool :=
  match x.flow.sync with
  | none => false
  | some w => w.line == line && w.scope == scope && w.g.isNone

/-- Cores of a partition that a line of a scope joins. -/
def State.lineCores (s : State) (n line scope : Nat) : List Core :=
  s.allCores.filter fun c => c.partNo == n && lineScope c.phys line == scope

/-- Waiting contexts of a line, with their core and their wait. -/
def State.waiters (s : State) (n line scope : Nat) : List (Nat × Ctx × SyncWait) :=
  (s.lineCores n line scope).flatMap fun c => (c.ctxs.filter (Ctx.waitsAt line scope)).filterMap fun x =>
    x.flow.sync.map fun w => (c.phys, x, w)

/-- Whether every member core asserts: a core asserts while one of its contexts waits. -/
def State.lineFull (s : State) (n line scope : Nat) : Bool :=
  (s.lineCores n line scope).all fun c => !c.ctxs.any (Ctx.names line) || c.ctxs.any (Ctx.waitsAt line scope)

/-- Least number of a list. -/
def least : List Nat → Option Nat
  | [] => none
  | a :: r => some (r.foldl min a)

def greatest (l : List Nat) : Nat := l.foldl max 0

/-- Least due of the timetable members that wait. -/
def leastDue (ws : List (Nat × Ctx × SyncWait)) : Option Nat :=
  least ((ws.filter fun m => !m.2.1.cfg.free).map fun m => m.2.2.due)

/-- due of a member: its own, or for a free one the least of the timetable members, or A + 8 (R54). -/
def dueOf (d : Option Nat) (m : Nat × Ctx × SyncWait) : Nat := if m.2.1.cfg.free then d.getD (m.2.2.at_ + 8) else m.2.2.due

/-- The cycle at which the members of a completed line resume. -/
def resumeCycle (ws : List (Nat × Ctx × SyncWait)) : Nat :=
  let d := leastDue ws
  let late := ws.any fun m => decide (dueOf d m ≤ m.2.2.at_)
  let top := greatest (ws.map (dueOf d))
  if late then max top (greatest (ws.map fun m => m.2.2.at_) + 8) else top

/-- SLIP of a waiting member. -/
def State.slipAt (p k : Nat) (s : State) : State :=
  match (s.ctxAt p k).flow.sync with
  | none => s
  | some w => s.trapAt p k s.now { s.record p k 0x0201 3 0 0 0 0 none with bundle := w.bundle }

/-- Every timetable member that waits and is not stopped raises SLIP. -/
def State.slipAll (ws : List (Nat × Ctx × SyncWait)) (s : State) : State :=
  (ws.filter fun m => !m.2.1.cfg.free && !m.2.1.stopped).foldl (fun (t : State) m => t.slipAt m.1 m.2.1.id) s

/-- A line completes when every member core asserts and no waiting member is stopped: G is fixed, or the timetable
members raise SLIP. -/
def State.plumbCheck (n line scope : Nat) (s : State) : State :=
  let ws := s.waiters n line scope
  if ws.isEmpty || !s.lineFull n line scope || ws.any (fun m => m.2.1.stopped) then s
  else
    let g := resumeCycle ws
    let slips := ws.any fun m => !m.2.1.cfg.free && decide (m.2.1.cfg.slack.toNat < g - (leastDue ws).getD g)
    if slips then s.slipAll ws
    else
      let s : State := ws.foldl (fun (t : State) m => t.updCtx m.1 m.2.1.id fun x =>
        { x with flow := { x.flow with sync := x.flow.sync.map fun w => { w with g := some g } } }) s
      s.schedule g phReg (.syncResume n line scope g)

/-- R54. -/
def execPlumbLineComplete (part line scope : Nat) (s : State) : Host.Outcome State Fault Refusal :=
  .next (s.plumbCheck part line scope)

/-- Lines of a partition with a member that waits. -/
def State.waitedLines (s : State) (n : Nat) : List (Nat × Nat) :=
  (s.allCores.filter fun c => c.partNo == n).flatMap fun c => c.ctxs.filterMap fun x =>
    x.flow.sync.bind fun w => if w.g.isNone then some (w.line, w.scope) else none

/-- Each line once. -/
def onceEach (l : List (Nat × Nat)) : List (Nat × Nat) := l.foldl (fun t x => if t.contains x then t else t ++ [x]) []

/-- All lines of a partition after an assertion, or after a member's domains or state changed. -/
def State.plumbCheckAll (n : Nat) (s : State) : State :=
  (onceEach (s.waitedLines n)).foldl (fun (t : State) l => t.plumbCheck n l.1 l.2) s

/-- The wait limit of a timetable member's assertion. -/
def State.armLimit (p k : Nat) (s : State) : State :=
  let x := s.ctxAt p k
  match x.flow.sync with
  | none => s
  | some w =>
    if x.cfg.free then s
    else s.schedule (max s.now (w.due + x.cfg.slack.toNat + 1)) phReg (.syncWaitLimit (s.coreAt p).partNo w.line w.scope)

/-- R54. The members that wait when gcyc reaches min(due) + slack + 1 raise SLIP. -/
def execSyncWaitLimit (part line scope : Nat) (s : State) : Host.Outcome State Fault Refusal :=
  let ws := (s.waiters part line scope).filter fun m => !m.2.1.stopped
  let reached := ws.any fun m => !m.2.1.cfg.free && decide ((leastDue ws).getD 0 + m.2.1.cfg.slack.toNat + 1 ≤ s.now)
  .next (if reached then s.slipAll ws else s)

/-- PH of a domain register changes. -/
def Regs.flipPhase (d : Nat) (r : Regs) : Regs := { r with dm := vmod r.dm d fun v => v ^^^ 0x20#6 }

/-- A member resumes at G: rebase, snag of cause 7, dv, phase (R54). The phase changes with the sync, so the bay that the
sync opened begins with it. -/
def State.resumeMember (p k : Nat) (w : SyncWait) (s : State) : State :=
  let g := s.now
  let s := s.updCtx p k fun x =>
    { x with
      regs := x.regs.flipPhase w.domain, shadow := { x.shadow with regs := x.shadow.regs.flipPhase w.domain }
      flow := { x.flow with sync := none, nextAt := g } }
  if (s.ctxAt p k).cfg.free then s
  else
    let s := s.updCtx p k fun x =>
      { x with cfg := { x.cfg with ttoff := x.cfg.ttoff + BitVec.ofNat 64 (g - w.due), dv := 0 } }
    s.snag p k 7 (g - w.due) w.bundle

/-- R54. Stopped members resume later (R228). -/
def execSyncResume (part line scope g : Nat) (s : State) : Host.Outcome State Fault Refusal :=
  let ms := (s.lineCores part line scope).flatMap fun c => c.ctxs.filterMap fun x =>
    x.flow.sync.bind fun w =>
      if w.line = line ∧ w.scope = scope ∧ w.g = some g ∧ !x.stopped then some (c.phys, x.id, w) else none
  .next (ms.foldl (fun (t : State) m => t.resumeMember m.1 m.2.1 m.2.2) s)

end Sys2Proof.Machine
end

