-- ==== Sys2Proof/Machine/Stop.lean ====
section
/-! DEFINITION. Starting, stopping and resuming contexts (R49, R219 to R221, R226 to R232, R339 to R341), the re-issue
of a rolled-back bay (R60), and the choice between free contexts. -/

namespace Sys2Proof.Machine

/-! ## Who holds the issue point -/

/-- Context k takes the issue point. -/
def Core.focus (k : Nat) (c : Core) : Core :=
  { c with ctx := c.ctxAt k, rest := c.ctxs.filter (fun x => x.id != k), switch := { c.switch with chooseAt := none } }

/-- Free contexts that may issue are parked while a timetable context runs (R220). -/
def Ctx.park (x : Ctx) : Ctx := if x.cfg.free && (x.st == .running || x.st == .blocked) then { x with st := .parked } else x

/-- A timetable context takes the core. -/
def State.takeCore (p k : Nat) (s : State) : State := s.updCore p fun c => (c.mapCtx Ctx.park).focus k

/-- Whether a timetable context other than context k has the core to itself (R220). -/
def Core.taken (k : Nat) (c : Core) : Bool :=
  c.ctxs.any fun x => x.id != k && !x.cfg.free && (x.st == .running || x.st == .stopping || x.st == .trapped)

/-- Whether a timetable context keeps the core's free contexts parked. -/
def Core.timetabled (c : Core) : Bool :=
  c.ctxs.any fun x => !x.cfg.free && (x.st == .running || x.st == .stopping || x.st == .trapped)

/-- Whether a context of the core runs and holds it. -/
def Core.held (c : Core) : Bool := c.switch.chooseAt.isNone && c.ctx.st == .running

/-! ## Starts (R49, R219, R232) -/

/-- R49. A second timetable context waits while one runs. -/
def execTimetableStart (core ctx : Nat) (s : State) : Host.Outcome State Fault Refusal :=
  let c := s.coreAt core
  if (c.ctxAt ctx).st = .loaded ∧ !(c.timetabled) then
    .next ((s.updCtx core ctx fun x => { x with st := .running, flow := { x.flow with nextAt := s.now } }).takeCore core ctx)
  else .next s

/-- Least context number of those that satisfy f. -/
def Core.lowest (f : Ctx → Bool) (c : Core) : Option Nat := least ((c.ctxs.filter f).map (·.id))

/-- R232. The free contexts of launches that have started; the lowest-numbered one issues first, with no switch cycles, where
the core is idle. -/
def execFreeContextStart (core : Nat) (s : State) : Host.Outcome State Fault Refusal :=
  let c := s.coreAt core
  let fresh := fun (x : Ctx) => x.cfg.free && x.st == .loaded && ((s.launchOf c x).map (·.running)) == some true
  let st : CtxState := if c.timetabled then .parked else .running
  let s' := s.updCore core fun d => d.mapCtx fun x =>
    if fresh x then { x with st := st, flow := { x.flow with nextAt := s.now } } else x
  match c.lowest fresh with
  | none => .next s
  | some k => .next (if c.timetabled || c.held then s' else s'.updCore core (Core.focus k))

/-! ## Stopping (R90, R226) -/

/-- Start cycles that the queued copy commands would have (R207, R210); a chain's end is not known. -/
def planCopies (k t : Nat) : List (CopyCmd ⊕ Chain) → List (CopyCmd ⊕ Chain)
  | [] => []
  | .inl c :: r =>
    let st := max t c.start
    .inl (if c.ctx = k then { c with start := st } else c) :: planCopies k (copyTimed st c).stream r
  | .inr h :: r =>
    let st := max t h.next
    .inr (if h.ctx = k then { h with next := st } else h) :: planCopies k (st + 2) r

/-- The same for the scatter-accumulate engine. -/
def State.planSas (s : State) (k t : Nat) : List SaCmd → List SaCmd
  | [] => []
  | c :: r =>
    let st := max t c.start
    (if c.ctx = k then { c with start := st } else c) :: s.planSas k (st + s.saCycles c) r

/-- Whether an event lands a command of a chain of context k that starts after cycle b. -/
def chainedAfter (p k b : Nat) : Instr → Option CopyCmd
  | .copyRelease c => if c.core = p ∧ c.ctx = k ∧ c.chained ∧ b < c.start then some c else none
  | _ => none

/-- Stream end of the commands that have started on a core. -/
def State.startedEnd (s : State) (p : Nat) : Nat :=
  s.agenda.foldl (fun n d => match d.ev with
    | .copyRelease c => if c.core = p then max n c.stream else n
    | _ => n) s.now

/-- Commands of a chain that have not started pause with their context (R226, R227): they go back in front of the queue. -/
def State.pauseChained (p k b : Nat) (s : State) : State :=
  let cs := s.agenda.filterMap fun d => chainedAfter p k b d.ev
  if cs.isEmpty then s
  else
    let t := s.cancel fun e => (chainedAfter p k b e).isSome
    t.updCore p fun c => { c with copy := { c.copy with streamEnd := t.startedEnd p, queue := cs.map .inl ++ c.copy.queue } }

/-- They go on at their own starts, or behind the stream of what ran meanwhile (R228). -/
def State.restartChained (p k : Nat) (s : State) : State :=
  let mine := fun (q : CopyCmd ⊕ Chain) => match q with
    | .inl c => c.ctx == k && c.chained
    | .inr _ => false
  let qs := (s.coreAt p).copy.queue.filter mine
  let s := s.updCore p fun c => { c with copy := { c.copy with queue := c.copy.queue.filter fun q => !mine q } }
  qs.foldl (fun (t : State) q => match q with
    | .inl c => t.startCopy c (max c.start (max t.now (t.coreAt p).copy.streamEnd))
    | .inr _ => t) s

/-- A context's queued commands keep the starts they would have had. -/
def State.planStarts (p k : Nat) (s : State) : State :=
  s.updCore p fun c =>
    { c with
      copy := { c.copy with queue := planCopies k (max s.now c.copy.streamEnd) c.copy.queue }
      sa := { c.sa with queue := s.planSas k (max s.now c.sa.streamEnd) c.sa.queue } }

/-- Engines are looked at again after a context began or ended its pause. -/
def State.rekick (p : Nat) (s : State) : State :=
  let s := if ((s.coreAt p).copy.chain).isSome then s
    else (s.cancel fun i => match i with
      | .copyCommandStart q => q == p
      | _ => false).kickCopy p
  s.kickSa p

/-- Cycle at which everything has settled that a stop at b waits for: the array's work issued before b, and started
commands whose release lies within b + 256; a chain's entry in progress (R226). -/
def State.settledAt (s : State) (p b : Nat) : Nat :=
  s.agenda.foldl (fun n d => match d.ev with
    | .mmaRowLand r => if r.core = p ∧ d.cyc < b + 600 + 64 then max n d.cyc else n
    | .mmaExtraRowLand r => if r.core = p ∧ d.cyc < b + 616 then max n d.cyc else n
    | .mmaTileRetire q _ _ => if q = p ∧ d.cyc < b + 16 then max n d.cyc else n
    | .copyRelease c => if c.core = p ∧ d.cyc ≤ b + 256 then max n d.cyc else n
    | .sarunRelease c => if c.core = p ∧ !isSaWake c ∧ c.release ≤ b + 256 then max n c.release else n
    | .copyCommandStart q => if q = p ∧ (s.coreAt p).copy.chain.isSome then max n d.cyc else n
    | _ => n) b

/-- A context reaches its stop boundary in this cycle: STOPPING, its results in flight in the dust sheet, its queued
commands paused. The core gives up the issue point; the free contexts behind a timetable context stay parked until it is
STOPPED (R219, R220, R226). -/
def State.stopBoundary (p k : Nat) (s : State) : State :=
  let b := s.now
  let x := s.ctxAt p k
  let held := s.holdsCore p k
  let s := ((s.capture p k (b - 1)).planStarts p k).pauseChained p k b
  let s := s.updCtx p k fun x => { x with st := .stopping, flow := { x.flow with stopB := b } }
  let s := s.rekick p
  let s := if !x.cfg.free || held then s.giveUp p k b else s
  s.schedule (s.settledAt p b) phReg (.contextStopped p k)

/-- R226. -/
def execPreemptStopBoundary (core ctx : Nat) (s : State) : Host.Outcome State Fault Refusal := .next (s.stopBoundary core ctx)

/-- R226. Behind a timetable context the core's parked contexts become ready, but for those that a switch keeps until S
(R220, R231). -/
def execContextStopped (core ctx : Nat) (s : State) : Host.Outcome State Fault Refusal :=
  let x := s.ctxAt core ctx
  if x.st != .stopping then .next s
  else
    let s := s.updCtx core ctx fun x => { x with st := .stopped }
    .next (if x.cfg.free || x.flow.fast then s else s.updCore core fun c => c.mapCtx Ctx.readied)

/-! ## Resuming (R91, R228) -/

/-- Loops' exit cycles after a stop. -/
def Regs.later (n : Nat) (r : Regs) : Regs := { r with loops := r.loops.map fun l => { l with exit := l.exit + n } }

/-- Every pending cycle of a context is read plus n. -/
def Ctx.later (n : Nat) (x : Ctx) : Ctx :=
  { x with
    regs := x.regs.later n, shadow := { x.shadow with regs := x.shadow.regs.later n }
    cfg := { x.cfg with ttoff := x.cfg.ttoff + BitVec.ofNat 64 n }
    flow := { x.flow with
      nextAt := x.flow.nextAt + n, heldFrom := x.flow.heldFrom.map (· + n), ilkExit := x.flow.ilkExit.map (· + n)
      sync := x.flow.sync.map fun w => { w with due := w.due + n, at_ := w.at_ + n, g := w.g.map (· + n) } }
    bay := { x.bay with first := x.bay.first.map (· + n) } }

/-- Starts of a context's paused commands. -/
def Core.laterStarts (k n : Nat) (c : Core) : Core :=
  let f := fun (q : CopyCmd ⊕ Chain) => match q with
    | .inl c => if c.ctx = k then Sum.inl { c with start := c.start + n } else .inl c
    | .inr h => if h.ctx = k then Sum.inr { h with next := h.next + n } else .inr h
  { c with
    copy := { c.copy with queue := c.copy.queue.map f }
    sa := { c.sa with queue := c.sa.queue.map fun q => if q.ctx = k then { q with start := q.start + n } else q } }

/-- Results that a port slot has still to sample land with the others (R91). -/
def State.laterReads (p k n : Nat) (s : State) : State :=
  { s with agenda := s.agenda.map fun d => match d.ev with
      | .accPortPerform o => if o.core = p ∧ o.ctx = k then { d with ev := .accPortPerform { o with late := o.late + n } } else d
      | _ => d }

/-- Entries of tagged groups whose last result waits in the dust sheet follow it (R345). -/
def State.laterSamples (p k e d : Nat) (s : State) : State :=
  let l := s.agenda.filterMap fun x => match x.ev with
    | .sampleEntryWrite _ b => if sampleOf p k x.ev then some b else none
    | _ => none
  l.foldl (fun (t : State) b => t.schedule (d - 1 + (sampleEnd b - e)) phReg (.sampleEntryWrite p b)) (s.cancel (sampleOf p k))

/-- A free context that goes on takes the core where no other holds it; one that waits at a sync blocks instead (R221). -/
def State.rejoin (p k : Nat) (s : State) : State :=
  let c := s.coreAt p
  let x := c.ctxAt k
  if c.timetabled then s.updCtx p k fun x => { x with st := .parked }
  else if x.flow.sync.isSome then
    (s.updCtx p k fun x => { x with st := .blocked }).updCore p fun c =>
      if c.held || c.switch.chooseAt.isSome then c else { c with switch := { chooseAt := some s.now, from_ := k } }
  else if c.held then s
  else match c.switch.chooseAt with
    | some t => if t < s.now then s.updCore p (Core.focus k) else s
    | none => s.updCore p (Core.focus k)

/-- A context that stopped at b goes on in this cycle, n cycles later than it would have (R91, R228). -/
def State.resumeCtx (p k : Nat) (engines : Bool) (s : State) : State :=
  let x := s.ctxAt p k
  let b := x.flow.stopB
  let n := s.now - b
  let s := (s.releaseDust p k s.now).laterReads p k n
  let s := s.laterSamples p k (b - 1) s.now
  let s := s.updCtx p k fun x =>
    { x.later n with st := .running, flow := { (x.later n).flow with stopAt := if engines then none else x.flow.stopAt, fast := false } }
  let x := s.ctxAt p k
  let s := if x.bay.redo then
      (s.cancel fun i => i == .bayReexecute p k).schedule x.flow.nextAt phReg (.bayReexecute p k)
    else s
  let s := if engines then ((s.updCore p (Core.laterStarts k n)).restartChained p k).rekick p else s
  let c := s.coreAt p
  let s := if !x.cfg.free then s.takeCore p k else s.rejoin p k
  match x.flow.sync with
  | none => s
  | some w =>
    match w.g with
    | some g => s.schedule (max s.now g) phReg (.syncResume c.partNo w.line w.scope g)
    | none => (s.armLimit p k).plumbCheck c.partNo w.line w.scope

/-! ## Debug (R339 to R341) -/

/-- R340. Comparator n matches: its BREAKPOINT record, and the stop at once. -/
def State.debugStop (p k n : Nat) (s : State) : State :=
  s.debugAt p k s.now (some (s.record p k 0x010A 0 0 0 (BitVec.ofNat 64 (n + 1)) 0 none))

/-- R340. -/
def execDebugStop (core ctx n : Nat) (s : State) : Host.Outcome State Fault Refusal := .next (s.debugStop core ctx n)

/-- GO: the context goes on; no comparator matches the group at which it resumes. A timetable context waits while another has
the core (R220). -/
def State.debugGo (p k : Nat) (step : Bool) (s : State) : State :=
  if (s.ctxAt p k).st = .debug ∧ !(s.ctxAt p k).cfg.free ∧ (s.coreAt p).taken k then
    (s.updCtx p k fun x => { x with flow := { x.flow with resumed := true, step := step } }).schedule (s.now + 1) phReg (.contextResume p k s.now)
  else if (s.ctxAt p k).st = .debug then
    let s := s.resumeCtx p k false
    let s := s.updCtx p k fun x => { x with flow := { x.flow with resumed := true, step := step } }
    s.updCore p fun c => { c with dblk := { c.dblk with stopped := c.dblk.stopped &&& ~~~(BitVec.ofNat 4 (2 ^ k)) } }
  else s

/-- R228. The restart cycle is Q + (b − P). A timetable context waits while another has the core (R220), one
that GO has let go as well. -/
def execContextResume (core ctx q : Nat) (s : State) : Host.Outcome State Fault Refusal :=
  let x := s.ctxAt core ctx
  let t := q + (x.flow.stopB - x.flow.stopAt.getD x.flow.stopB)
  if x.st == .debug && x.flow.resumed then .next (s.debugGo core ctx x.flow.step)
  else if !(x.st == .stopped || x.st == .stopping) then .next s
  else if s.now < t then .next (s.schedule t phReg (.contextResume core ctx q))
  else if !x.cfg.free && (s.coreAt core).taken ctx then .next (s.schedule (s.now + 1) phReg (.contextResume core ctx q))
  else .next (s.resumeCtx core ctx true)

/-- R341. -/
def execDebugGo (core ctx : Nat) (s : State) : Host.Outcome State Fault Refusal := .next (s.debugGo core ctx false)

/-- R341. -/
def execDebugStep (core ctx : Nat) (s : State) : Host.Outcome State Fault Refusal := .next (s.debugGo core ctx true)

/-! ## Re-issue of a bay (R60) -/

/-- R60. The cycles lost are counted as the entry group issues again. -/
def execBayReexecute (core ctx : Nat) (s : State) : Host.Outcome State Fault Refusal :=
  let x := s.ctxAt core ctx
  if x.stopped || !x.bay.redo then .next s
  else
    let lost := s.now - x.bay.first.getD s.now
    let s := s.updCtx core ctx fun x =>
      { x with bay := { x.bay with redo := false }, cfg := { x.cfg with dv := if x.cfg.free then x.cfg.dv else x.cfg.dv + lost } }
    .next (s.snag core ctx 5 lost x.flow.bundle)

end Sys2Proof.Machine
end

