-- ==== Sys2Proof/Machine/Hub.lean ====
section
/-! DEFINITION. The command processors (R321 to R327, R334): the executive's slots, queues and their entries, virtual
memory as the hub reaches it, completion of commands, and the commands that only read or write memory. -/

namespace Sys2Proof

/-! ## Words of a command (R325) -/

def Cmd.word (c : Cmd) (i : Nat) : Word := (c.words[i]?).getD 0

def Cmd.num (c : Cmd) (i : Nat) : Nat := (c.word i).toNat

def Cmd.op (c : Cmd) : Nat := c.num 0

/-- Operand words a command leaves unused. -/
def unusedOf (op : Nat) : List Nat :=
  match op with
  | 1 => [3, 4, 5]
  | 2 => [4, 5]
  | 3 => [4, 5]
  | 4 => [3, 4, 5]
  | 5 => [3, 4, 5]
  | 6 => []
  | 8 => [4, 5]
  | 10 => [3, 4, 5]
  | _ => [2, 3, 4, 5]

/-- A fence address: eight bytes at a multiple of eight in the partition's space. -/
def fenceOk (a : Nat) : Bool := a % 8 == 0 && decide (a < 2 ^ 39)

/-- Operands in range. -/
def Cmd.operandsOk (c : Cmd) : Bool :=
  match c.op with
  | 1 => decide (c.num 1 < 2 ^ 39)
  | 2 => c.num 3 % 64 == 0 && decide (c.num 3 ≤ 2 ^ 32) && decide (c.num 2 + c.num 3 ≤ 2 ^ 39)
  | 3 => c.num 3 % 64 == 0 && decide (c.num 3 ≤ 2 ^ 32) && decide (c.num 1 + c.num 3 ≤ 2 ^ 39)
  | 4 => fenceOk (c.num 1)
  | 5 => fenceOk (c.num 1) && decide (c.num 2 < 2 ^ 63)
  | 6 => decide (c.num 4 < 2 ^ 6)
  | 7 => decide (c.num 1 + 8 ≤ 2 ^ 39)
  | 8 => decide (c.num 1 + 48 ≤ 2 ^ 39) && c.num 2 % 4096 == 0 && decide (c.num 2 < 2 ^ 39) && decide (c.num 3 < 4)
  | 9 => decide (c.num 1 < Config.trowelRecords)
  | 10 => decide (c.num 1 + c.num 2 ≤ 2 ^ 18)
  | _ => false

/-- A listed opcode with reserved bits and unused words zero. -/
def Cmd.valid (c : Cmd) : Bool :=
  decide (1 ≤ c.op) && decide (c.op ≤ 10) && (unusedOf c.op).all (fun i => c.word i == 0) && c.operandsOk &&
  fenceOk (c.num 6) && decide (c.num 7 < 2 ^ 63)

end Sys2Proof

namespace Sys2Proof.Machine

/-! ## Virtual memory (R236, R239) -/

/-- Pages of a run of virtual addresses: page, offset in it, bytes. -/
def vPages (v len : Nat) : List (Nat × Nat × Nat) :=
  if len = 0 then []
  else (List.range ((v + len - 1) / 2 ^ 21 - v / 2 ^ 21 + 1)).map fun i =>
    let a := max v ((v / 2 ^ 21 + i) * 2 ^ 21)
    let b := min (v + len) ((v / 2 ^ 21 + i + 1) * 2 ^ 21)
    (a / 2 ^ 21, a % 2 ^ 21, b - a)

def entryValid (e : Word) : Bool := e.getLsbD 0 && !e.getLsbD 28

/-- The check of R239 that a page fails: mapped, then permitted. -/
def Part.pageFault (p : Part) (write : Bool) (page : Nat) : Option Nat :=
  let e := p.xlatEntry page
  if 2 ^ 18 ≤ page || !entryValid e then some 0x0605
  else if !e.getLsbD (if write then 2 else 1) then some 0x0606
  else none

/-- The first such check along a run. -/
def State.vFault (s : State) (n : Nat) (write : Bool) (v len : Nat) : Option Nat :=
  (vPages v len).findSome? fun x => (s.partAt n).pageFault write x.1

/-- Address runs of a virtual run. -/
def State.vRuns (s : State) (n v len : Nat) : List (Nat × Nat) :=
  (vPages v len).map fun x => (frameBase (entryFrame ((s.partAt n).xlatEntry x.1)) + x.2.1, x.2.2)

def State.vRead (s : State) (n v len : Nat) : List Byte := (s.vRuns n v len).flatMap fun r => s.decrypted (s.entryKey r.1) r.1 r.2

/-- Whether a page of a virtual run moves: it is read once the move has ended (R246). -/
def State.vMoves (s : State) (n v len : Nat) : Bool := s.heldByMove ((s.vRuns n v len).map (·.1))

/-- Pages of a virtual run that live on another chip hold what they hold there (R244). -/
def State.vFresh (n v len : Nat) (s : State) : State := s.refreshFar ((s.vRuns n v len).filterMap fun r => frameOf r.1)

/-- Cut bytes along runs. -/
def cutRuns : List (Nat × Nat) → List Byte → List Run
  | [], _ => []
  | r :: rs, bs => { addr := r.1, bytes := bs.take r.2 } :: cutRuns rs (bs.drop r.2)

/-- A write by the hub: fresh check words, but a sector written in part that fails verification stays poisoned (R154). -/
def State.hubRuns (n engine : Nat) (runs : List Run) (s : State) : State :=
  let poisoned := runs.flatMap fun r => (s.failing (s.entryKey r.addr) r.addr r.bytes.length).filter fun a =>
    !(decide (r.addr ≤ a) && decide (a + 64 ≤ r.addr + r.bytes.length))
  poisoned.foldl (fun (t : State) a => t.addRecord { t.partRecord n 0x0C01 2 engine 0 0 0 with addr := some (placeOf 64 a) })
    (s.landRuns runs poisoned)

def State.vWrite (n engine v : Nat) (bs : List Byte) (s : State) : State :=
  s.hubRuns n engine (cutRuns (s.vRuns n v bs.length) bs)

/-! ## Commands and their completion (R324, R325) -/

def State.updQueue (n q : Nat) (f : Queue → Queue) (s : State) : State := s.onPart n fun p => { p with queues := vmod p.queues q f }

def isPoll (n q : Nat) : Instr → Bool
  | .queuePoll m r => n == m && q == r % 8
  | _ => false

/-- The one poll to come of a queue. -/
def State.pollAt (n q t : Nat) (s : State) : State := (s.cancel (isPoll n q)).schedule t phExternal (.queuePoll n q)

/-- The queue's next poll; one that is due no later stays. -/
def State.pollNext (n q : Nat) (s : State) : State :=
  if s.agenda.any fun d => isPoll n q d.ev then s else s.pollAt n q (nextSlot s.now (pollSlot q))

/-- The queue is free for its next command; in its own slot, where TAIL has been read, the command processor goes on with it (R323), as
a poll of queue number q + 8. -/
def State.freeQueue (c : Cmd) (s : State) : State :=
  let s := s.updQueue c.part c.queue fun u => { u with active := none }
  if s.now % Config.frame = pollSlot c.queue then
    (s.cancel (isPoll c.part c.queue)).schedule s.now phExternal (.queuePoll c.part (c.queue + 8)) else s.pollNext c.part c.queue

/-- The fence takes a value; fence address 0 means none. A fence that is not mapped for writing takes nothing. -/
def State.writeFence (n a : Nat) (v : Word) (s : State) : State :=
  if a = 0 || (s.vFault n true a 8).isSome then s else s.vWrite n 30 a (leBytes 8 v.toNat)

def State.complete (c : Cmd) (s : State) : State := (s.writeFence c.part (c.num 6) (c.word 7)).freeQueue c

/-- A command that fails: bit 63 in its fence, and the failure's record. -/
def State.failWith (c : Cmd) (r : ErrRecord) (s : State) : State :=
  ((s.writeFence c.part (c.num 6) (c.word 7 ||| BitVec.ofNat 64 (2 ^ 63))).addRecord r).freeQueue c

/-- The record of a command's failure names the command processor. -/
def State.cmdRecord (s : State) (c : Cmd) (code : Nat) : ErrRecord := s.partRecord c.part code 3 30 0 0 0

def State.fail (c : Cmd) (code : Nat) (s : State) : State := s.failWith c (s.cmdRecord c code)

/-- A command that goes on in the same slot of the next frame. -/
def State.again (slot : Nat) (ev : Instr) (s : State) : State := s.schedule (nextSlot s.now slot) phExternal ev

/-! ## Entries of a queue (R325) -/

/-- The queue's registers allow its service (R321). -/
def Queue.enabled (u : Queue) : Bool := decide (u.base.toNat % 4 ≤ 1) && decide (4 ≤ u.log2n.toNat) && decide (u.log2n.toNat ≤ 16)

/-- Number of entries from HEAD to TAIL. -/
def Queue.ahead (u : Queue) (tail : BitVec 16) : Nat := (tail - u.head).toNat

/-- Address of the entry at HEAD. -/
def Queue.headAt (u : Queue) : Nat := u.base.toNat / 64 * 64 + 64 * (u.head.toNat % 2 ^ u.log2n.toNat)

/-- The entry at HEAD as its eight words. -/
def State.entryWords (s : State) (n : Nat) (u : Queue) : List Word :=
  let a := u.headAt
  let bs := if u.base.toNat % 4 = 0 then readRun s.hostMem a 64 else s.vRead n a 64
  (List.range 8).map fun i => BitVec.ofNat 64 (leVal ((bs.drop (8 * i)).take 8))

/-- The value of SIGNAL is written (R325). -/
def State.signal (c : Cmd) (s : State) : State :=
  if (s.vFault c.part true (c.num 1) 8).isSome then s.fail c 0x0D06
  else (s.vWrite c.part 30 (c.num 1) (leBytes 8 (c.num 2))).complete c

/-- A WAIT reads its fence word; a false condition is looked at again in the queue's next poll (R327). -/
def State.waitFence (c : Cmd) (s : State) : State :=
  let s := s.vFresh c.part (c.num 1) 8
  if (s.vFault c.part false (c.num 1) 8).isSome then s.fail c 0x0D06
  else
    let v := leVal (s.vRead c.part (c.num 1) 8)
    if s.vMoves c.part (c.num 1) 8 then s.pollNext c.part c.queue
    else if 2 ^ 63 ≤ v then s.fail c 0x0D07
    else if c.num 2 ≤ v then s.complete c
    else s.pollNext c.part c.queue

/-- An invalid command (R325). -/
def State.invalid (c : Cmd) (s : State) : State := s.fail c 0x0D06

/-- A command goes to the slot that performs it (R323). -/
def State.dispatch (c : Cmd) (s : State) : State :=
  if !c.valid then s.invalid c
  else
    match c.op with
    | 1 => s.again bindSlot (.launch c ((s.images.find? fun m => m.1 == c.part && m.2.1 == c.num 1).map fun m => m.2.2))
    | 2 => s.schedule s.now phExternal (.copyIn c)
    | 3 => s.schedule s.now phExternal (.copyOut c)
    | 4 => s.signal c
    | 5 => s.waitFence c
    | 6 =>
      s.again bindSlot (match c.num 4 % 4 with
        | 0 => .preemptStop c
        | 1 => .preemptResume c
        | 2 => .preemptEvict c
        | _ => .preemptSwitch c)
    | 7 => s.again budgetSlot (.budgetRead c)
    | 8 => s.schedule (nextSlot (s.now + Config.quoteDelay s.draws) (pollSlot c.queue)) phExternal (.attestQuote c)
    | 9 => s.again repairSlot (.trowelReclaim c)
    | _ => s.again repairSlot (.scrub c)

/-- Whether the hub's firmware runs: the package is on and its images are verified (R346, R350). -/
def State.up (s : State) : Bool := !s.hub.power.off && !s.hub.power.recovery

/-- A queue is polled: a WAIT begun looks again; a queue with nothing begun takes its next entry (R323, R324, R327). In a slot that has gone
on behind a command of the same queue, whose writes do not precede it, a WAIT is left for the next poll (R327). -/
def State.poll (n q : Nat) (later : Bool) (s : State) : State :=
  match (s.partAt n).queues[q]? with
  | none => s
  | some u =>
    if !s.up || !(s.partAt n).ctl.getLsbD 16 then s
    else
      match u.active with
      | some c => if c.op = 5 then s.waitFence c else s
      | none =>
        let far := u.base.toNat % 4 != 0
        if !u.enabled || u.head == u.tail then s
        else if far && s.vMoves n u.headAt 64 then s.pollNext n q
        else
          let s := if far then s.vFresh n u.headAt 64 else s
          let c : Cmd := { part := n, queue := q, words := s.entryWords n u, begun := false, mark := 0 }
          let s := s.updQueue n q fun u => { u with head := u.head + 1, active := some c }
          if later && c.op = 5 && c.valid then s.pollNext n q else { s.dispatch c with draws := s.draws + 1 }

/-- R323, R324. -/
def execQueuePoll (part queue : Nat) (s : State) : Host.Outcome State Fault Refusal :=
  .next (s.poll part (queue % 8) (decide (8 ≤ queue)))

/-- R325. -/
def execCmdInvalid (c : Cmd) (s : State) : Host.Outcome State Fault Refusal := .next (s.invalid c)

/-- A poll of this very cycle reads TAIL before a write that completes in it (R323). -/
def State.pollDue (n q : Nat) (s : State) : State :=
  match s.agenda.find? fun d => isPoll n q d.ev && decide (d.cyc ≤ s.now) with
  | none => s
  | some d => (s.cancel (isPoll n q)).poll n q (d.ev != .queuePoll n q)

/-- R321. A TAIL write too far ahead is ignored, with a record. -/
def execQueueTailWrite (part queue : Nat) (v : Word) (s : State) : Host.Outcome State Fault Refusal :=
  let tail := v.setWidth 16
  let s := s.pollDue part queue
  match (s.partAt part).queues[queue]? with
  | none => .next s
  | some u =>
    if !s.up || !(s.partAt part).ctl.getLsbD 16 then .next s
    else if 2 ^ u.log2n.toNat < u.ahead tail then .next (s.addRecord (s.partRecord part 0x0D08 3 30 queue 0 0))
    else .next ((s.updQueue part queue fun u => { u with tail := tail }).pollNext part queue)

/-! ## SIGNAL, WAIT, BUDGET_READ (R325, R327) -/

/-- R325, R327. -/
def execSignal (c : Cmd) (s : State) : Host.Outcome State Fault Refusal := .next (s.signal c)

/-- R327. -/
def execWait (c : Cmd) (s : State) : Host.Outcome State Fault Refusal := .next (s.waitFence c)

/-- R291, R325. A partition without an owner reads 0. -/
def execBudgetRead (c : Cmd) (s : State) : Host.Outcome State Fault Refusal :=
  if (s.vFault c.part true (c.num 1) 8).isSome then .next (s.fail c 0x0D06)
  else
    let v := (((s.partAt c.part).owner).map fun o => (s.hub.budgets[o]?).getD 0).getD 0
    .next ((s.vWrite c.part 30 (c.num 1) (leBytes 8 v.toNat)).complete c)

/-! ## Host DMA (R313, R325) -/

/-- Cycles of host DMA, resource 5, that a partition owns (R212). -/
def State.dmaMask (s : State) (n : Nat) : Word := s.partMask 5 n

/-- Whether a holder of a trowel is a context: neither home, nor a remote chip, nor a core's copy engine (R166). -/
def State.heldByCtx (s : State) (h : Holder) : Bool :=
  match h with
  | .home => false
  | .remote _ _ _ _ => false
  | .board p t =>
    match (s.coreAt p).board[t]? with
    | none => false
    | some e => !(e.kind == 1 && e.state == 4)

/-- Whether a context holds the trowel of a page. -/
def State.pageHeld (s : State) (n page : Nat) : Bool :=
  (s.partAt n).trowels.any fun r => r.space == 4 && decide (r.loc ≤ page) && decide (page < r.loc + r.count) && s.heldByCtx r.holder

/-- The outcome of a copy whose bytes have moved, told in a slot of its queue. -/
def State.hostCopied (c : Cmd) (s : State) : State :=
  if c.mark = 1 then s.complete c else s.failWith c { s.partRecord c.part 0x0C01 3 17 0 0 0 with addr := some (placeOf 64 (c.mark - 2)) }

/-- A copy of host DMA: its checks in a slot of its queue; 256 bytes in each cycle that the partition owns, performed with the
last, and not while a page of it moves (R17, R246, log 22); its outcome in the queue's next slot, and there too what no longer passes. `ev` is the command's event, `move` moves the bytes and tells the mark. -/
def State.hostCopy (c : Cmd) (ev : Cmd → Instr) (write : Bool) (v : Nat) (move : State → State × Nat) (s : State) : State :=
  let n := c.part
  let mask := s.dmaMask n
  if c.mark ≠ 0 then s.hostCopied c
  else if mask = 0 then s.again (pollSlot c.queue) (ev { c with begun := false })
  else
    let held := (vPages v (c.num 3)).any fun x => s.pageHeld n x.1
    match s.vFault n write v (c.num 3) with
    | some code => if c.begun then s.again (pollSlot c.queue) (ev { c with begun := false }) else s.failWith c (s.partRecord n code 3 17 0 0 0)
    | none =>
      if held then if c.begun then s.again (pollSlot c.queue) (ev { c with begun := false }) else s.fail c 0x0D06
      else if !c.begun then s.schedule (ownedAt mask s.now (max 1 (ceilDiv (c.num 3) 256))) phExternal (ev { c with begun := true })
      else if ownedAt mask s.now 1 ≠ s.now then s.schedule (ownedAt mask s.now 1) phExternal (ev c)
      else if s.heldByMove ((s.vRuns n v (c.num 3)).map (·.1)) then s.schedule (ownedAt mask (s.now + 1) 1) phExternal (ev c)
      else
        let u := move s
        u.1.again (pollSlot c.queue) (ev { c with mark := u.2 })

/-- R325. Makes check words. -/
def execCopyIn (c : Cmd) (s : State) : Host.Outcome State Fault Refusal :=
  .next (s.hostCopy c .copyIn true (c.num 2) fun s =>
    (s.vWrite c.part 17 (c.num 2) (readRun s.hostMem (c.num 1) (c.num 3)), 1))

/-- R313, R325. Verifies check words and strips them; a sector that fails is delivered as stored, and a page that lives on another chip as
it stands there. -/
def execCopyOut (c : Cmd) (s : State) : Host.Outcome State Fault Refusal :=
  .next (s.hostCopy c .copyOut false (c.num 1) fun s =>
    let runs := s.vRuns c.part (c.num 1) (c.num 3)
    let s := s.refreshFar (runs.filterMap fun r => frameOf r.1)
    ({ s with hostMem := writeRun s.hostMem (c.num 2) (s.vRead c.part (c.num 1) (c.num 3)) },
     ((runs.flatMap fun r => s.failing (s.entryKey r.1) r.1 r.2).head?.map (· + 2)).getD 1))

/-! ## SCRUB (R315) -/

/-- Zero bytes over a page's frame. -/
def zeroPage (f : Nat) : Run := { addr := frameBase f, bytes := List.replicate (2 ^ 21) 0 }

/-- R315. Only mapped pages have a frame to write; quarantine ends. -/
def execScrub (c : Cmd) (s : State) : Host.Outcome State Fault Refusal :=
  let p := s.partAt c.part
  let pages := (List.range (c.num 2)).map fun i => c.num 1 + i
  let frames := (pages.filter fun k => (p.xlatEntry k).getLsbD 0).map fun k => entryFrame (p.xlatEntry k)
  let s := (s.landRuns (frames.map zeroPage) []).rekeyWhole frames
  let s := s.onHub fun h => { h with frames := h.frames.map fun f => if frames.contains f.num then { f with written := false } else f }
  let s := s.onPart c.part fun p =>
    { p with xlat := p.xlat.map fun e => if pages.contains e.1 then (e.1, e.2 &&& ~~~(BitVec.ofNat 64 (2 ^ 28))) else e }
  .next (s.complete c)

/-! ## TROWEL_RECLAIM (R180) -/

/-- A trowel goes home under the next generation, with a taint; no board entry follows. -/
def State.reclaim (n : Nat) (r : TRec) (taint : Bool) (s : State) : State :=
  s.onPart n fun p => { p with trowels := listMod (· == r) (fun r => { r with gen := (r.gen + 1) % 256, holder := .home, taint := r.taint || taint }) p.trowels }

/-- R180. The table index names the trowel. -/
def execTrowelReclaim (c : Cmd) (s : State) : Host.Outcome State Fault Refusal :=
  match (s.partAt c.part).trowels[c.num 1]? with
  | none => .next (s.fail c 0x0D06)
  | some r => if r.count = 0 then .next (s.fail c 0x0D06) else .next (((s.reclaim c.part r false).wakeHarvest c.part).complete c)

end Sys2Proof.Machine
end

