-- ==== Sys2Proof/Machine/Issue.lean ====
section
/-! DEFINITION. Issue (R38 to R45, R48 to R52, R57, R66, R71, R88, R221, R353): what one core does with its turn of a
cycle. A group is fetched, decoded and checked; its slots execute on one state and its end follows. What the slots mean
comes in as `run`. -/

namespace Sys2Proof.Machine

/-- The machine's reading of a slot or event. -/
abbrev Run := Instr → State → Host.Outcome State Fault Refusal

/-! ## Hot spots and samples (R344, R345) -/

/-- A spilled hot-spot entry. -/
def hotBytes (phys : Nat) (e : HotEntry) : List Byte :=
  leBytes 8 (e.bundle % 2 ^ 14 + e.reason * 2 ^ 14 + e.ctx * 2 ^ 18 + phys * 2 ^ 20 + min e.count (2 ^ 38 - 1) * 2 ^ 26)

/-- Slot of a key. -/
def hotSlot (bundle reason ctx : Nat) : Nat :=
  (bundle % 2 ^ 10 ^^^ (bundle / 2 ^ 10 % 2 ^ 4 * 2 ^ 6)) ^^^ (reason * 4 ^^^ ctx)

/-- The core with the turn counts one cycle. -/
def State.hot (bundle reason ctx : Nat) (s : State) : State :=
  let n := hotSlot bundle reason ctx
  let new : HotEntry := { slot := n, bundle := bundle, reason := reason, ctx := ctx, count := 1 }
  let put := fun (l : List HotEntry) (s : State) => s.onCore fun c => { c with profile := { c.profile with hot := l } }
  let l := s.core.profile.hot
  match l.find? (fun e => e.slot == n) with
  | none => put (new :: l) s
  | some e =>
    if e.bundle = bundle ∧ e.reason = reason ∧ e.ctx = ctx then
      put (listMod (fun e => e.slot == n) (fun e => { e with count := min (e.count + 1) (2 ^ 38 - 1) }) l) s
    else put (listMod (fun e => e.slot == n) (fun _ => new) l) (s.profile s.core.phys 2 (hotBytes s.core.phys e))

/-- Counts a cycle against the context that holds the core. -/
def State.hotFocus (reason : Nat) (s : State) : State := s.hot s.core.ctx.flow.bundle reason s.core.ctx.id

/-- A sample entry of a group. -/
def sampleBytes (bundle ctx phys wait dec issue land : Nat) : List Byte :=
  leBytes 2 bundle ++ (leBytes 1 (ctx + phys * 4) ++ (leBytes 1 0 ++ (leBytes 8 (issue - wait - dec) ++ (leBytes 2 dec ++
    (leBytes 2 (min wait 65535) ++ (leBytes 8 issue ++ (leBytes 2 land ++ leBytes 6 0)))))))

/-- Latest landing of a group's results, that of what an accrd is to sample among them. -/
def State.lastLanding (s : State) (seq : Nat) : Nat :=
  s.agenda.foldl (fun n d => match landingOf d.ev, d.ev with
    | some l, _ => if l.core = s.core.phys ∧ l.ctx = s.core.ctx.id ∧ seq < l.seq then max n d.cyc else n
    | none, .accPortPerform o =>
      match o.kind with
      | .rd _ => if o.core = s.core.phys ∧ o.ctx = s.core.ctx.id ∧ seq < o.seq then max n (d.cyc + 1 + o.late) else n
      | _ => n
    | none, _ => n) s.now

/-- A tagged group's entry is written once its last result has landed. The group was withheld for `wait` cycles; seq is
the issue counter before it. -/
def State.sample (bundle wait seq : Nat) (s : State) : State :=
  let p := s.core.dblk.period.toNat
  if p < 8 || 20 < p then s
  else
    let s := { s with fetched := s.fetched + 1 }
    if Config.sampleTag s.fetched p then
      let t := s.lastLanding seq
      let e := sampleBytes bundle s.core.ctx.id s.core.phys wait (Config.decodeCycles s.fetched % 2 ^ 16) s.now (t - s.now)
      s.schedule t phReg (.sampleEntryWrite s.core.phys e)
    else s

/-! ## Register interlocks (R88) -/

/-- A slot's register as the physical one it names. -/
def physReg (rrb : BitVec 4) : Reg → Reg
  | .p n => .p (physOf rrb n)
  | .v n => .v (physOf rrb n)
  | r => r

/-- The register a result goes to. -/
def regOf : Res → Reg
  | .s n _ => .s n
  | .p n _ _ => .p n
  | .v n _ _ => .v n
  | .a n _ => .a n
  | .h n _ => .h n
  | .skim _ _ => .sp 0x14

/-- The lanes, or the bits, that a result writes; all of any other register. -/
def lanesOfRes : Res → LaneMask
  | .p _ m _ => m
  | .v _ m _ => m
  | .skim m _ => m.setWidth 128
  | _ => BitVec.allOnes 128

/-- A result in flight. -/
structure Flight where
  reg : Reg
  lanes : LaneMask
  due : Nat
  seq : Nat
  gddr : Bool
deriving DecidableEq, Repr

/-- Results in flight of the issuing context, those a port slot has still to sample among them. -/
def State.flights (s : State) : List Flight :=
  let p := s.core.phys
  let k := s.core.ctx.id
  s.agenda.filterMap fun d =>
    match landingOf d.ev with
    | some l => if l.core = p ∧ l.ctx = k then some { reg := regOf l.res, lanes := lanesOfRes l.res, due := d.cyc, seq := l.seq, gddr := l.frame.isSome } else none
    | none =>
      match d.ev with
      | .accPortPerform o =>
        match o.kind with
        | .rd dst => if o.core = p ∧ o.ctx = k then some { reg := .v dst, lanes := o.mask, due := d.cyc + 1 + o.late, seq := o.seq, gddr := false } else none
        | _ => none
      | _ => none

/-- The handle register that an address in the external space names (R80, R239). -/
def handleOf (a : AddrReg) : List Reg := if a.space = 4 then [.h a.index.toNat] else []

/-- Staging engine, set and words that hold the addresses of a slot's sides (R205, R270). -/
def sideWords : Instr → Nat × Nat × List Nat
  | .cp _ n => (0, n.val, [0, 1])
  | .cpq _ n _ => (0, n.val, [0])
  | .tmv _ n => (0, n.val, [0, 1])
  | .cpfill _ n => (0, n.val, [1])
  | .send _ _ n => (2, n.val, [0])
  | .put _ _ n => (2, n.val, [0])
  | .recv _ _ n => (2, n.val, [1])
  | .allred _ _ n => (2, n.val, [0, 1])
  | .agfwd _ _ n => (2, n.val, [0])
  | _ => (0, 0, [])

/-- Handle registers that a slot reads (R238, R243). -/
def handlesOf (x : Ctx) : Instr → List Reg
  | .ldh _ _ n _ _ => handleOf (x.ra n)
  | .sth _ _ n _ _ => handleOf (x.ra n)
  | .hinv _ h => [.h h.val]
  | .agg _ _ => [0, 1].flatMap fun w => handleOf (addrOf (x.staged 4 0 w))
  | i => (sideWords i).2.2.flatMap fun w => handleOf (addrOf (x.staged (sideWords i).1 (sideWords i).2.1 w))

/-- Registers a group reads: its gates, and the operands of the slots that are not squashed. -/
def readsAll (x : Ctx) (is : List Instr) : List Reg :=
  (is.flatMap fun i =>
    (match gateOf i with
      | some g => pr g.p
      | none => []) ++ (if squashed i x then [] else readsOf i ++ handlesOf x i)).map (physReg x.regs.rrb)

/-- Registers whose value decides whether a slot is squashed. -/
def gatesAll (x : Ctx) (is : List Instr) : List Reg :=
  (is.flatMap fun i => match gateOf i with
    | some g => pr g.p
    | none => []).map (physReg x.regs.rrb)

/-- The wait for a register in flight. -/
def State.readWait (s : State) (rs : List Reg) : Option Hold :=
  let fs := s.flights.filter fun f => rs.contains f.reg
  if fs.isEmpty then none else some { cause := 0, blocks := fs.any (·.gddr) }

/-- The first half of R88: every register read has landed. -/
def State.interlock (s : State) (is : List Instr) : Option Hold :=
  if !s.core.ctx.interlocked || s.flights.isEmpty then none
  else
    match s.readWait (gatesAll s.core.ctx is) with
    | some h => some h
    | none => s.readWait (readsAll s.core.ctx is)

/-! ## The slots of a group -/

/-- What the attempt to issue a group came to. -/
inductive Try where
  /-- every slot executed -/
  | done (s : State)
  | held (h : Hold)
  | trapped (r : ErrRecord)
  | recover (r : ErrRecord)
  | stop (o : Host.Outcome State Fault Refusal)

/-- Slots of a group with their place in it and the unit each takes. -/
def numbered : List FSlot → List FSlot → List (FSlot × Nat × Nat)
  | _, [] => []
  | seen, f :: r => (f, seen.length, (seen.filter fun e => !e.nop && e.cls == f.cls).length) :: numbered (seen ++ [f]) r

/-- Enter a slot: its place, its unit, its number in issue order. -/
def State.enterSlot (f : FSlot) (pos unit : Nat) (s : State) : State :=
  ({ s with issueSeq := s.issueSeq + 1 } : State).onCtx fun x =>
    { x with unit := unit, slotBundle := f.bundle, slotPos := pos, status := .running }

/-- Run the slots in written order, up to the first that does not pass. A data race (R261) is one only of a group that issues: where a
later slot does not pass, the group does not. -/
def runSlots (run : Run) (s : State) : List (FSlot × Nat × Nat) → Try × List (FSlot × Nat × Nat)
  | [] => (.done s, [])
  | (f, pos, unit) :: r =>
    match f.instr with
    | none => runSlots run s r
    | some i =>
      match run i (s.enterSlot f pos unit) with
      | .next t =>
        match t.core.ctx.status with
        | .running => runSlots run t r
        | .held h => (.held h, r)
        | .trapped e => (.trapped e, r)
        | .recover e => (.recover e, r)
      | o =>
        match runSlots run s r with
        | (.done _, _) => (.stop o, r)
        | u => u

/-- Whether a record is of a capability check (R309). -/
def capCode (r : ErrRecord) : Bool := r.code == 0x0B01 || r.code == 0x0B02

/-- Whether the slot that did not pass failed its capability check: no later slot's comes before it (R353). -/
def Try.capFailed : Try → Bool
  | .trapped r => capCode r
  | _ => false

/-- The first capability fault among slots, each tried on the state from before the group (R353). -/
def capFault (run : Run) (s : State) : List (FSlot × Nat × Nat) → Option ErrRecord
  | [] => none
  | (f, pos, unit) :: r =>
    match f.instr with
    | none => capFault run s r
    | some i =>
      match run i (s.enterSlot f pos unit) with
      | .next t =>
        match t.core.ctx.status with
        | .trapped e => if capCode e then some e else capFault run s r
        | _ => capFault run s r
      | _ => capFault run s r

/-- The second half of R88 needs the cycles at which a group's results would land, before any of its slots makes a check:
each slot tells them by itself, as on a core that has every capability. -/
def State.enabled (s : State) : State :=
  (s.onCore fun c => { c with capm := BitVec.allOnes 64 }).onCtx fun x => { x with cfg := { x.cfg with usem := BitVec.allOnes 64 } }

/-- Latency of a slot that its own checks may stop (R86, R159, R192). -/
def latencyOf : Instr → Nat
  | .lds _ _ _ _ _ => 5
  | .ldv _ _ _ _ _ _ => 6
  | .ldvq _ _ _ _ _ _ => 7
  | .ldx _ _ _ _ _ _ => 10
  | .ldh _ _ _ _ _ => 488
  | .tflag _ _ _ _ _ _ => 5
  | .accrd _ _ _ _ _ => 3
  | .aggq _ _ _ _ => 32
  | .xlat _ _ _ => 24
  | .mmaDl _ _ _ _ _ _ _ => 472
  | .mmazDl _ _ _ _ _ _ _ => 472
  | _ => 1

/-- Lanes that a slot which its own checks may stop would write (R77, R78). -/
def Ctx.lanesOf (x : Ctx) : Instr → LaneMask
  | .ldv g m _ _ _ _ => x.active g m
  | .ldvq g m _ _ _ _ => x.active g m
  | .ldx g m _ _ _ _ => x.active g m
  | .accrd g m _ _ _ => x.active g m
  | _ => BitVec.allOnes 128

/-- Results that a slot would have by its latency alone. -/
def State.nominal (s : State) (i : Instr) : List Flight :=
  (writesOf i).map fun r =>
    { reg := physReg s.core.ctx.regs.rrb r, lanes := s.core.ctx.lanesOf i, due := s.now + latencyOf i, seq := s.issueSeq + 1, gddr := false }

/-- A wrs of the skim vector. -/
def writesSkim : Instr → Bool
  | .wrs _ _ r => r.toNat == 0x14
  | _ => false

/-- The results of one slot: its landings, and a write of the skim vector, which counts from the next group on (R84). -/
def State.resultsOf (run : Run) (s : State) (f : FSlot) (pos unit : Nat) : List Flight :=
  match f.instr with
  | none => []
  | some i =>
    if squashed i s.core.ctx then []
    else
      (match run i (s.enabled.enterSlot f pos unit) with
      | .next t =>
        if t.core.ctx.status = .running then t.flights.filter fun g => decide (s.issueSeq < g.seq) else s.nominal i
      | _ => s.nominal i) ++
      (if writesSkim i then s.nominal i else [])

/-- The second half of R88: no earlier result lands at or after the group's own in the same lanes of one register. -/
def State.writeWait (run : Run) (s : State) (l : List (FSlot × Nat × Nat)) : Option Hold :=
  if !s.core.ctx.interlocked || s.flights.isEmpty then none
  else
    let new := l.flatMap fun e => s.resultsOf run e.1 e.2.1 e.2.2
    let old := s.flights.filter fun f => new.any fun g => g.reg == f.reg && g.lanes &&& f.lanes != 0 && decide (g.due ≤ f.due)
    if old.isEmpty then none else some { cause := 0, blocks := old.any (·.gddr) }

def commitPointSlot : Instr → Bool
  | .sarun _ _ => true
  | .send _ _ _ => true
  | .put _ _ _ => true
  | .agg _ _ => true
  | .tlend _ _ _ => true
  | _ => false

def markSlot : Instr → Bool
  | .mark _ => true
  | _ => false

/-- The group's last place, and whether a commit point executes in it. -/
def State.enterGroup (fs : List FSlot) (s : State) : State :=
  let is := fs.filterMap (·.instr)
  s.onCtx fun x =>
    { x with
      endBundle := (fs.getLast?.map FSlot.bundle).getD 0, endPos := (fs.getLast?.map FSlot.pos).getD 3
      groupSeq := s.issueSeq, commitGroup := is.any (fun i => commitPointSlot i && !squashed i x), post := [], status := .running }

/-- ILLEGAL_GROUP: the reason and the position of the slot (R43). -/
def State.illegal (reason pos : Nat) (s : State) : ErrRecord :=
  s.fault 0x0101 0 (BitVec.ofNat 64 reason) (BitVec.ofNat 64 pos)

/-- R43. -/
def execIllegalEncoding (reason pos : Nat) (s : State) : Host.Outcome State Fault Refusal :=
  .next (s.takeTrap (s.illegal reason pos))

/-- Whether a group begins in an active loop's body and runs past its end (R66). -/
def Ctx.pastBody (x : Ctx) : Bool :=
  x.regs.loops.any fun l => decide (x.flow.bundle ≤ l.last) && decide (l.last < x.endBundle)

/-- Lateness beyond slack at a checkpoint of the group (R51). -/
def Ctx.tooLate (x : Ctx) : Bool :=
  !x.cfg.free && x.post.any fun p => match p with
    | .late n => decide ((x.cfg.slack.toNat : Int) < n)
    | _ => false

/-- Departed trowels that the group behind a tlend waits for (R172). -/
def State.flushWait (s : State) : Bool := s.core.ctx.flow.flush.any fun t => s.lenderBusy s.core.phys (s.entry t)

/-- Try to issue the next group of the context that holds the core: decode, the mark that R57 asks for, R66, interlocks,
then the slots and the checkpoint check (R353). -/
def State.tryGroup (run : Run) (s : State) : Try :=
  if s.flushWait then .held { cause := 8, blocks := true }
  else
    let x := s.core.ctx
    let fs := x.group x.flow.bundle x.flow.pos
    let is := fs.filterMap (·.instr)
    match rejected x.cfg.free fs with
    | some (reason, pos) => .trapped (s.illegal reason pos)
    | none =>
      let s := s.enterGroup fs
      if x.flow.needMark && !is.any markSlot then .trapped (s.fault 0x0109 0 0 0)
      else if s.core.ctx.pastBody then .trapped (s.fault 0x0105 0 0 0)
      else
        match s.interlock is with
        | some h => .held h
        | none =>
          match s.writeWait run (numbered [] fs) with
          | some h => .held h
          | none =>
            let u := runSlots run s (numbered [] fs)
            match u.1 with
            | .done t => if t.core.ctx.tooLate then .trapped (s.fault 0x0201 0 0 0) else .done t
            | o => if u.1.capFailed then o else
              match capFault run s u.2 with
              | some e => .trapped e
              | none => o

/-! ## Withheld groups (R50, R52) -/

/-- A cycle in which the next group is withheld. DESIGN CHOICE: R50 does not say whether a stall inside an .ilk loop adds to dv cycle
by cycle; here the loop's overrun alone adds, at its exit (R52, R68; log 20). -/
def State.withheld (h : Hold) (s : State) : State :=
  let p := s.core.phys
  let k := s.core.ctx.id
  let x := s.core.ctx
  let s := s.onFlow fun f => { f with held := some h, heldFrom := f.heldFrom.or (some s.now) }
  let s := s.hotFocus (if h.cause ≠ 0 then h.cause else if x.cfg.free then 9 else 6)
  if x.cfg.free then
    if h.blocks then (s.onCtx fun x => { x with st := .blocked }).giveUp p k s.now else s
  else if x.inIlk || h.cause = 0 then (if (x.flow.snag.map (·.1)) == some 6 then s.endSnag p k else s)
  else
    let s := match x.flow.snag with
      | some (c, _) => if c = h.cause then s else s.endSnag p k
      | none => s
    s.onCtx fun x =>
      { x with
        cfg := { x.cfg with dv := x.cfg.dv + 1 }
        flow := { x.flow with snag := some (h.cause, match x.flow.snag with
          | some (_, n) => n + 1
          | none => 1) } }

/-- R52. The episode ends with the group's issue. -/
def execWithheldGroupIssue (core ctx : Nat) (s : State) : Host.Outcome State Fault Refusal :=
  .next ((s.endSnag core ctx).updCtx core ctx fun x => { x with flow := { x.flow with held := none } })

/-! ## One attempt -/

/-- Lines to look at again after a group: an assertion, a halt, or a change of a domain register (R53, R54). -/
def touchesLine : Post → Bool
  | .sync _ => true
  | .halt => true
  | .sreg n _ => decide (0x20 ≤ n) && decide (n < 0x28)
  | _ => false

/-- A step ends behind its group, in a context with DBG set, one that its group has blocked too (R340, R341). -/
def State.stepEnd (s : State) : State :=
  if s.core.ctx.flow.step && s.core.dblk.dbg.getLsbD s.core.ctx.id && (s.core.ctx.st == .running || s.core.ctx.st == .blocked) then
    s.debugAt s.core.phys s.core.ctx.id (s.now + 1) none else s

/-- A group whose slots have all executed issues. -/
def State.issued (seq : Nat) (t : State) : State :=
  let p := t.core.phys
  let k := t.core.ctx.id
  let bundle := t.core.ctx.flow.bundle
  let wait := t.now - t.core.ctx.flow.heldFrom.getD t.now
  let lines := t.core.ctx.post.any touchesLine
  let t := (t.hotFocus 0).endSnag p k
  let t := (t.sample bundle wait seq).endGroup.stepEnd
  if lines then (t.armLimit p k).plumbCheckAll t.core.partNo else t

/-- A group that the roller suppresses occupies its cycle; it counts in a hold region (R61, R71). -/
def State.suppressed (s : State) : State :=
  let x := s.core.ctx
  let fs := x.group x.flow.bundle x.flow.pos
  let s := s.hotFocus 12
  (s.onCtx fun x =>
    let e : Ctx := { x with endBundle := (fs.getLast?.map FSlot.bundle).getD 0, endPos := (fs.getLast?.map FSlot.pos).getD 3 }
    let n := e.sequential
    let e := ({ e with flow := { e.flow with bundle := n.1, pos := n.2, hold := holdAfter e.flow.hold none } } : Ctx).rollNext
    { e with flow := { e.flow with nextAt := s.now + 1, resumed := false } }).leaveIlk s.core.phys s.core.ctx.id

/-- An iteration of the roller that begins reads its skim bit (R71, R139). DESIGN CHOICE: no rule says when an iteration whose first
group is withheld begins; here the bit is read again in every cycle until that group issues or is suppressed (log 20). -/
def Ctx.latchSkim (x : Ctx) : Ctx :=
  { x with flow := { x.flow with roll := x.flow.roll.map fun r => if r.g = 0 then { r with skip := r.skips x.regs.skim } else r } }

/-- Whether the group behind an .ilk loop comes later than slack allows (R68). -/
def Ctx.overrun (x : Ctx) : Bool :=
  match x.flow.snag with
  | some (6, v) => !x.cfg.free && decide (x.cfg.slack.toNat < v)
  | _ => false

/-- A cycle in which the context that holds the core issues no group, for another reason than a wait: it counts as idle, with the group
last issued (R344; DESIGN CHOICE, log 37). -/
def State.hotIdle (s : State) : State := s.hot s.core.ctx.flow.last 11 s.core.ctx.id

/-- The context that holds the core is due to issue in this cycle. A comparator stops it first; SLIP of an .ilk loop comes at
its exit (R68); a record that waits for the context traps it at the first group that would issue (R214, R218, R278, R299).
DESIGN CHOICE: R43 and R71 do not say whether decode rejects a group that the roller suppresses; here such a group is not checked
at all (log 20). -/
def State.attempt (run : Run) (s : State) : Host.Outcome State Fault Refusal :=
  let p := s.core.phys
  let k := s.core.ctx.id
  match s.core.breaks s.core.ctx with
  | some n => .next (s.hotIdle.debugStop p k n)
  | none =>
    if s.core.ctx.overrun then .next (s.hotIdle.takeTrap (s.fault 0x0201 0 0 0))
    else
      let s := s.onCtx Ctx.latchSkim
      if (s.core.ctx.flow.roll.map Roll.suppresses) == some true then .next s.suppressed
      else
        match s.tryGroup run, s.core.ctx.flow.doomed with
        | .held h, _ => .next (s.withheld h)
        | _, some r => .next ((s.hotIdle.endSnag p k).trapStop p k s.now r)
        | .done t, none => .next (t.issued s.issueSeq)
        | .trapped r, none => .next (s.hotIdle.takeTrap r)
        | .recover r, none => .next (((s.hotFocus 5).enterGroup (s.core.ctx.group s.core.ctx.flow.bundle s.core.ctx.flow.pos)).recoverable r)
        | .stop o, none => o

/-! ## The choice between free contexts (R221, R232) -/

/-- Whether a context's next group is held by a block cause, or the context waits. -/
def State.ready (run : Run) (s : State) (k : Nat) : Bool :=
  let t := (s.seenBy s.core.phys k).onCtx Ctx.latchSkim
  let x := t.core.ctx
  let resumes := match x.flow.sync with
    | none => decide (x.flow.nextAt ≤ s.now + 1)
    | some w => (w.g.map fun g => decide (g ≤ s.now + 1)) == some true
  if !(x.cfg.free && (x.st == .running || x.st == .blocked) && resumes) then false
  else if (t.core.breaks x).isSome || (x.flow.roll.map Roll.suppresses) == some true then true
  else
    match t.tryGroup run with
    | .held h => !h.blocks
    | _ => true

/-- The first ready context in the order k + 1, k + 2, k + 3, k. -/
def State.choice (run : Run) (s : State) : Option Nat :=
  ([1, 2, 3, 4].map fun i => (s.core.switch.from_ + i) % 4).find? (s.ready run)

/-- Context k is chosen and issues from the next cycle on. -/
def State.switchTo (k : Nat) (s : State) : State :=
  let s := s.onCore (Core.focus k)
  s.onCtx fun x => { x with st := .running, flow := { x.flow with nextAt := max x.flow.nextAt (s.now + 1) } }

/-- R221. The core chooses among its contexts that are RUNNING or BLOCKED, by what their flow says. -/
def execContextSwitch (core : Nat) (s : State) : Host.Outcome State Fault Refusal :=
  let c := s.coreAt core
  let ok := fun (k : Nat) =>
    let x := c.ctxAt k
    x.cfg.free && (x.st == .running || (x.st == .blocked && x.flow.sync.isNone)) && x.id == k
  match ([1, 2, 3, 4].map fun i => (c.switch.from_ + i) % 4).find? ok with
  | none => .next s
  | some k =>
    .next ((s.updCore core (Core.focus k)).updCtx core k fun x =>
      { x with st := .running, flow := { x.flow with nextAt := max x.flow.nextAt (s.now + 1) } })

/-! ## One core's turn -/

/-- Contexts whose stop is due reach their boundary. -/
def State.stopsDue (s : State) : State :=
  (s.core.ctxs.filter fun x => x.stopDue s.now).foldl (fun (t : State) x => t.stopBoundary s.core.phys x.id) s

/-- Contexts of the core whose agg has failed, and that wait or went on only now, trap in this cycle (R305). -/
def State.trapsDue (s : State) : State :=
  (s.core.ctxs.filter fun x => x.st == .running || x.st == .blocked).foldl (fun (t : State) x => match x.flow.doomed with
    | some r => if r.code = 0x0901 then (t.endSnag s.core.phys x.id).trapStop s.core.phys x.id s.now r else t
    | none => t) s

/-- What a running context that is not due counts its cycle as: the re-issue of its bay, a rebase that is under way, or idle (R344). -/
def State.idleTurn (s : State) : State :=
  let x := s.core.ctx
  if x.st == .running && x.bay.redo then s.hotFocus 5
  else if x.st == .running && !x.cfg.free && (x.flow.sync.map fun w => decide (w.due ≤ s.now)) == some true then s.hotFocus 7
  else s.hotIdle

/-- A cycle in which no context holds the core: switch cycles, then a choice in every cycle. -/
def State.switchTurn (run : Run) (t : Nat) (s : State) : State :=
  if s.now < t then s.hotFocus 10
  else
    match s.choice run with
    | some k => (s.hotFocus 10).switchTo k
    | none => if s.core.ctxs.any (fun x => x.st == .blocked) then s.hotFocus 9 else s.hotIdle

/-- The turn of the core in front. -/
def State.turnOf (run : Run) (s : State) : Host.Outcome State Fault Refusal :=
  let s := s.trapsDue.stopsDue
  match s.core.switch.chooseAt with
  | some t => .next (s.switchTurn run t)
  | none =>
    let x := s.core.ctx
    if x.st == .running && x.flow.sync.isNone && decide (x.flow.nextAt ≤ s.now) then s.attempt run
    else .next s.idleTurn

/-- The turn passes on; after the 64th the next cycle begins. -/
def State.rotate (s : State) : State :=
  let s := match s.others with
    | [] => s
    | c :: r => { s with core := c, others := r ++ [s.core] }
  if s.turn + 1 < 64 then { s with turn := s.turn + 1 } else { s with now := s.now + 1, turn := 0 }

end Sys2Proof.Machine
end

