-- ==== Sys2Proof/Machine/Save.lean ====
section
/-! DEFINITION. Emptying a context, and its save image (R222 to R225, R243): the layout, the checks of a restore, saving
by eviction and restoring. -/

namespace Sys2Proof.Machine

/-! ## Emptying a context (R219) -/

/-- Events that end with a context: its results in flight, its starts and stops, its samples. -/
def endsWith (p k : Nat) (e : Instr) : Bool :=
  isLanding p k e || isDrain p k e || sampleOf p k e ||
  match e with
  | .accPortPerform o => o.core == p && o.ctx == k
  | .contextStopped q j => q == p && j == k
  | .contextResume q j _ => q == p && j == k
  | .bayReexecute q j => q == p && j == k
  | _ => false

/-- Whether an event performs something that a context started: a result, a row, a port slot, a slice, a commit, an engine
command or an entry of one (R72). -/
def performs (p k : Nat) (e : Instr) : Bool :=
  isLanding p k e || isDrain p k e ||
  match e with
  | .accPortPerform o => o.core == p && o.ctx == k
  | .mmaRowLand r => r.core == p && r.ctx == k
  | .mmaExtraRowLand r => r.core == p && r.ctx == k
  | .bldLand b => b.core == p && b.ctx == k
  | .gatedCommitPerform c => c.core == p && c.ctx == k
  | .copyRelease c => c.core == p && c.ctx == k
  | .sarunRelease c => c.core == p && c.ctx == k && !isSaWake c
  | .saEntryArrive q e => q == p && e.ctx == k
  | .saRetirePerform q e => q == p && e.ctx == k
  | .tcleanZeroDone q e => q == p && e.ctx == k
  | _ => false

/-- Whether something that a context has started is still to perform, or a region of its is still being zeroed (R178). -/
def State.performing (s : State) (p k : Nat) : Bool := s.agenda.any fun d => performs p k d.ev

/-- Whether a context that halted has something in flight: what performs later, commands that wait, link commands, remote writes without
an acknowledgement, an agg without its result (R72). -/
def State.unlanded (s : State) (p k : Nat) : Bool :=
  let c := s.coreAt p
  s.performing p k || c.link.cmds.any (fun l => l.ctx == k && l.tag == (c.ctxAt k).cfg.launch) || c.copy.queue.any (fun q => queuedCtx q == k) || (c.copy.chain.any fun h => h.ctx == k) ||
  c.sa.queue.any (fun q => q.ctx == k) || !(c.ctxAt k).acks.isEmpty || (c.ctxAt k).agg.isSome

/-- Queued commands of other contexts stay. -/
def Core.dropQueued (k : Nat) (c : Core) : Core :=
  { c with
    copy := { c.copy with queue := c.copy.queue.filter fun q => queuedCtx q != k }
    sa := { c.sa with queue := c.sa.queue.filter fun q => q.ctx != k } }

/-- The context becomes EMPTY; its entries leave the board. Started commands run out (R227). -/
def State.vacate (p k : Nat) (s : State) : State :=
  (s.cancel (endsWith p k)).updCore p fun c =>
    let c := c.updCtx k fun x => { Ctx.reset k with bay := { Bay.reset with serial := x.bay.serial + 1 } }
    { c with
      board := c.board.map fun e => if servesCtx k e then TEntry.empty else e
      dblk := { c.dblk with stopped := c.dblk.stopped &&& ~~~(BitVec.ofNat 4 (2 ^ k)) } }

/-- Banks that a context allocated become free (R199, R330). DESIGN CHOICE: R199 frees every bank of a retired launch's cores; on a core
that another launch shares, banks that the other's contexts allocated stay (log 27). -/
def Core.freeBanks (k : Nat) (c : Core) : Core :=
  let mine := fun (b : Nat) => (c.bankWord b).getLsbD 0 && (c.bankWord b).toNat / 4 % 4 == k
  { c with
    banks := (List.range 32).foldl (fun (v : Vector Byte 32) b => if mine b then v.setIfInBounds b 0 else v) c.banks
    acc := c.acc.filter fun r => !mine r.bank }

/-- A link command that acts: a sender's from its issue on, a receiver's once it is armed (R273). -/
def linkIssued (l : LinkCmd) : Bool := isSender l.op || l.armed

/-- A context that ends with its launch: its queued commands, its chain, its reservations and its link commands that are not armed go too.
Those that act run out (R227, R330). -/
def State.emptyCtx (p k : Nat) (s : State) : State :=
  let s : State := (s.ctxAt p k).shadow.reserved.foldl (fun (t : State) x =>
    t.updCore x.1 fun c => { c with reserved := c.reserved.filter (· != x.2) }) s
  (s.vacate p k).updCore p fun c =>
    let c := (c.dropQueued k).freeBanks k
    { c with
      copy := { c.copy with chain := c.copy.chain.filter fun h => h.ctx != k }
      link := { c.link with cmds := c.link.cmds.filter fun l => l.ctx != k || linkIssued l } }

/-! ## The save image (R224) -/

def bytes8 (v : Word) : List Byte := leBytes 8 v.toNat

/-- Mode register of a context (R83). -/
def Core.modeOf (c : Core) (x : Ctx) : Nat :=
  (if x.cfg.free then 1 else 0) + (if x.inIlk then 2 else 0) + (if c.dblk.dbg.getLsbD x.id then 4 else 0)

/-- Shape word (R223). -/
def Ctx.shape (x : Ctx) : Nat := x.cfg.usem.toNat % 2 ^ 32 + 8 * 2 ^ 32

def addrRegWord (a : AddrReg) : Word := addrWord (a.offset.toNat, a.space.toNat, a.index.toNat)

/-- A dust-sheet entry. Of its header the spec places the valid bit and the tag; the other fields' places are the
model's. Log 21. -/
def dustBytes (d : DustEntry) : List Byte :=
  let head := fun (file reg : Nat) (m : Nat) =>
    leBytes 1 (1 + 2 * file) ++ (leBytes 1 reg ++ (leBytes 2 d.k ++ (leBytes 8 d.land.seq ++ (leBytes 16 m ++
      (leBytes 2 0 ++ leBytes 2 d.land.tag.toNat)))))
  let pad := fun (b : List Byte) => b ++ List.replicate (512 - b.length) 0
  match d.land.res with
  | .s n v => head 0 n 0 ++ pad (bytes8 v)
  | .p n m v => head 1 n m.toNat ++ pad (leBytes 16 v.toNat)
  | .v n m x => head 2 n m.toNat ++ pad (x.toList.flatMap fun w => leBytes 4 w.toNat)
  | .a n v => head 3 n 0 ++ pad (bytes8 (addrRegWord v))
  | .h n v => head 4 n 0 ++ pad (bytes8 v)
  | .skim m v => head 5 0 m.toNat ++ pad (bytes8 v)

/-- The 176,128 bytes of the image of context x of core c. -/
def saveImage (c : Core) (x : Ctx) : List Byte :=
  let g := x.regs
  let w8 := fun (v : Nat) => leBytes 8 v
  [x.shape, c.modeOf x, x.flow.bundle, x.flow.stopB - x.flow.stopAt.getD x.flow.stopB, x.cfg.ttoff.toNat, g.lnk.toNat,
    g.skim.toNat, g.rrb.toNat].flatMap w8 ++
  g.s.toList.flatMap bytes8 ++
  g.p.toList.flatMap (fun m => leBytes 16 m.toNat) ++
  (List.range 8).flatMap (fun k => (List.range 32).flatMap fun v =>
    (List.range 16).flatMap fun i => leBytes 4 (lane ((g.v[v]?).getD Lanes.zero) (16 * k + i)).toNat) ++
  g.a.toList.flatMap (fun a => bytes8 (addrRegWord a)) ++
  g.h.toList.flatMap bytes8 ++
  g.gm.toList.flatMap (fun m => w8 m.toNat) ++
  g.lc.toList.flatMap bytes8 ++ g.lsa.toList.flatMap (fun v => w8 v.toNat) ++ g.lea.toList.flatMap (fun v => w8 v.toNat) ++
  g.dm.toList.flatMap (fun v => w8 v.toNat) ++
  List.replicate 32 0 ++
  x.staging.toList.flatMap (fun t => t.toList.flatMap bytes8) ++
  c.board.toList.flatMap (fun e => if servesCtx x.id e then bytes8 (entryWordOf e) else List.replicate 8 0) ++
  (x.dust.take 256).flatMap dustBytes ++ List.replicate (544 * (256 - x.dust.length)) 0 ++
  readRun x.spill 0 16384 ++
  g.ts.toList.flatMap (fun t => leBytes 2 t.toNat) ++ g.tp.toList.flatMap (fun t => leBytes 2 t.toNat) ++
  (List.range 8).flatMap (fun k => g.tv.toList.flatMap fun t => leBytes 2 ((t[k]?).getD 0).toNat) ++
  List.replicate 320 0

/-! ## Restoring (R225, R243) -/

/-- The n-byte number at an offset of an image. -/
def imageAt (im : List Byte) (off n : Nat) : Nat := leVal ((im.drop off).take n)

def imageWord (im : List Byte) (off : Nat) : Word := BitVec.ofNat 64 (imageAt im off 8)

/-- Offset of the first field of an image that is not well formed: a reserved bit set, a bundle index too large. -/
def badField (im : List Byte) : Option Nat :=
  let below := fun (off n lim : Nat) => ((List.range n).map fun i => off + 8 * i).find? fun o => lim ≤ imageAt im o 8
  (((((((((((below 0 1 (2 ^ 36)).orElse fun _ => below 0x8 1 8).orElse fun _ => below 0x10 1 16384).orElse fun _ =>
    below 0x38 1 16).orElse fun _ => below 0x4440 16 (2 ^ 45)).orElse fun _ => below 0x44C0 32 (2 ^ 46)).orElse fun _ =>
    below 0x45C0 8 256).orElse fun _ => below 0x4620 8 (2 ^ 14)).orElse fun _ => below 0x4660 8 64).orElse fun _ =>
    below 0x46A0 4 1).orElse fun _ => below 0x4A00 64 (2 ^ 63)).orElse fun _ => below 0x2AEC0 40 1

/-- CTX_STATE and CTX_SHAPE: code and auxiliary words. -/
def restoreFault (im : List Byte) (capm : Word) : Option (Nat × Word × Word) :=
  match badField im with
  | some o => some (0x0A02, BitVec.ofNat 64 o, 0)
  | none =>
    if 8 < imageAt im 4 1 % 16 || (BitVec.ofNat 64 (imageAt im 0 4) &&& ~~~capm) != 0 then some (0x0A01, imageWord im 0, capm)
    else none

/-- A restored handle holds only while the table still says so (R243). -/
def Part.recheck (p : Part) (h : Word) : Word :=
  if handleValid h && handleFor (p.xlatEntry (handleVpn h)) (handleVpn h) != h then h &&& ~~~1#64 else h

/-- Registers as an image gives them; the loops are not in it. -/
def Regs.load (p : Part) (im : List Byte) (g : Regs) : Regs :=
  { g with
    s := Vector.ofFn fun (i : Fin 64) => imageWord im (0x40 + 8 * i.val)
    p := Vector.ofFn fun (i : Fin 32) => BitVec.ofNat 128 (imageAt im (0x240 + 16 * i.val) 16)
    v := Vector.ofFn fun (i : Fin 32) => lanesOf fun l =>
      BitVec.ofNat 32 (imageAt im (0x440 + 2048 * (l / 16) + 64 * i.val + 4 * (l % 16)) 4)
    a := Vector.ofFn fun (i : Fin 16) => addrOf (imageWord im (0x4440 + 8 * i.val))
    h := Vector.ofFn fun (i : Fin 32) => p.recheck (imageWord im (0x44C0 + 8 * i.val))
    gm := Vector.ofFn fun (i : Fin 8) => BitVec.ofNat 8 (imageAt im (0x45C0 + 8 * i.val) 1)
    lc := Vector.ofFn fun (i : Fin 4) => imageWord im (0x4600 + 8 * i.val)
    lsa := Vector.ofFn fun (i : Fin 4) => BitVec.ofNat 14 (imageAt im (0x4620 + 8 * i.val) 2)
    lea := Vector.ofFn fun (i : Fin 4) => BitVec.ofNat 14 (imageAt im (0x4640 + 8 * i.val) 2)
    dm := Vector.ofFn fun (i : Fin 8) => BitVec.ofNat 6 (imageAt im (0x4660 + 8 * i.val) 1)
    lnk := imageWord im 0x28, skim := imageWord im 0x30, rrb := BitVec.ofNat 4 (imageAt im 0x38 1)
    ts := Vector.ofFn fun (i : Fin 64) => BitVec.ofNat 16 (imageAt im (0x2AC00 + 2 * i.val) 2)
    tp := Vector.ofFn fun (i : Fin 32) => BitVec.ofNat 16 (imageAt im (0x2AC80 + 2 * i.val) 2)
    tv := Vector.ofFn fun (i : Fin 32) => Vector.ofFn fun (k : Fin 8) => BitVec.ofNat 16 (imageAt im (0x2ACC0 + 64 * k.val + 2 * i.val) 2) }

/-- Landings of handles in a dust sheet are rechecked as well. -/
def DustEntry.recheck (p : Part) (d : DustEntry) : DustEntry :=
  match d.land.res with
  | .h n v => { d with land := { d.land with res := .h n (p.recheck v) } }
  | _ => d

/-- The context as restored: STOPPED, or HALTED where it had halted; finj is 0 (R316). -/
def SavedCtx.ctxOf (p : Part) (im : List Byte) (v : SavedCtx) : Ctx :=
  let x := v.rest
  let g := x.regs.load p im
  { x with
    st := if x.st = .halted then .halted else .stopped
    cfg := { x.cfg with finj := 0, finjLeft := 0, ttoff := imageWord im 0x20 }
    regs := g, shadow := { x.shadow with regs := { x.shadow.regs with h := x.shadow.regs.h.map p.recheck } }
    dust := x.dust.map (DustEntry.recheck p)
    staging := Vector.ofFn fun (i : Fin 13) => Vector.ofFn fun (j : Fin 8) => imageWord im (0x46C0 + 64 * i.val + 8 * j.val)
    spill := writeRun [] 0 ((im.drop 0x26C00).take 16384)
    flow := { x.flow with bundle := imageAt im 0x10 8 } }

/-! ## Saving by eviction (R224, R329) -/

/-- No context of a core is bound. -/
def Core.idle (c : Core) : Bool := c.ctxs.all fun x => x.st == .empty

/-- Core state as after a load with nothing in it: ring descriptors, weight buffers, scales, accumulators, engine queues, hot-spot
table, the window of the scatter-accumulate engine, whose W is 64 (R215). -/
def Core.clearUnit (c : Core) : Core :=
  { c with
    rings := Vector.replicate 16 Ring.reset, roles := WeightRoles.reset, wbuf0 := Vector.replicate 8 []
    wbuf1 := Vector.replicate 8 [], scaleA := [], scaleB := [], scaleQ := [], acc := [], banks := Vector.replicate 32 0
    copy := { c.copy with queue := [] }, sa := { c.sa with queue := [], window := [], w := 64 }
    profile := { c.profile with hot := [] } }

/-- Core state of a core as it stood (R222). -/
def Core.loadUnit (u c : Core) : Core :=
  { c with
    rings := u.rings, roles := u.roles, wbuf0 := u.wbuf0, wbuf1 := u.wbuf1, scaleA := u.scaleA, scaleB := u.scaleB
    scaleQ := u.scaleQ, acc := u.acc, banks := u.banks, copy := { c.copy with queue := u.copy.queue }
    sa := { c.sa with queue := u.sa.queue, window := u.sa.window, w := u.sa.w }, profile := { c.profile with hot := u.profile.hot } }

/-- Bytes of a save image, and its room in whole 4 KiB blocks (R224). -/
def imageBytes : Nat := 176128

/-- Places for a save image in the partition's memory: eleven in each frame of the partition that no entry names. -/
def State.savePlaces (s : State) (n : Nat) : List Nat :=
  (s.hub.frames.filter fun x => x.part == some n && x.far.isNone && x.moving.isNone && !s.frameNamed x.num none).flatMap fun x =>
    ((List.range 11).map fun j => frameBase x.num + imageBytes * j).filter fun a => !s.saved.any fun v => v.place == some a

/-- The place that the command processor picks, if there is one. -/
def State.savePlace (s : State) (n : Nat) : Option Nat :=
  let ps := s.savePlaces n
  ps[Config.savePlace s.draws % max ps.length 1]?

/-- Scratchpad regions of the trowels that a saved context holds, but for those that a link command still writes; pages, and regions on
their way to or with another holder, stay where they are. -/
def State.scratchRuns (s : State) (v : SavedCtx) : List (Nat × Nat) :=
  let os := (s.coreAt v.core).link.cmds.map (linkOutstanding (s.coreAt v.core) s.now)
  ((v.unit.board.toList.filter fun e => servesCtx v.ctx e && e.kind == 1 && e.state == 0 && e.space != 4).map
    fun e => s.regionRuns v.unit e).filter (fun rs => !writesInto os rs) |>.flatten

/-- The last context of a core has left it: its state and its contexts' regions are moved out with them (R222). -/
def State.moveOut (p : Nat) (s : State) : State :=
  let u := s.coreAt p
  let out := fun (v : SavedCtx) =>
    let rs := s.scratchRuns v
    { v with
      unit := Core.loadUnit u v.unit
      regions := some (rs.map fun r => ⟨r.1, readRun s.mem r.1 r.2⟩, s.bad.filter fun b => rs.any fun r => decide (r.1 ≤ b.1) && decide (b.1 < r.1 + r.2)) }
  ({ s with saved := s.saved.map fun v => if v.core = p && v.regions.isNone then out v else v } : State).updCore p Core.clearUnit

/-- The image goes to its place with fresh check words. -/
def State.writeImage (place : Option Nat) (im : List Byte) (s : State) : State :=
  match place with
  | none => s
  | some a => s.landRuns [⟨a, im⟩] []

/-- Save a context and leave it EMPTY; the last one of a core takes the core's state with it. -/
def State.saveCtx (n tag p k : Nat) (forTag : Option Nat) (s : State) : State :=
  let c := s.coreAt p
  let x := c.ctxAt k
  if x.st = .empty then s
  else
    let im := saveImage c x
    let place := s.savePlace n
    let v : SavedCtx :=
      { part := n, tag := tag, core := p, ctx := k, p := x.flow.stopAt.getD x.flow.stopB, place := place
        image := if place.isSome then [] else im, rest := x, unit := c, regions := none, forTag := forTag }
    let s := (({ s with saved := s.saved ++ [v], draws := s.draws + 1 } : State).writeImage place im).vacate p k
    if (s.coreAt p).idle then s.moveOut p else s

/-- Whether a context may be saved as it stands. -/
def Ctx.savable (x : Ctx) : Bool := x.gate.isEmpty && x.enq.isEmpty && x.journal.isEmpty

/-- Whether a context waits for nothing before a save: stopped for good, or ended. -/
def Ctx.settled (x : Ctx) : Bool := (x.st == .stopped && x.flow.evict.isNone) || x.st == .halted || x.st == .empty

/-- A stop request P for a context that has none (R226). -/
def Ctx.request (P : Nat) (x : Ctx) : Ctx :=
  if (x.st == .running || x.st == .blocked || x.st == .parked || x.st == .loaded || x.st == .debug) && x.flow.stopAt.isNone && x.flow.evict.isNone then
    { x with flow := { x.flow with stopAt := some P } }
  else x

def State.request (P : Nat) (ms : List (Nat × Nat)) (s : State) : State :=
  ms.foldl (fun (t : State) m => t.updCtx m.1 m.2 (Ctx.request P)) s

/-- One slot's share of evicting contexts: a stop; for contexts inside a bay a resume to the next commit, all together;
then, once what they started has performed, the save. True once all are EMPTY. -/
def State.evictStep (n tag P : Nat) (ms : List (Nat × Nat)) (forTag : Option Nat) (s : State) : State × Bool :=
  let ms := ms.filter fun m => (s.ctxAt m.1 m.2).cfg.launch == tag
  let xs := ms.map fun m => s.ctxAt m.1 m.2
  if !xs.all Ctx.settled then (s.request P ms, false)
  else if ms.any fun m => s.performing m.1 m.2 then (s, false)
  else if xs.all fun x => x.savable || x.st == .empty then
    (ms.foldl (fun (t : State) m => t.saveCtx n tag m.1 m.2 forTag) s, true)
  else
    (ms.foldl (fun (t : State) m =>
      if (t.ctxAt m.1 m.2).st = .stopped then
        (t.updCtx m.1 m.2 fun x => { x with flow := { x.flow with evict := some P } }).schedule P phExternal (.contextResume m.1 m.2 P)
      else t) s, false)

/-! ## Restoring what an urgent launch displaced (R329) -/

/-- Bundles of a core's instruction store that are taken, but for contexts that satisfy f (R8). -/
def Core.bundlesBut (f : Nat → Bool) (c : Core) : Nat := (c.ctxs.filter fun x => !f x.id).foldl (fun n x => n + x.cfg.code) 0

/-- Whether a saved context can go back: its context is EMPTY, the entries it had are, and its code has room. -/
def State.placeFree (s : State) (v : SavedCtx) : Bool :=
  let c := s.coreAt v.core
  (c.ctxAt v.ctx).st == .empty && decide (c.bundlesBut (· == v.ctx) + v.rest.cfg.code ≤ Config.bundles) && (List.range 64).all fun t =>
    !(((v.unit.board[t]?).map (servesCtx v.ctx)) == some true) || ((c.board[t]?).map (·.kind)) == some 0

/-- The image as engine reads give it. -/
def State.imageOf (s : State) (v : SavedCtx) : List Byte :=
  match v.place with
  | none => v.image
  | some a => s.decrypted (s.entryKey a) a imageBytes

/-- INTEGRITY, of a sector of the image that fails its check, before CTX_STATE and CTX_SHAPE (R225): code, auxiliary words, address. -/
def State.restoreFault (s : State) (v : SavedCtx) : Option (Nat × Word × Word × Option (Nat × Nat × Nat)) :=
  match v.place.bind fun a => (s.failing (s.entryKey a) a imageBytes).head? with
  | some t => some (0x0C01, 0, 0, some (placeOf v.core t))
  | none => (Machine.restoreFault (s.imageOf v) (s.coreAt v.core).capm).map fun f => (f.1, f.2.1, f.2.2, none)

/-- Moved regions go back to their places with the check words they had. -/
def State.regionsBack (v : SavedCtx) (s : State) : State :=
  match v.regions with
  | none => s
  | some (rs, bad) =>
    let t := s.landRuns rs []
    { t with bad := bad.foldl (fun b x => setSyndrome b x.1 x.2) t.bad }

/-- A bay's number on a core that its context comes back to. -/
def Core.rebay (k old new : Nat) (c : Core) : Core :=
  { c with
    rings := c.rings.map fun r => { r with resv := r.resv.map fun v => if v.ctx = k ∧ v.bay = old then { v with bay := new } else v }
    link := { c.link with cmds := c.link.cmds.map fun l => if l.ctx = k ∧ l.bay = old then { l with bay := new } else l } }

/-- The same in a context: what its bay has left in the dust sheet and in the drain stage goes by the bay's new number (R92). -/
def Ctx.rebay (new : Nat) (x : Ctx) : Ctx :=
  let old := x.bay.serial
  { x with
    bay := { x.bay with serial := new }
    dust := x.dust.map fun d => if d.land.bay = old then { d with land := { d.land with bay := new } } else d
    drain := x.drain.map fun d => if d.elem.bay = old then { d with elem := { d.elem with bay := new } } else d }

/-- One context goes back onto its core. -/
def State.restoreCtx (v : SavedCtx) (s : State) : State :=
  let p := s.partAt v.part
  let x := v.ctxOf p (s.imageOf v)
  let back := fun (c : Core) =>
    { c with
      board := (List.range 64).foldl (fun (b : Vector TEntry 64) t =>
        match v.unit.board[t]? with
        | some e => if servesCtx v.ctx e then b.setIfInBounds t e else b
        | none => b) c.board
      remote := v.unit.remote.filter (fun r => ((v.unit.board[r.1]?).map fun e => servesCtx v.ctx e && e.state == 5) == some true) ++ c.remote }
  let s := s.updCore v.core fun c => if v.regions.isSome && c.idle then Core.loadUnit v.unit c else c
  let new := max ((s.coreAt v.core).ctxAt v.ctx).bay.serial x.bay.serial + 1
  (((s.regionsBack v).updCore v.core back).updCore v.core (Core.rebay v.ctx x.bay.serial new)).updCtx v.core v.ctx fun _ => x.rebay new

/-- The contexts saved of a launch go back together and resume at Q; or the first image that fails says why not. -/
def State.restoreLaunch (n tag : Nat) (s : State) : State × Option (Nat × Word × Word × Option (Nat × Nat × Nat)) :=
  let vs := s.saved.filter fun v => v.part == n && v.tag == tag
  match vs.findSome? s.restoreFault with
  | some f => (s, some f)
  | none =>
    let q := s.now + 16
    let s := { s with saved := s.saved.filter fun v => !(v.part == n && v.tag == tag) }
    (vs.foldl (fun (t : State) v =>
      (t.restoreCtx v).schedule q phExternal (.contextResume v.core v.ctx q)) s, none)

end Sys2Proof.Machine
end

