-- ==== Sys2Proof/Machine/Launch.lean ====
section
/-! DEFINITION. Launches (R328 to R330, R165, R233, R265, R268, R310): reading an image, binding, reserving, matching,
loading, arming and starting it; its retirement and its end. -/

namespace Sys2Proof

/-! ## Images (R33) -/

/-- Streams of a logical core, and its contexts' numbers in rising order. -/
def Image.streamsOf (im : Image) (l : Nat) : List ImgStream := im.streams.filter fun s => s.lcore == l

/-- Regions with a trowel that a logical core's contexts hold first, in declaration order: they take t0 and on (R165). -/
def Image.heldBy (im : Image) (l : Nat) : List ImgRegion := im.regions.filter fun r => !r.readonly && r.lcore == l

/-- Granules of one store of a space. -/
def storeGranules (sp : Nat) : Nat :=
  match sp with
  | 0 => 128
  | 2 => 128
  | 3 => 32
  | 4 => 2 ^ 18
  | _ => 0

/-- Bytes of a granule. -/
def granuleBytes (sp : Nat) : Nat :=
  match sp with
  | 0 => 2 ^ 12
  | 2 => 2 ^ 16
  | 3 => 2 ^ 19
  | _ => 2 ^ 21

def ImgRegion.bytes (r : ImgRegion) : Nat := r.granules * granuleBytes r.space

/-- A region fits its store, its data fits it, and a context of its core holds it. -/
def Image.regionOk (im : Image) (r : ImgRegion) : Bool :=
  decide (1 ≤ r.granules) && decide (r.first + r.granules ≤ storeGranules r.space) && decide (r.data.length ≤ r.bytes) &&
  im.streams.any fun s => s.lcore == r.lcore && s.ctx == r.ctx

/-- Bundles of a logical core's streams. -/
def Image.bundlesOf (im : Image) (l : Nat) : Nat := (im.streamsOf l).foldl (fun n t => n + t.code.length / 16) 0

/-- A stream: a context of a core of the image, whole bundles, all of the core no more than its instruction store holds (R8, R38). -/
def Image.streamOk (im : Image) (s : ImgStream) : Bool :=
  decide (s.lcore < im.cores) && decide (s.ctx < 4) && s.code.length % 16 == 0 && decide (im.bundlesOf s.lcore ≤ Config.bundles) &&
  (im.streams.filter fun t => t.lcore == s.lcore && t.ctx == s.ctx).length == 1 &&
  decide (((im.streamsOf s.lcore).filter fun t => !t.free).length ≤ 1)

/-- A ring: a unit region of its core, 16 KiB aligned, with room for its tiles (R30). -/
def Image.ringOk (im : Image) (r : Nat × Nat × Nat × Nat) : Bool :=
  match im.regions[r.2.1]? with
  | none => false
  | some g =>
    decide (r.1 < 16) && g.space == 0 && g.lcore == r.2.2.2 && g.first % 4 == 0 && decide (1 ≤ r.2.2.1) && decide (r.2.2.1 ≤ 16) &&
    decide (r.2.2.1 * 16384 ≤ g.bytes) && (im.rings.filter fun t => t.1 == r.1 && t.2.2.2 == r.2.2.2).length == 1

/-- A channel declaration (R268): its numbers, its flags= region, and the formats of its kind: raw alone for agfwd, an element
format for allred, which combines elements (DEDUCED: log 52). -/
def Image.channelOk (im : Image) (d : ChanDecl) : Bool :=
  decide (d.ch < 256) && decide (d.lcore < im.cores) && decide (16 ≤ d.depth) && decide (d.depth ≤ 256) && decide (d.fmt < 5) &&
  (im.channels.filter fun e => e.ch == d.ch).length == 1 && d.dom.all (fun m => decide (m < 8)) &&
  (match d.kind with
   | .agfwd => d.fmt == 0
   | .allred => d.fmt != 0
   | _ => d.flags.all fun f => im.regions.any fun r => r.space == 0 && r.lcore == d.lcore && r.first * 2 ^ 12 == f.1 && r.bytes == f.2)

/-- A .grant directive (R265, R266): a 12-bit chip ID, and where it grants, a region of the image. -/
def Image.grantOk (im : Image) (g : ImgGrant) : Bool :=
  decide (g.chip < 2 ^ 12) && match g.region with
    | .inl i => decide (i < im.regions.length)
    | .inr _ => true

/-- An image that is not malformed (R30, R33). -/
def Image.wf (im : Image) : Bool :=
  decide (1 ≤ im.cores) && decide (im.cores ≤ 64) && im.streams.all im.streamOk && im.regions.all im.regionOk &&
  im.rings.all im.ringOk && im.channels.all im.channelOk && im.slotneed.all (fun m => decide (m.1 < 19)) &&
  decide (im.grants.length ≤ 1024) && im.grants.all im.grantOk && im.groups.all (fun g => decide (g < 64)) && decide (im.usem.toNat < 2 ^ 32) &&
  decide (im.slack < 2 ^ 32) && decide (im.ilkpad < 2 ^ 16) &&
  im.topology.all (fun t => decide (t.1 ≤ 1) && t.2.all fun l => decide (l < im.cores))

end Sys2Proof

namespace Sys2Proof.Machine

/-! ## Bind (R310, R328 step 2) -/

/-- A logical core and the physical core bound to it. -/
abbrev Binding := List (Nat × Nat)

/-- Whether a logical core bound to p keeps the topology classes with those bound before it. -/
def topologyOk (im : Image) (acc : Binding) (l p : Nat) : Bool :=
  im.topology.all fun t => !t.2.contains l || acc.all fun b => !t.2.contains b.1 ||
    (if t.1 = 0 then clusterOf b.2 == clusterOf p else dieOf b.2 == dieOf p)

/-- Whether the entries that an image assigns to a logical core are empty on a board (R165). -/
def Core.entriesFree (im : Image) (l now : Nat) (c : Core) : Bool :=
  (List.range (im.heldBy l).length).all fun t => c.entryFree none now t

/-- Whether a physical core of the partition can receive a logical core: in service, covering usem, its contexts usable, with room in
its instruction store for what its other contexts leave. -/
def State.coreFits (s : State) (n : Nat) (im : Image) (usable : Nat → Nat → Bool) (acc : Binding) (l p : Nat) : Bool :=
  let c := s.coreAt p
  c.phys == p && !(acc.any fun b => b.2 == p) && (s.partAt n).ctl.getLsbD (clusterOf p) && c.cap.inService &&
  (im.usem &&& ~~~(c.cap.capm.setWidth 64)) == 0 && (im.streamsOf l).all (fun t => usable p t.ctx) && topologyOk im acc l p &&
  decide (c.bundlesBut (usable p) + im.bundlesOf l ≤ Config.bundles)

/-- The first binding of the remaining logical cores, candidates in the given order. -/
def search (fits : Binding → Nat → Nat → Bool) (cands : List Nat) : List Nat → Binding → Option Binding
  | [], acc => some acc
  | l :: ls, acc => cands.findSome? fun p => if fits acc l p then search fits cands ls (acc ++ [(l, p)]) else none

/-- Cores in an order that the machine chooses (R310). -/
def State.candidates (s : State) : List Nat := (List.range 64).map fun i => (i + Config.bindOrder s.draws) % 64

def State.bindWith (s : State) (n : Nat) (im : Image) (usable : Nat → Nat → Bool) (entries : Bool) : Option Binding :=
  search (fun acc l p => s.coreFits n im usable acc l p && (!entries || (s.coreAt p).entriesFree im l s.now)) s.candidates
    (List.range im.cores) []

/-- Launch of a partition that a context belongs to. -/
def State.holderOf (s : State) (n p k : Nat) : Option Launch :=
  (s.partAt n).launches.find? fun l => l.tag == (s.ctxAt p k).cfg.launch && l.members.any fun m => m.1 == p && m.2.1 == k

def State.ctxEmpty (s : State) (p k : Nat) : Bool :=
  let c := s.coreAt p
  (c.ctxAt k).st == .empty && !(c.copy.queue.any (fun q => queuedCtx q == k) || c.sa.queue.any fun q => q.ctx == k)

/-- Contexts that an urgent launch may take: EMPTY, or of a running normal-priority launch (R329). -/
def State.takeable (s : State) (n p k : Nat) : Bool :=
  s.ctxEmpty p k || match s.holderOf n p k with
    | some l => l.running && !l.urgent
    | none => false

/-! ## Reserve (R328 step 3) -/

/-- Die, cluster and core of a region's store give its first granule's LOC and its address (R164, R165). -/
def State.regionLoc (s : State) (n p : Nat) (r : ImgRegion) : Nat :=
  match r.space with
  | 0 => r.lcore * 128 + r.first
  | 2 => (s.partAt n).clusterIdx (clusterOf p) * 128 + r.first
  | 3 => dieOf p * 128 + clusterOf p % 4 * 32 + r.first
  | _ => r.first

/-- Place of a region's first byte in the line of places; pages stand for themselves. -/
def regionKey (p : Nat) (r : ImgRegion) : Nat :=
  match r.space with
  | 0 => unitBase p + r.first * 2 ^ 12
  | 2 => clusterBase (clusterOf p) + r.first * 2 ^ 16
  | 3 => dieBase (dieOf p) + (clusterOf p % 4 * 32 + r.first) * 2 ^ 19
  | _ => pageKey r.first

/-- Place and bytes of a trowel that some holder has. -/
def State.recKey (s : State) (n : Nat) (r : TRec) : Nat × Nat :=
  let q := s.partAt n
  let base := match r.space with
    | 0 => (q.coreFor r.launch (r.loc / 128)).map fun c => unitBase c + r.loc % 128 * 2 ^ 12
    | 2 => ((List.range 16).find? fun k => q.ctl.getLsbD k && q.clusterIdx k == r.loc / 128).map fun k => clusterBase k + r.loc % 128 * 2 ^ 16
    | 3 => some (dieBase (r.loc / 128) + r.loc % 128 * 2 ^ 19)
    | _ => some (pageKey r.loc)
  (base.getD (2 ^ 61), r.count * granuleBytes r.space)

/-- Whether a full eviction has moved a trowel's region out of its store (R222). -/
def State.movedOut (s : State) (n : Nat) (r : TRec) : Bool :=
  r.space != 4 && s.saved.any fun v => v.part == n && v.regions.any fun g => g.1.any fun u => u.addr == (s.recKey n r).1

/-- A trowel that exists: one that a party holds, or one at home of a launch that the partition still has (R174). -/
def Part.stands (p : Part) (r : TRec) : Bool :=
  r.count != 0 && (r.holder != .home || p.launches.any fun l => l.tag == r.launch)

/-- Places in use: trowels, readonly regions. -/
def State.usedKeys (s : State) (n : Nat) : List (Nat × Nat) :=
  ((s.partAt n).trowels.filter fun r => (s.partAt n).stands r && !s.movedOut n r).map (s.recKey n) ++ (s.partAt n).readonly

/-- Physical core of a logical core in a binding. -/
def boundTo (b : Binding) (l : Nat) : Nat := ((b.find? fun x => x.1 == l).map (·.2)).getD 0

/-- Whether no two runs share a byte. -/
def disjointRuns : List (Nat × Nat) → Bool
  | [] => true
  | r :: rs => !overlaps rs r.1 r.2 && disjointRuns rs

/-- Places of an image's regions under a binding. -/
def imagePlaces (im : Image) (b : Binding) : List (Nat × Nat) :=
  im.regions.map fun r => (regionKey (boundTo b r.lcore) r, r.bytes)

/-- Regions of an image: no two share a byte (R164), none names page 0 or 1 (R334, R342), none lies over what is in use, pages are mapped. -/
def State.regionsFree (s : State) (n : Nat) (im : Image) (b : Binding) : Bool :=
  disjointRuns (imagePlaces im b) && im.regions.all fun r =>
    !(r.space == 4 && decide (r.first ≤ 1)) && !overlaps (s.usedKeys n) (regionKey (boundTo b r.lcore) r) r.bytes &&
    (r.space != 4 || (List.range r.granules).all fun i => entryValid ((s.partAt n).xlatEntry (r.first + i)))

/-- Whether the partition owns every entry of a mask (R212). -/
def State.ownsSlots (s : State) (n r : Nat) (mask : Word) : Bool :=
  (List.range 64).all fun i => !mask.getLsbD i || match (s.hub.slots[r]?).bind fun v => v[i]? with
    | some e => e.getLsbD 7 && e.toNat % 16 == n
    | none => false

/-- The lowest free line of a range in a scope (R53). -/
def State.freeLine (s : State) (n lo hi scope : Nat) : Option (Nat × Nat) :=
  ((List.range' lo (hi - lo)).find? fun l => !(s.partAt n).launches.any fun x => x.lines.contains (l, scope)).map fun l => (l, scope)

/-- The lines of a launch: one of the partition, one of each cluster and each die it stands on; none when one is missing. -/
def State.pickLines (s : State) (n : Nat) (b : Binding) : Option (List (Nat × Nat)) :=
  let ks := dedup (b.map fun x => clusterOf x.2)
  let ds := dedup (b.map fun x => dieOf x.2)
  let all := [s.freeLine n 0 8 0] ++ ks.map (s.freeLine n 12 16) ++ ds.map (s.freeLine n 8 12)
  if all.all Option.isSome then some (all.filterMap id) else none

/-- Step 3 (R53, R165, R212). -/
def State.reserveFor (s : State) (n : Nat) (im : Image) (b : Binding) : Option (List (Nat × Nat)) :=
  let live := ((s.partAt n).trowels.filter (s.partAt n).stands).length
  let ok := im.regions.all (fun r => decide ((im.heldBy r.lcore).length ≤ 64)) &&
    decide (live + (im.regions.filter fun r => !r.readonly).length ≤ Config.trowelRecords) &&
    im.slotneed.all (fun m => s.ownsSlots n m.1 m.2) && im.groups.all (fun g => (s.memberIdx n g).isSome) && s.regionsFree n im b
  if ok then s.pickLines n b else none

/-! ## Match (R265, R268, R328 step 4) -/

/-- Whether the grant that a p2p channel names covers a region of its peer: one of that chip, which this side uses. -/
def peerGranted (im : Image) (d : ChanDecl) : Bool :=
  match im.grants[d.grant]? with
  | some g => g.chip == d.peerChip && match g.region with
    | .inl _ => false
    | .inr _ => true
  | none => false

/-- Members of a collective: 2 to 64, each on a chip of its own, this chip among them. -/
def membersOk (chip : Nat) (d : ChanDecl) : Bool :=
  decide (2 ≤ d.order.length) && decide (d.order.length ≤ 64) && (dedup (d.order.map (·.1))).length == d.order.length &&
  d.order.any fun m => m.1 == chip

/-- Whether a channel number may be loaded, and its peers are other chips. -/
def State.channelFree (s : State) (n : Nat) (im : Image) (d : ChanDecl) : Bool :=
  (match s.chan n d.ch with
   | none => true
   | some c => !c.loaded && decide (c.heldUntil ≤ s.ticks)) &&
  (match d.kind with
   | .send => d.peerChip != s.chipId && peerGranted im d
   | _ => membersOk s.chipId d)

/-- Grants and channels find their peers: what the far chips hold is not this chip's to say. -/
def State.matched (s : State) (n : Nat) (im : Image) : Bool :=
  im.channels.all (s.channelFree n im) &&
  ((im.channels.isEmpty && im.grants.isEmpty) || Config.peerAgrees s.draws)

/-! ## Load and arm (R233, R328 steps 5 and 6) -/

/-- A domain register of a line. -/
def domainReg (l : Option (Nat × Nat)) : BitVec 6 :=
  match l with
  | some x => BitVec.ofNat 6 (16 + x.1)
  | none => 0

/-- dm0 to dm2 of a core under the lines of its launch (R53). -/
def domainsOf (lines : List (Nat × Nat)) (p : Nat) : Vector (BitVec 6) 8 :=
  #v[domainReg (lines.find? fun l => decide (l.1 < 8)),
     domainReg (lines.find? fun l => decide (12 ≤ l.1) && l.2 == clusterOf p),
     domainReg (lines.find? fun l => decide (8 ≤ l.1) && decide (l.1 < 12) && l.2 == dieOf p), 0, 0, 0, 0, 0]

/-- A context as a launch loads it. -/
def loadedCtx (im : Image) (t : ImgStream) (tag start : Nat) (dm : Vector (BitVec 6) 8) (x : Ctx) : Ctx :=
  let regs := { Regs.reset with dm := dm }
  ({ Ctx.reset x.id with
    st := .loaded, istore := writeRun [] 0 t.code, regs := regs
    cfg :=
      { CtxCfg.reset with
        free := t.free, lcore := t.lcore, code := t.code.length / 16, ttb := BitVec.ofNat 64 start, slack := BitVec.ofNat 32 im.slack
        ilkpad := BitVec.ofNat 16 im.ilkpad, usem := im.usem, launch := tag }
    bay := x.bay } : Ctx).openBay

/-- Rings of a core. -/
def loadRings (im : Image) (l : Nat) (rs : Vector Ring 16) : Vector Ring 16 :=
  (im.rings.filter fun r => r.2.2.2 == l).foldl (fun (v : Vector Ring 16) r =>
    v.setIfInBounds r.1
      { Ring.reset with
        base := BitVec.ofNat 19 ((((im.regions[r.2.1]?).map (·.first)).getD 0) * 2 ^ 12), size := BitVec.ofNat 5 r.2.2.1 }) rs

/-- Board entry t of the trowel of a region. -/
def State.launchEntry (s : State) (n tag p : Nat) (r : ImgRegion) : TEntry :=
  { kind := 1, state := 0, ctx := r.ctx, taint := false, swatch := 0, space := r.space, gen := 0, loc := s.regionLoc n p r
    count := r.granules, launch := tag }

/-- Every non-zero entry of a core's hot-spot table is spilled, and the table cleared (R344). -/
def State.spillHot (p : Nat) (s : State) : State :=
  ((s.coreAt p).profile.hot.foldl (fun (t : State) e => if e.count = 0 then t else t.profile p 2 (hotBytes p e)) s).updCore p
    fun c => { c with profile := { c.profile with hot := [] } }

/-- One core is loaded: its contexts, its rings, its entries. DESIGN CHOICE: R188, R194, R196 and R215 say what a launch clears and not
what of it on a core where another launch's context is still bound; here weight and scale buffers, tags, banks and the scatter window
are cleared only on a core where no context is bound (log 27). -/
def State.loadCore (n tag start : Nat) (im : Image) (lines : List (Nat × Nat)) (l p : Nat) (s : State) : State :=
  (if (s.coreAt p).idle then s.spillHot p else s).updCore p fun c =>
    let c := if c.idle then
        { c.clearUnit with switch := { chooseAt := none, from_ := 3 } }
      else c
    let c : Core := (im.streamsOf l).foldl (fun (c : Core) t => c.updCtx t.ctx (loadedCtx im t tag start (domainsOf lines p))) c
    let held := im.heldBy l
    { c with
      rings := loadRings im l c.rings
      board := held.zipIdx.foldl (fun (b : Vector TEntry 64) r => b.setIfInBounds r.2 (s.launchEntry n tag p r.1)) c.board
      profile := { c.profile with snagSeq := 0 } }

/-- Records of the launch's trowels; records of launches that are gone make room. -/
def State.loadTrowels (n tag : Nat) (im : Image) (b : Binding) (s : State) : State :=
  let new := b.flatMap fun x => (im.heldBy x.1).zipIdx.map fun r =>
    recWith { TRec.free with holder := .board x.2 r.2 } (s.launchEntry n tag x.2 r.1)
  s.onPart n fun p =>
    { p with trowels := (p.trowels.filter fun r => r.holder != .home || (r.launch != tag && p.launches.any fun l => l.tag == r.launch)) ++ new }

/-- The initial data of a region, zero beyond it, with fresh check words. -/
def State.loadRegion (n p : Nat) (r : ImgRegion) (s : State) : State :=
  let bytes := r.data ++ List.replicate (r.bytes - r.data.length) 0
  let runs := if r.space = 4 then s.vRuns n (r.first * 2 ^ 21) r.bytes else [(regionKey p r, r.bytes)]
  s.landRuns (cutRuns runs bytes) []

/-- A channel entry under its next generation (R269). -/
def State.loadChannel (n : Nat) (d : ChanDecl) (s : State) : State :=
  let new : ChanRec :=
    { decl := d, gen := 1, loaded := true, heldUntil := 0, sends := 0, puts := 0, arms := 0, far := [], early := [], stale := 0
      out := [], pumping := false }
  match s.chan n d.ch with
  | none => s.onPart n fun p => { p with chans := p.chans ++ [new] }
  | some c => s.updChan n d.ch fun _ => { new with gen := c.gen + 1, stale := c.stale, pumping := c.pumping }

/-- Space, first granule and granules that a .grant directive describes: its own region's as it is bound, or what the peer has. -/
def State.grantedRegion (s : State) (n : Nat) (im : Image) (b : Binding) (i : Nat) (g : ImgGrant) : Nat × Nat × Nat :=
  let far := (Config.peerGrant s.draws i).2.2
  match g.region with
  | .inl r => ((im.regions[r]?).map fun x => (x.space, s.regionLoc n (boundTo b x.lcore) x, x.granules)).getD (0, 0, 0)
  | .inr _ => (if far.1 % 4 = 0 then 0 else far.1 % 4 + 1, far.2.1 % 2 ^ 18, far.2.2 % 2 ^ 18)

/-- Grant entry i as a directive fills it once it is matched, without a key slot yet, under its next generation (R265, R266). -/
def State.grantEntry (s : State) (n : Nat) (im : Image) (b : Binding) (i : Nat) (g : ImgGrant) : Grant :=
  let r := s.grantedRegion n im b i g
  { valid := true, rw := g.rw, side := g.region.isRight, chip := g.chip, ppart := (Config.peerGrant s.draws i).1 % 16, key := 0
    gen := ((((s.partAt n).grants[i]?).map (·.gen)).getD 0 + 1) % 64, space := r.1, loc := r.2.1, count := r.2.2
    peer := (Config.peerGrant s.draws i).2.1 % 1024 }

/-- What was encrypted under a slot's former key is encrypted under none that a slot holds: 128 names no slot. -/
def Frame.loseKey (k : Nat) (f : Frame) : Frame :=
  let lost := fun (v : Nat × Nat) => if v.1 = k then (128, v.2) else v
  { f with cipher := f.cipher.map lost, rekeyed := f.rekeyed.map fun x => (x.1, lost x.2) }

/-- The lowest slot beyond the partitions' own that no translation entry names and nothing is bound to. Log 23. -/
def State.freeKeySlot (s : State) : Option Nat :=
  (List.range' 16 112).find? fun k => !s.slotNamed k && !s.hub.keys.any fun b => b.slot == k && s.bindStands b

/-- The security processor gives a grant of a GDDR region a shared key slot; where it refuses, the grant names none (R248, R249). -/
def State.bindKey (n i : Nat) (s : State) : State :=
  match s.freeKeySlot, (s.partAt n).grants[i]? with
  | some k, some g =>
    (s.onHub fun h =>
      { h with keys := h.keys.filter (fun b => b.slot != k) ++ [{ slot := k, part := n, grant := some i }]
               frames := h.frames.map (Frame.loseKey k) }).onPart n fun p => { p with grants := p.grants.set i { g with key := k } }
  | _, _ => s

/-- Grant entries are filled from index 0 on. -/
def State.loadGrants (n : Nat) (im : Image) (b : Binding) (s : State) : State :=
  let new := im.grants.zipIdx.map fun g => s.grantEntry n im b g.2 g.1
  let s := s.onPart n fun p => { p with grants := new ++ p.grants.drop new.length }
  (List.range new.length).foldl (fun (t : State) i => if ((new[i]?).map (·.space)) == some 4 then t.bindKey n i else t) s

/-- Steps 5 and 6: everything bound becomes LOADED, and S is fixed. -/
def State.loadLaunch (c : Cmd) (im : Image) (b : Binding) (lines : List (Nat × Nat)) (s : State) : State :=
  let n := c.part
  let tag := c.num 2
  let start := up64 (s.now + 20000)
  let fixed := (im.regions.filter (·.readonly)).map fun r => (regionKey (boundTo b r.lcore) r, r.bytes)
  let l : Launch :=
    { tag := tag, cmd := c, urgent := decide (c.queue < 4), start := start, running := false
      members := b.flatMap fun x => (im.streamsOf x.1).map fun t => (x.2, t.ctx, x.1)
      masks := im.slotneed, lines := lines, chans := im.channels.map (·.ch), fixed := fixed, ending := false, yields := none }
  let s : State := b.foldl (fun (t : State) x => t.loadCore n tag start im lines x.1 x.2) s
  let s := s.loadTrowels n tag im b
  let s : State := im.regions.foldl (fun (t : State) r => t.loadRegion n (boundTo b r.lcore) r) s
  let s : State := im.channels.foldl (fun (t : State) d => t.loadChannel n d) s
  let s := s.onPart n fun p =>
    { p with launches := p.launches ++ [l], readonly := p.readonly ++ fixed }
  let s := s.loadGrants n im b
  s.schedule start phExternal (.launchStart n tag)

/-! ## Retirement and end (R330, R269, R344) -/

/-- Trowels of a launch go home with the next generation; their entries empty. -/
def State.homeTrowels (n : Nat) (mine : TRec → Bool) (taint : Bool) (s : State) : State :=
  let p := s.partAt n
  let rs := p.trowels.filter fun r => mine r && r.count != 0 && r.holder != .home
  (s.onPart n fun p => { p with
    trowels := p.trowels.map fun r => if mine r && r.count != 0 && r.holder != .home then
      { r with gen := (r.gen + 1) % 256, holder := .home, taint := taint } else r }).mapCores fun c =>
    if c.partNo = n then { c with board := c.board.map fun e => if rs.any fun r => recHolds r e then TEntry.empty else e } else c

/-- Channel numbers of a launch are held before they may be loaded again (R269); what it has issued runs out meanwhile (R227, R330). -/
def State.holdChannels (n : Nat) (chs : List Nat) (s : State) : State :=
  chs.foldl (fun (t : State) ch =>
    (t.updChan n ch fun c => { c with loaded := false, heldUntil := t.ticks + Config.reuseTime * Config.tick }).schedule
      (t.now + t.us Config.reuseTime) phExternal (.channelReuseHoldEnd n ch)) s

/-- The core of an ended context goes on (R220, R221). -/
def State.passOn (before : State) (p k : Nat) (s : State) : State :=
  let x := before.ctxAt p k
  if !x.cfg.free then
    if x.st = .running ∨ x.st = .stopping ∨ x.st = .trapped then s.readyFree p k (s.now + 1) else s
  else if before.holdsCore p k then s.giveUp p k (s.now + 1) else s

/-- What a launch held is given back and its contexts are EMPTY. -/
def State.dropLaunch (n : Nat) (l : Launch) (taint : Bool) (s : State) : State :=
  let before := s
  let mine := l.members.filter fun m => (s.ctxAt m.1 m.2.1).cfg.launch == l.tag
  let s : State := mine.foldl (fun (t : State) m => t.emptyCtx m.1 m.2.1) s
  let s := s.homeTrowels n (fun r => r.launch == l.tag) taint
  let s : State := (dedup (l.members.map (·.1))).foldl (fun (t : State) p => t.spillHot p) s
  let s := s.holdChannels n l.chans
  let s := s.onPart n fun p =>
    { p with launches := p.launches.filter fun x => x.tag != l.tag, readonly := p.readonly.filter fun r => !l.fixed.contains r }
  let s := { s with saved := s.saved.filter fun v => !(v.part == n && v.tag == l.tag) }
  let s : State := mine.foldl (fun (t : State) m => State.passOn before m.1 m.2.1 t) s
  s.plumbCheckAll n

/-- A launch ends: its command fails with the code of the record that ended it, which is that failure's record (R325,
R330; DEDUCED: log 24). -/
def State.endLaunch (n : Nat) (l : Launch) (taint : Bool) (s : State) : State :=
  ((s.dropLaunch n l taint).writeFence l.cmd.part (l.cmd.num 6) (l.cmd.word 7 ||| BitVec.ofNat 64 (2 ^ 63))).freeQueue l.cmd

/-- Whether the stores have room again for the regions that were moved out with a context. -/
def State.roomFor (n : Nat) (s : State) (v : SavedCtx) : Bool :=
  match v.regions with
  | none => true
  | some (rs, _) => rs.all fun r => !overlaps (s.usedKeys n) r.addr r.bytes.length

/-- Launches that urgent ones displaced go back once their places are free; one whose image fails its checks ends. -/
def State.restoreSaved (n : Nat) (s : State) : State :=
  (s.partAt n).launches.foldl (fun (t : State) l =>
    let vs := t.saved.filter fun v => v.part == n && v.tag == l.tag
    let done := vs.all fun v => match v.forTag with
      | none => false
      | some u => !((t.partAt n).launches.any fun x => x.tag == u)
    if vs.isEmpty || !done || !vs.all t.placeFree || !vs.all (t.roomFor n) then t
    else match t.restoreLaunch n l.tag with
      | (u, none) => u.onPart n fun p =>
        { p with launches := listMod (fun x => x.tag == l.tag) (fun x => { x with yields := none }) p.launches }
      | (u, some (code, a0, a1, addr)) =>
        let u := u.addRecord { u.partRecord n code 3 30 0 a0 a1 with addr := addr, who := vs.head?.map fun v => (v.core, v.rest.cfg.lcore, v.ctx) }
        u.endLaunch n l false) s

/-- Whether a displaced launch's urgent one is gone. -/
def State.owed (s : State) (n : Nat) : Bool :=
  s.saved.any fun v => v.part == n && match v.forTag with
    | none => false
    | some u => !((s.partAt n).launches.any fun x => x.tag == u)

/-- The turn of the binding slot that gives displaced launches their places back, as a resume that names no PREEMPT. -/
def restoreCmd (n : Nat) : Cmd := { part := n, queue := 0, words := [], begun := false, mark := 0 }

/-- The next binding slot restores what is owed (R329). -/
def State.restoreLater (n : Nat) (s : State) : State :=
  if s.owed n && !(s.agenda.any fun d => d.ev == .preemptResume (restoreCmd n)) then s.again bindSlot (.preemptResume (restoreCmd n)) else s

/-- A binding slot's turn: what still finds no room waits for the next. -/
def State.restoreTurn (n : Nat) (s : State) : State := (s.restoreSaved n).restoreLater n

/-! ## The LAUNCH command (R328, R329) -/

/-- Normal launches that hold contexts of a binding. -/
def State.displaced (s : State) (n : Nat) (im : Image) (b : Binding) : List Launch :=
  (s.partAt n).launches.filter fun l => !l.urgent && b.any fun x => (im.streamsOf x.1).any fun t =>
    l.members.any fun m => m.1 == x.2 && m.2.1 == t.ctx

/-- Whether a launch still has a context on its core. -/
def State.present (s : State) (l : Launch) : Bool :=
  l.members.any fun m => (s.ctxAt m.1 m.2.1).cfg.launch == l.tag && (s.ctxAt m.1 m.2.1).st != .empty

/-- Launches that give way to an urgent one and have not left their cores. -/
def State.yielding (s : State) (n u : Nat) : List Launch :=
  (s.partAt n).launches.filter fun l => l.yields == some u && !l.ending && s.present l

/-- A binding slot's share of their eviction. -/
def State.evictYielding (n u : Nat) (s : State) : State :=
  (s.yielding n u).foldl (fun (t : State) l =>
    (t.evictStep n l.tag (t.now + 16) (l.members.map fun m => (m.1, m.2.1)) (some u)).1) s

/-- An urgent launch evicts normal launches in its way, all of those that it has begun with; the binding slot comes back to it. -/
def State.displace (c : Cmd) (img : Option Image) (im : Image) (b : Binding) (s : State) : State :=
  let ls := s.displaced c.part im b
  let s := s.onPart c.part fun p =>
    { p with launches := p.launches.map fun l => if ls.any fun x => x.tag == l.tag then { l with yields := some (c.num 2) } else l }
  (s.evictYielding c.part (c.num 2)).again bindSlot (.launch c img)

/-- A launch that fails gives the launches that it had evicted their places back (R329). -/
def State.failLaunch (c : Cmd) (code : Nat) (s : State) : State :=
  (s.fail c code).restoreTurn c.part

/-- Step 2 has found no binding as things stand: what the command does instead. -/
def State.unbound (c : Cmd) (img : Option Image) (im : Image) (s : State) : State :=
  let n := c.part
  if (s.bindWith n im s.ctxEmpty false).isSome then s.failLaunch c 0x0D03
  else if 4 ≤ c.queue then s.fail c 0x0D02
  else match s.bindWith n im (s.takeable n) false with
    | some b => s.displace c img im b
    | none => if (s.bindWith n im (fun _ _ => true) false).isSome then s.again bindSlot (.launch c img) else s.failLaunch c 0x0D02

/-- The steps of R328 in their order. -/
def State.launch (c : Cmd) (img : Option Image) (s : State) : State :=
  let n := c.part
  match img with
  | none => s.fail c 0x0D05
  | some im =>
    if !im.wf then s.fail c 0x0D05
    else if (s.partAt n).launches.any (fun l => l.tag == c.num 2) then s.fail c 0x0D06
    else if c.queue < 4 && !(s.yielding n (c.num 2)).isEmpty then (s.evictYielding n (c.num 2)).again bindSlot (.launch c img)
    else match s.bindWith n im s.ctxEmpty true with
      | none => s.unbound c img im
      | some b =>
        match s.reserveFor n im b with
        | none => s.failLaunch c 0x0D03
        | some lines => if s.matched n im then s.loadLaunch c im b lines else s.failLaunch c 0x0D04

/-- R328. -/
def execLaunch (c : Cmd) (img : Option Image) (s : State) : Host.Outcome State Fault Refusal :=
  .next { s.launch c img with draws := s.draws + 1 }

/-- R330. Every bound context has halted; the launch waits, from harvest slot to harvest slot, until all that they started has
landed (R72). -/
def execLaunchRetire (part tag : Nat) (s : State) : Host.Outcome State Fault Refusal :=
  match (s.partAt part).launches.find? fun l => l.tag == tag with
  | none => .next s
  | some l =>
    if !l.ending && l.members.all fun m => (s.ctxAt m.1 m.2.1).st == .halted && (s.ctxAt m.1 m.2.1).cfg.launch == tag then
      if l.members.any fun m => s.unlanded m.1 m.2.1 then .next (s.schedule (nextSlot s.now harvestSlot) phLand (.launchRetire part tag))
      else .next (((s.dropLaunch part l false).complete l.cmd).restoreLater part)
    else .next s

/-! ## Start (R219, R328 step 6) -/

/-- Whether a bound context is ready at S: LOADED on a core in service whose timetable context is not another's. -/
def State.readyAtStart (s : State) (m : Nat × Nat × Nat) : Bool :=
  let c := s.coreAt m.1
  let x := c.ctxAt m.2.1
  x.st == .loaded && c.cap.inService && (x.cfg.free || !c.timetabled)

/-- A launch that is to end: the harvest slot ends it (R323, R330). -/
def State.markEnding (n tag : Nat) (s : State) : State :=
  s.onPart n fun p => { p with launches := listMod (fun x => x.tag == tag) (fun x => { x with ending := true }) p.launches }

/-- R328. The launch runs, or no core of it does: then it ends in the next harvest slot, with its contexts EMPTY. -/
def execLaunchStart (part tag : Nat) (s : State) : Host.Outcome State Fault Refusal :=
  match (s.partAt part).launches.find? fun l => l.tag == tag with
  | none => .next s
  | some l =>
    if l.running then .next s
    else if l.members.all s.readyAtStart then
      let s := s.onPart part fun p => { p with launches := listMod (fun x => x.tag == tag) (fun x => { x with running := true }) p.launches }
      let tt := l.members.filter fun m => !(s.ctxAt m.1 m.2.1).cfg.free
      let s : State := tt.foldl (fun (t : State) m => t.schedule t.now phExternal (.timetableStart m.1 m.2.1)) s
      .next ((dedup (l.members.map (·.1))).foldl (fun (t : State) p => t.schedule t.now phExternal (.freeContextStart p)) s)
    else .next ((s.markEnding part tag).addRecord (s.cmdRecord l.cmd 0x0D01))

end Sys2Proof.Machine
end

