-- ==== Sys2Proof/Machine/Preempt.lean ====
section
/-! DEFINITION. The PREEMPT commands (R226, R228, R231, R326) and the start of a successor. -/

namespace Sys2Proof

/-- Offsets A and B, the logical-core mask and the context mask of a PREEMPT (R325). -/
def Cmd.offA (c : Cmd) : Nat := c.num 3 % 2 ^ 32
def Cmd.offB (c : Cmd) : Nat := c.num 3 / 2 ^ 32
def Cmd.ctxMask (c : Cmd) : Nat := c.num 4 / 4 % 16

/-- Whether a bound context is named. -/
def Cmd.names (c : Cmd) (m : Nat × Nat × Nat) : Bool :=
  (c.num 2 == 0 || (c.word 2).getLsbD m.2.2) && (c.ctxMask == 0 || c.ctxMask / 2 ^ m.2.1 % 2 == 1)

end Sys2Proof

namespace Sys2Proof.Machine

/-- Whether a bound context is on its core, and not saved while another launch has its place (R326). -/
def State.isThere (s : State) (l : Launch) (m : Nat × Nat × Nat) : Bool :=
  (s.ctxAt m.1 m.2.1).cfg.launch == l.tag && (s.ctxAt m.1 m.2.1).st != .empty

/-- Contexts that a PREEMPT names, those of them that are on their cores; none where the partition has no such launch. -/
def State.named (s : State) (c : Cmd) : Option (List (Nat × Nat)) :=
  ((s.partAt c.part).launches.find? fun l => l.tag == c.num 1 && !l.ending).map fun l =>
    (l.members.filter fun m => c.names m && s.isThere l m).map fun m => (m.1, m.2.1)

/-- Whether a PREEMPT names a context that has been saved. -/
def State.namesSaved (s : State) (c : Cmd) : Bool :=
  (s.partAt c.part).launches.any fun l => l.tag == c.num 1 && l.members.any fun m => c.names m && !s.isThere l m

def State.stAt (s : State) (m : Nat × Nat) : CtxState := (s.ctxAt m.1 m.2).st

/-- Whether a context issues nothing more and so holds up no stop. -/
def CtxState.still (t : CtxState) : Bool := t == .stopped || t == .halted || t == .trapped || t == .empty

/-- Rules of every action but switch (R326). -/
def plainPreempt (c : Cmd) : Bool := decide (16 ≤ c.offA) && c.offB == 0 && c.num 5 == 0

/-! ## Stop, resume, evict -/

/-- R226, R326. P is fixed when the request reaches the cores; the command completes in a binding slot in which every
named context is STOPPED. -/
def State.preemptStop (c : Cmd) (s : State) : State :=
  match s.named c with
  | none => if c.begun then s.complete c else s.fail c 0x0D06
  | some ms =>
    if c.begun then
      if ms.all fun m => (s.stAt m).still then s.complete c else s.again bindSlot (.preemptStop c)
    else if !plainPreempt c then s.fail c 0x0D06
    else (s.request (s.now + c.offA) ms).again bindSlot (.preemptStop { c with begun := true })

/-- R326. -/
def execPreemptStop (c : Cmd) (s : State) : Host.Outcome State Fault Refusal := .next (s.preemptStop c)

/-- R228, R326. It waits while another timetable context has a core of a named one (R220). -/
def State.preemptResume (c : Cmd) (s : State) : State :=
  match s.named c with
  | none => if c.begun then s.complete c else s.fail c 0x0D06
  | some ms =>
    if c.begun then
      if ms.any fun m => s.stAt m == .stopped then s.again bindSlot (.preemptResume c) else s.complete c
    else if !plainPreempt c || s.namesSaved c || !ms.all fun m => s.stAt m == .stopped then s.fail c 0x0D06
    else if ms.any fun m => !(s.ctxAt m.1 m.2).cfg.free && (s.coreAt m.1).taken m.2 then s.again bindSlot (.preemptResume c)
    else
      let q := s.now + c.offA
      (ms.foldl (fun (t : State) m => t.schedule q phExternal (.contextResume m.1 m.2 q)) s).again bindSlot
        (.preemptResume { c with begun := true })

/-- R326; R329 where it restores what an urgent launch had displaced. -/
def execPreemptResume (c : Cmd) (s : State) : Host.Outcome State Fault Refusal :=
  if c == restoreCmd c.part then .next (s.restoreTurn c.part) else .next (s.preemptResume c)

/-- R224, R326. -/
def State.preemptEvict (c : Cmd) (s : State) : State :=
  match s.named c with
  | none => if c.begun then s.complete c else s.fail c 0x0D06
  | some ms =>
    if !c.begun && !plainPreempt c then s.fail c 0x0D06
    else
      let u := s.evictStep c.part (c.num 1) (s.now + c.offA) ms none
      if u.2 then u.1.complete c else u.1.again bindSlot (.preemptEvict { c with begun := true })

/-- R326. -/
def execPreemptEvict (c : Cmd) (s : State) : Host.Outcome State Fault Refusal := .next (s.preemptEvict c)

/-! ## Switch (R231) -/

/-- Whether a launch may succeed the named contexts: on the same cores, each context LOADED, STOPPED or free. -/
def State.mayFollow (s : State) (ms : List (Nat × Nat)) (l : Launch) : Bool :=
  let cores := dedup (ms.map (·.1))
  l.members.all (fun m => cores.contains m.1 && (s.stAt (m.1, m.2.1) == .loaded || s.stAt (m.1, m.2.1) == .stopped || (s.ctxAt m.1 m.2.1).cfg.free)) &&
  !l.ending && cores.all fun p => l.members.any fun m => m.1 == p

/-- Named contexts stop and leave the core's parked contexts parked. -/
def State.requestFast (P : Nat) (ms : List (Nat × Nat)) (s : State) : State :=
  ms.foldl (fun (t : State) m => t.updCtx m.1 m.2 fun x => { Ctx.request P x with flow := { (Ctx.request P x).flow with fast := true } }) s

/-- Whether a timetable context still has a core of a launch to itself (R220). -/
def State.coreBusy (s : State) (l : Launch) : Bool := l.members.any fun m => (s.coreAt m.1).timetabled

/-- The launch that a switch hands over to. -/
def State.successor (s : State) (n tag : Nat) : Option Launch := (s.partAt n).launches.find? fun l => l.tag == tag && !l.ending

/-- A switch that has begun at R: from P on the last context to become STOPPED is awaited, of a launch that has retired meanwhile
none, and the end of a timetable context that has trapped on such a core or that the command does not name (R220); then S is fixed, once for every core. Handed over, it completes in a binding slot. -/
def State.switchOn (c : Cmd) (s : State) : State :=
  if c.mark = 0 then s.complete c
  else if (((s.named c).getD []).all fun m => (s.stAt m).still) && !(s.successor c.part (c.num 5)).any s.coreBusy then
    let S := up64 (max (c.mark + c.offB) (s.now + 64))
    s.schedule S phExternal (.successorStart c.part (c.num 5) S)
  else s.schedule (s.now + 1) phReg (.preemptSwitch c)

/-- R326. -/
def State.preemptSwitch (c : Cmd) (s : State) : State :=
  if c.begun then s.switchOn c
  else
    match s.named c, (s.partAt c.part).launches.find? (fun l => l.tag == c.num 5) with
    | some ms, some l =>
      if !(decide (16 ≤ c.offA) && decide (c.offA + 1200 ≤ c.offB) && s.mayFollow ms l) then s.fail c 0x0D06
      else (s.requestFast (s.now + c.offA) ms).schedule (s.now + c.offA) phReg (.preemptSwitch { c with begun := true, mark := s.now })
    | _, _ => s.fail c 0x0D06

/-- R326. -/
def execPreemptSwitch (c : Cmd) (s : State) : Host.Outcome State Fault Refusal := .next (s.preemptSwitch c)

/-- A core's free contexts become ready in this cycle (R231). -/
def State.readyNow (p : Nat) (s : State) : State :=
  (s.updCore p fun c => c.mapCtx Ctx.readied).updCore p fun c =>
    if c.held then c else { c with switch := { chooseAt := some s.now, from_ := c.ctx.id } }

/-- One context of the successor starts at S. -/
def State.succeed (S : Nat) (m : Nat × Nat × Nat) (s : State) : State :=
  let p := m.1
  let k := m.2.1
  let x := s.ctxAt p k
  if x.st = .stopped then s.schedule s.now phExternal (.contextResume p k S)
  else if x.st = .loaded then
    if x.cfg.free then
      s.updCtx p k fun x => { x with st := .parked, cfg := { x.cfg with ttb := BitVec.ofNat 64 S }, flow := { x.flow with nextAt := s.now } }
    else
      (s.updCtx p k fun x => { x with st := .running, cfg := { x.cfg with ttb := BitVec.ofNat 64 S }, flow := { x.flow with nextAt := s.now } }).takeCore p k
  else s

/-- The PREEMPT that waits for a hand-over to a launch. -/
def State.handOver (s : State) (n tag : Nat) : Option Cmd :=
  ((s.partAt n).queues.toList.filterMap (·.active)).find? fun c => c.op == 6 && c.num 4 % 4 == 3 && c.num 5 == tag

/-- The PREEMPT of a hand-over that is made completes in the next binding slot (R323). -/
def State.handedOver (n tag : Nat) (s : State) : State :=
  match s.handOver n tag with
  | none => s
  | some c => s.again bindSlot (.preemptSwitch { c with begun := true, mark := 0 })

/-- R231. Free contexts of a core without a timetable successor become ready. Where a timetable context has taken a core of it since S was
fixed, S is the next multiple of 64 (R220). -/
def execSuccessorStart (part tag start : Nat) (s : State) : Host.Outcome State Fault Refusal :=
  match s.successor part tag with
  | none => .next (s.handedOver part tag)
  | some l =>
    if s.coreBusy l then .next (s.schedule (start + 64) phExternal (.successorStart part tag (start + 64))) else
    let s := s.onPart part fun p => { p with launches := listMod (fun x => x.tag == tag) (fun x => { x with running := true }) p.launches }
    let s : State := l.members.foldl (fun (t : State) m => t.succeed start m) s
    let timed := fun (t : State) (p : Nat) => l.members.any fun m => m.1 == p && !(t.ctxAt p m.2.1).cfg.free
    let s : State := (dedup (l.members.map (·.1))).foldl (fun (t : State) p => if timed t p then t else t.readyNow p) s
    .next (s.handedOver part tag)

end Sys2Proof.Machine
end

