-- ==== Sys2Proof/Machine/Teardown.lean ====
section
/-! DEFINITION. Revocation of handles (R241), and the steps of a teardown that follow once its contexts have stopped (R315):
cancelling what has not begun, trowels home, quarantine, the end of the launches. -/

namespace Sys2Proof.Machine

/-! ## Revocation (R241) -/

/-- A handle of the frame; of any frame where none is named. -/
def revoked (f : Option Nat) (h : Word) : Word :=
  if handleValid h && (match f with
    | none => true
    | some n => handleFrame h == n) then h &&& ~~~1#64 else h

def Regs.revoke (f : Option Nat) (r : Regs) : Regs := { r with h := r.h.map (revoked f) }

def revokeLanding (f : Option Nat) (l : Landing) : Landing :=
  match l.res with
  | .h n v => { l with res := .h n (revoked f v) }
  | _ => l

/-- Registers, bay shadow and dust sheet of a context. -/
def Ctx.revoke (f : Option Nat) (x : Ctx) : Ctx :=
  { x with
    regs := x.regs.revoke f
    shadow := { x.shadow with regs := x.shadow.regs.revoke f }
    dust := x.dust.map fun d => { d with land := revokeLanding f d.land } }

/-- Results in flight of the cores of a partition. -/
def State.revokeEvent (n : Nat) (f : Option Nat) (s : State) (e : Instr) : Instr :=
  match e with
  | .registerResultLand l => if (s.coreAt l.core).partNo = n then .registerResultLand (revokeLanding f l) else e
  | .dustSheetLand l => if (s.coreAt l.core).partNo = n then .dustSheetLand (revokeLanding f l) else e
  | _ => e

/-- No copy of a handle of the frame stays valid in a partition. -/
def State.revoke (n : Nat) (f : Option Nat) (s : State) : State :=
  let s : State := { s with agenda := s.agenda.map fun d => { d with ev := s.revokeEvent n f d.ev } }
  s.mapCores fun c => if c.partNo = n then c.mapCtx (Ctx.revoke f) else c

/-! ## Teardown of an address space (R315) -/

/-- Whether the 64 µs of a chunk run (R278): it has begun, and completes. -/
def State.chunkBegun (s : State) (l : LinkCmd) (i : Nat) : Bool :=
  s.agenda.any fun d => match d.ev with
    | .chunkTimeout p _ id j => p == l.core && id == l.issue && j == i
    | _ => false

/-- Chunks of a sender that have not begun leave its port's way out and the acknowledgement set, and their far end is told. -/
def State.cutChunks (n : Nat) (l : LinkCmd) (cut : List Nat) (s : State) : State :=
  match s.chan n l.ch with
  | none => s
  | some c =>
    let s := s.updChan n l.ch fun c => { c with out := c.out.filter fun o => !(o.flit.cmd == cmdOf l && cut.contains o.flit.chunk) }
    let s : State := cut.foldl (fun (t : State) i => t.pushOne n l.ch (t.sendPacket 4 c l i)) s
    s.dropAcks l.core l.ctx l.issue cut.contains

/-- Whether a chunk of a receiver is arriving: some of its bytes have, and its flag is still to be written. -/
def recvBegun (l : LinkCmd) : Bool :=
  (List.range (chunkCount l.len)).any fun i => decide (0 < (l.got[i]?).getD 0) && !l.flagged.contains i && !l.aborted.contains i

/-- The same of a put on its way in. -/
def putBegun (u : PutIn) : Bool :=
  (List.range (chunkCount (descLen u.desc))).any fun i => decide (0 < (u.got[i]?).getD 0) && !u.flagged.contains i && !u.dead.contains i

/-- What is left of a link command: of a sender the chunks that have begun, of a collective or a receiver all of it while a chunk of it
performs. -/
def State.cutLink (n : Nat) (l : LinkCmd) (s : State) : State :=
  let gone := fun (t : State) => t.updCore l.core fun c => { c with link := { cmds := c.link.cmds.filter fun q => q.issue != l.issue } }
  let left := l.unacked.filter (s.chunkBegun l)
  if isSender l.op then
    let s := s.cutChunks n l (l.unacked.filter fun i => !left.contains i)
    if left.isEmpty then gone s else s.updLink l.core l.issue fun q => { q with unacked := left }
  else if l.op == .recv then if recvBegun l then s else gone s
  else if (List.range (chunkCount l.len)).any fun i => s.chunkBegun l i && !l.flagged.contains i && !l.aborted.contains i
  then s
  else gone s

/-- Step 2: every queued engine command, link command and chunk of the partition goes, and rounds it has not joined count it absent. -/
def State.cancelCommands (n : Nat) (s : State) : State :=
  let ls := (s.allCores.filter fun c => c.partNo == n).flatMap fun c => c.link.cmds
  let s : State := ls.foldl (fun (t : State) l => t.cutLink n l) (s.leaveRounds n)
  let s := s.onHub fun h => { h with puts := h.puts.filter fun u => u.part != n || putBegun u }
  s.mapCores fun c =>
    if c.partNo = n then { c with copy := { c.copy with queue := [] }, sa := { c.sa with queue := [] } } else c

/-- Step 4: pages of written frames are quarantined, one record for each. -/
def State.quarantine (n : Nat) (s : State) : State :=
  let hit := fun (e : Nat × Word) => e.2.getLsbD 0 && ((s.frame (entryFrame e.2)).map (·.written)) == some true
  let pages := (s.partAt n).xlat.filter hit
  let s := s.onPart n fun p => { p with xlat := p.xlat.map fun e => if hit e then (e.1, e.2 ||| BitVec.ofNat 64 (2 ^ 28)) else e }
  pages.foldl (fun (t : State) e => t.addRecord (t.partRecord n 0x0C02 0 30 e.1 (BitVec.ofNat 64 (entryFrame e.2)) 0)) s

/-- Every launch of a partition ends. -/
def State.endAll (n : Nat) (s : State) : State :=
  (s.partAt n).launches.foldl (fun (t : State) l => t.endLaunch n l false) s

/-- Whether nothing of a partition performs any more: its contexts have stopped, and what they started has landed. -/
def State.quiet (n : Nat) (s : State) : Bool :=
  ((s.partAt n).launches.all fun l => l.members.all fun m => !s.unlanded m.1 m.2.1) &&
  (s.allCores.all fun c => c.partNo != n || c.link.cmds.isEmpty) && (s.partAt n).chans.all fun c => !c.pumping

/-- Steps 2 to 5, in a harvest slot that finds every context of the partition stopped; the last three wait for what performs. -/
def State.teardownOn (n : Nat) (s : State) : State :=
  let s := s.cancelCommands n
  if s.quiet n then
    let s := s.homeTrowels n (fun _ => true) true
    (((s.quarantine n).revoke n none).endAll n).onPart n fun p => { p with torn := false }
  else s.wakeHarvest n

end Sys2Proof.Machine
end

