-- ==== Sys2Proof/Machine/Harvest.lean ====
section
/-! DEFINITION. What becomes of a record (R331, R334, R335), the harvest slot (R312, R323, R330), removal of a core from
service (R180), the mask's mirror (R310), and the profile page (R342, R345). -/

namespace Sys2Proof.Machine

/-! ## The record's bytes (R331) -/

/-- Bytes 0 to 59. -/
def recordBody (r : ErrRecord) : List Byte :=
  let bit := fun (b : Bool) (w : Nat) => if b then w else 0
  let who := r.who.getD (0, 0, 0)
  leBytes 2 r.code ++ leBytes 1 (r.sev % 8) ++ leBytes 1 (r.code / 256) ++
  leBytes 1 (r.part.getD 0 % 16 + bit r.part.isSome 16 + bit r.owner.isSome 32 + bit r.who.isSome 64 + bit r.addr.isSome 128) ++
  leBytes 1 (r.owner.getD 0) ++ leBytes 1 (who.1 % 64) ++ leBytes 1 (who.2.1 % 64) ++ leBytes 1 (who.2.2 % 4) ++
  leBytes 1 r.engine ++ leBytes 2 (r.bundle % 2 ^ 14) ++ leBytes 4 r.object ++ bytes8 r.scyc ++ bytes8 r.gcyc ++
  leBytes 8 ((r.addr.map fun a => a.1 % 2 ^ 32 + a.2.1 % 8 * 2 ^ 32 + a.2.2 % 2 ^ 19 * 2 ^ 35).getD 0) ++
  bytes8 r.aux0 ++ bytes8 r.aux1 ++ leBytes 4 r.seq

/-- The 64 bytes. -/
def recordBytes (r : ErrRecord) : List Byte := recordBody r ++ leBytes 4 (crc32c (recordBody r)).toNat

/-- The record, then W, go to virtual page 0 while it is mapped for writing. -/
def State.ringRecord (n : Nat) (r : ErrRecord) (s : State) : State :=
  if ((s.partAt n).pageFault true 0).isSome then s
  else
    let w := (s.partAt n).ringW
    let s := s.vWrite n 30 (64 + 64 * (w.toNat % 32767)) (recordBytes r)
    (s.vWrite n 30 0 (bytes8 (w + 1) ++ List.replicate 56 0)).onPart n fun p => { p with ringW := w + 1 }

/-! ## Counting suspects (R311, R312) -/

/-- KIND, LG and OP of a producer tag. -/
def tagKind (t : Nat) : Nat := t % 8
def tagGroup (t : Nat) : Nat := t / 32 % 8
def tagOp (t : Nat) : Nat := t / 256 % 64

/-- Counters of a tag: those of capability bits, and CORECNT as none. -/
def countersOf (t : Nat) : List (Option Nat) :=
  match tagKind t with
  | 1 => if 3 ≤ tagOp t ∧ tagOp t ≤ 9 then [some 26] else [none]
  | 2 => if 34 ≤ tagOp t ∧ tagOp t ≤ 38 then [some 19, some (8 + tagGroup t)] else [some (8 + tagGroup t)]
  | 3 => [some (20 + tagOp t)]
  | 4 => [none]
  | 5 => [some (tagOp t)]
  | _ => []

/-- The suspects of two tags: an array named once stands alone. -/
def suspects (a b : Nat) : List Nat :=
  match [a, b].filter fun t => tagKind t == 5 with
  | [t] => [t]
  | _ => [a, b].filter fun t => tagKind t != 0

/-- Counters that a mismatch raises, each once. -/
def counters (a b : Nat) : List (Option Nat) :=
  ((suspects a b).flatMap countersOf).foldl (fun l x => if l.contains x then l else l ++ [x]) []

/-- A saturating 8-bit counter. -/
def satByte (v : Byte) : Byte := if v = 0xFF then v else v + 1

def CapEntry.bump (x : Option Nat) (e : CapEntry) : CapEntry :=
  match x with
  | some b => { e with cnt := vmod e.cnt b satByte }
  | none => { e with coreCnt := satByte e.coreCnt }

/-- FT, of which 0 counts as 1. -/
def CapEntry.threshold (e : CapEntry) : Nat := max e.ft.toNat 1

/-! ## Removing a core (R180) -/

/-- What the loss of a core does about one of its swatches, and then about one of its trowels; one on its way to another core or chip is no longer the core's. -/
def State.loseSwatch (n : Nat) (e : TEntry) (s : State) : State :=
  if e.kind = 2 ∧ (s.partAt n).staleEntry e = false then (s.dropSwatch n e).addRecord (s.lostRecord n e (entryWordOf e)) else s

def State.loseTrowel (n : Nat) (e : TEntry) (s : State) : State :=
  if (s.partAt n).staleEntry e then s
  else if e.kind = 1 ∧ e.state ≠ 2 ∧ e.state ≠ 5 then
    match (s.partAt n).recOf e with
    | none => s
    | some r => s.reclaim n r true
  else s

/-- Entries that stay: lent and not arrived yet. -/
def outgoing (e : TEntry) : Bool := e.kind == 1 && (e.state == 2 || e.state == 5)

/-- The core leaves service: its trowels go home tainted, its swatches are lost. -/
def State.removeCore (n p : Nat) (s : State) : State :=
  let es := (List.range 64).map fun t => (s.coreAt p).published t
  let s : State := es.foldl (fun (t : State) e => t.loseSwatch n e) s
  let s : State := es.foldl (fun (t : State) e => t.loseTrowel n e) s
  s.updCore p fun c =>
    { c with board := c.board.map fun e => if outgoing e then e else TEntry.empty, cap := { c.cap with inService := false } }

/-! ## The harvest slot (R310, R312, R323, R330) -/

/-- The mirror in a core follows within 64 cycles. -/
def State.mirrorLater (p : Nat) (s : State) : State :=
  let s := s.schedule (s.now + Config.mirrorDelay s.draws % 65) phCommit (.capMirrorUpdate p)
  { s with draws := s.draws + 1 }

/-- A counter that has reached FT. -/
def State.applyCounter (n p : Nat) (x : Option Nat) (s : State) : State :=
  let e := (s.coreAt p).cap
  match x with
  | some b =>
    if e.threshold ≤ ((e.cnt[b]?).map (·.toNat)).getD 0 ∧ e.capm.getLsbD b then
      let s := s.updCore p fun c => { c with cap := { c.cap with capm := c.cap.capm &&& ~~~(BitVec.ofNat 32 (2 ^ b)) } }
      (s.addRecord (s.partRecord n 0x0B04 0 30 0 (BitVec.ofNat 64 b) 0)).mirrorLater p
    else s
  | none =>
    if e.threshold ≤ e.coreCnt.toNat ∧ e.inService then
      let s := s.removeCore n p
      s.addRecord (s.partRecord n 0x0B05 0 30 0 (BitVec.ofNat 64 p) 0)
    else s

/-- A mismatch raises its suspects' counters; a recovered one raises none. -/
def State.countMismatch (n : Nat) (r : ErrRecord) (s : State) : State :=
  match r.who with
  | none => s
  | some (p, _, _) =>
    if r.code = 0x0B03 ∧ r.sev = 3 then
      let xs := counters (r.aux0.toNat % 2 ^ 16) (r.aux1.toNat % 2 ^ 16)
      let s := s.updCore p fun c => { c with cap := xs.foldl (fun e x => e.bump x) c.cap }
      xs.foldl (fun (t : State) x => t.applyCounter n p x) s
    else s

/-- A launch is about to end: its contexts stop as for a pre-emption (R51, R226, R330). -/
def State.beginEnd (n : Nat) (l : Launch) (s : State) : State :=
  if l.ending then s
  else
    (s.markEnding n l.tag).request
      (s.now + 16) (l.members.map fun m => (m.1, m.2.1))

/-- A record that trapped a context ends its launch. -/
def State.endTrapped (n : Nat) (r : ErrRecord) (s : State) : State :=
  match r.who with
  | none => s
  | some (p, _, k) =>
    let x := s.ctxAt p k
    if r.sev = 3 ∧ (x.st = .trapped ∨ (x.flow.doomed.isSome ∧ x.st ≠ .halted)) then
      match s.holderOf n p k with
      | none => s
      | some l => s.beginEnd n l
    else s

/-- Whether none of a launch's contexts issues any more, and what they started has performed (R227, R330). -/
def State.allStill (s : State) (l : Launch) : Bool := l.members.all fun m =>
  let t := (s.ctxAt m.1 m.2.1).st
  (t.still || t == .debug || t == .loaded) && !s.performing m.1 m.2.1

/-- Launches that are to end do so in the first harvest slot that finds all their contexts stopped (R330); those of a partition that
is torn down all together (R315). -/
def State.endStopped (n : Nat) (s : State) : State :=
  if (s.partAt n).torn then
    if (s.partAt n).launches.all s.allStill then s.teardownOn n else s.wakeHarvest n
  else
  let s : State := ((s.partAt n).launches.filter fun l => l.ending && s.allStill l).foldl
    (fun (t : State) l => (t.endLaunch n l false).restoreLater n) s
  if (s.partAt n).launches.any (·.ending) then s.wakeHarvest n else s

/-- A record goes to the ring; a RESET_NOTICE waits for it to be mapped (R338). -/
def State.toRing (n : Nat) (r : ErrRecord) (s : State) : State :=
  if r.code = 0x0D09 ∧ ((s.partAt n).pageFault true 0).isSome then s.onPart n fun p => { p with notice := p.notice ++ [r] }
  else s.ringRecord n r

def State.harvestOne (n : Nat) (r : ErrRecord) (s : State) : State :=
  ((s.toRing n r).countMismatch n r).endTrapped n r

/-! ## Trowels at home (R174, R180) -/

/-- Whether the command processor may assign a trowel to a context's entry: the context is bound to the trowel's launch on a core of
the partition in service, and the entry is empty. -/
def State.assignable (s : State) (n : Nat) (r : TRec) (a : Nat × Nat × Nat) : Bool :=
  let c := s.coreAt a.1
  c.phys == a.1 && c.partNo == n && c.cap.inService && (c.ctxAt a.2.1).id == a.2.1 && (c.ctxAt a.2.1).st != .empty &&
  (c.ctxAt a.2.1).cfg.launch == r.launch && c.entryFree none s.now a.2.2

/-- One trowel is assigned from home under the next generation, or stays there (DESIGN CHOICE, log 30). -/
def State.assignOne (n : Nat) (r : TRec) (s : State) : State :=
  let s' := { s with draws := s.draws + 1 }
  match Config.assignTo s.draws with
  | none => s'
  | some a =>
    if s.assignable n r a then
      let gen := (r.gen + 1) % 256
      let e : TEntry :=
        { kind := 1, state := 0, ctx := a.2.1, taint := r.taint, swatch := r.swatch, space := r.space, gen := gen, loc := r.loc
          count := r.count, launch := r.launch }
      ((s'.setEntry a.1 a.2.2 e).updRec n e fun r => { r with gen := gen, holder := .board a.1 a.2.2 }).regen n e r.gen gen r.taint
    else s'

/-- Trowels at home of launches that the partition still has. -/
def State.assignHome (n : Nat) (s : State) : State :=
  let p := s.partAt n
  (p.trowels.filter fun r => r.count != 0 && r.holder == .home && p.launches.any fun l => l.tag == r.launch).foldl
    (fun (t : State) r => t.assignOne n r) s

/-- The records written before the slot begins, in SEQ order; then trowels at home; then the launches that end. -/
def State.harvest (n : Nat) (s : State) : State :=
  let rs := (s.partAt n).pend.reverse
  ((rs.foldl (fun (t : State) r => t.harvestOne n r) (s.onPart n fun p => { p with pend := [] })).assignHome n).endStopped n

/-- R323. -/
def execRecordHarvest (part : Nat) (s : State) : Host.Outcome State Fault Refusal := .next (s.harvest part)

/-- R310. -/
def execCapMirrorUpdate (core : Nat) (s : State) : Host.Outcome State Fault Refusal :=
  .next (s.updCore core fun c => { c with capm := c.cap.capm.setWidth 64 })

/-! ## The profile page (R342, R345) -/

/-- Virtual address of a core's slice, and of its entry n. -/
def sliceBase (kind core : Nat) : Nat :=
  2 ^ 21 + match kind with
    | 0 => 0x2000 * core
    | 1 => 0x80000 + 0x2000 * core
    | _ => 0x100000 + 0x4000 * core

def sliceEntry (kind n : Nat) : Nat := if kind ≤ 1 then 32 + 32 * (n % 255) else 16 + 8 * (n % 2046)

/-- One entry of a core's buffers goes to the page of the partition it was made in, or is lost; another follows 16 cycles on. DESIGN CHOICE:
R342 has one entry in 16 cycles and no order of the kinds; they take turns (log 37). -/
def State.drainOne (p turn : Nat) (s : State) : State :=
  let f := (s.coreAt p).profile
  match f.nextKind turn with
  | none => s
  | some kind =>
  match (f.buf[kind]?).getD [] with
  | [] => s
  | tagged :: rest =>
    let e := tagged.drop 1
    let n := leVal (tagged.take 1)
    let mapped := ((s.partAt n).pageFault true 1).isNone
    let w := (f.written[kind]?).getD 0
    let s := s.updCore p fun c =>
      { c with profile := { c.profile with
        buf := c.profile.buf.setIfInBounds kind rest
        written := if mapped then vmod c.profile.written kind (· + 1) else c.profile.written
        lost := if mapped then c.profile.lost else vmod c.profile.lost kind (· + 1) } }
    let s := if mapped then
        (s.vWrite n 30 (sliceBase kind p + sliceEntry kind w) e).vWrite n 30 (sliceBase kind p)
          (leBytes 8 (w + 1) ++ leBytes 8 (((s.coreAt p).profile.lost[kind]?).getD 0))
      else s
    if ((s.coreAt p).profile.nextKind 0).isNone then s else s.schedule (s.now + 16) phLand (.profileDrain p ((kind + 1) % 3))

/-- R342. -/
def execProfileDrain (core kind : Nat) (s : State) : Host.Outcome State Fault Refusal := .next (s.drainOne core kind)

/-- R345. The last results of a stopped context are in its dust sheet: the entry waits. -/
def execSampleEntryWrite (core : Nat) (e : List Byte) (s : State) : Host.Outcome State Fault Refusal :=
  let x := s.ctxAt core (leVal ((e.drop 2).take 1) % 4)
  if x.st = .stopped ∨ x.st = .stopping ∨ x.st = .debug then
    .next (s.schedule (s.now + 64) phReg (.sampleEntryWrite core e))
  else .next (s.profile core 1 e)

end Sys2Proof.Machine
end

