-- ==== Sys2Proof/Machine/Pages.lean ====
section
/-! DEFINITION. Pages and frames (R236, R241 to R248): updates of the translation table, revocation of handles, frames
given and taken back, migration and settlement, and the beginning of a teardown (R315). -/

namespace Sys2Proof.Machine

/-! ## Refused writes (R322) -/

/-- A refused write changes nothing and sets ADMSTAT. -/
def State.refuse (offset : Nat) (s : State) : State :=
  s.onHub fun h => { h with admstat := (h.admstat &&& ~~~(BitVec.ofNat 64 0xFFFF0000)) ||| BitVec.ofNat 64 (1 + offset % 2 ^ 16 * 2 ^ 16) }

/-- A write through the physical function reaches the hub only while its firmware runs (R346). -/
def State.admin (s : State) (f : State → State) : Host.Outcome State Fault Refusal := .next (if s.up then f s else s)

/-! ## The translation table (R236) -/

/-- Replace an entry. -/
def Part.setXlat (k : Nat) (v : Word) (p : Part) : Part :=
  { p with xlat := p.xlat.filter (fun e => e.1 != k) ++ (if v = 0 then [] else [(k, v)]) }

/-- Rules that a write of an entry keeps. -/
def State.entryOk (s : State) (n k : Nat) (v : Word) : Bool :=
  decide (v.toNat < 2 ^ 29) &&
  (!v.getLsbD 0 ||
    (!s.frameNamed (entryFrame v) (some (n, k)) && ((s.frame (entryFrame v)).bind (·.part)) == some n &&
     s.hub.keys.any fun b => b.slot == v.toNat / 2 ^ 3 % 128 && b.part == n && s.bindStands b))

/-- The index under which an entry's old value is broadcast: beyond every entry. -/
def broadcastIdx : Nat := 2 ^ 18

/-- The broadcast reaches the cores within 64 cycles. -/
def State.broadcast (n : Nat) (old : Word) (s : State) : State :=
  let s := s.schedule (s.now + Config.revokeDelay s.draws % 65) phLand (.translationUpdate n broadcastIdx old)
  { s with draws := s.draws + 1 }

/-- RESET_NOTICE records that have waited go to the ring once it is mapped again, before all later ones (R338). -/
def State.giveNotice (n : Nat) (s : State) : State :=
  if ((s.partAt n).pageFault true 0).isNone then
    ((s.partAt n).notice.foldl (fun (t : State) r => t.ringRecord n r) s).onPart n fun p => { p with notice := [] }
  else s

/-- A frame that no entry has named before holds its sectors under its first key and page (R248, log 5). -/
def State.firstKey (f : Nat) (v : Nat × Nat) (s : State) : State :=
  s.onHub fun h => { h with frames := h.frames.map fun x => if x.num = f then { x with cipher := x.cipher.or (some v) } else x }

/-- From the broadcast of an entry on, 64 cycles pass before no handle to its frame is left (R241, R242). -/
def State.unnamed (f : Nat) (s : State) : State :=
  s.onHub fun h => { h with frames := h.frames.map fun x => if x.num = f then { x with freeAt := s.now + 64 } else x }

/-- An update of an entry, checked; only SCRUB clears QUAR (R315). -/
def State.updateEntry (n k : Nat) (v : Word) (s : State) : State :=
  let s := s.onPart n fun p => { p with tentry := none }
  if !s.entryOk n k v then s.onPart n fun p => { p with tstat := 2 }
  else
    let old := (s.partAt n).xlatEntry k
    let new := v ||| (old &&& BitVec.ofNat 64 (2 ^ 28))
    let s := s.onPart n fun p => { p.setXlat k new with tstat := 0 }
    let s := if new.getLsbD 0 then s.firstKey (entryFrame new) (new.toNat / 2 ^ 3 % 128, k) else s
    let s := if old.getLsbD 0 && new != old then (s.broadcast n old).unnamed (entryFrame old) else s
    s.giveNotice n

/-- R236, R241. -/
def execTranslationUpdate (part idx : Nat) (v : Word) (s : State) : Host.Outcome State Fault Refusal :=
  if idx < broadcastIdx then .next (s.updateEntry part idx v) else .next (s.revoke part (some (entryFrame v)))

/-- First cycle of a slot in the next frame. -/
def nextFrame (now off : Nat) : Nat := (now / Config.frame + 1) * Config.frame + off

/-- R321. The update is made behind the harvest of its slot. -/
def execTentryWrite (part : Nat) (v : Word) (s : State) : Host.Outcome State Fault Refusal :=
  let p := s.partAt part
  if !s.up || !p.ctl.getLsbD 16 || p.tstat = 1 then .next s
  else
    .next ((s.onPart part fun p => { p with tstat := 1, tentry := some (p.tidx.toNat, v) }).schedule (nextFrame s.now harvestSlot) phLand
      (.translationUpdate part p.tidx.toNat v))

/-! ## Frames given and returned (R236, R242, R322) -/

/-- Whether an event accesses a range of addresses. -/
def touchesRange (a n : Nat) : Instr → Bool
  | .gatedCommitPerform c => c.bytes.any fun x => decide (a ≤ x.1) && decide (x.1 < a + n)
  | .copyRelease c => overlaps c.src a n || overlaps (c.runs.map fun r => (r.addr, r.bytes.length)) a n
  | .sarunRelease c => c.entries.any fun e => decide (a ≤ e.base + 4 * e.idx) && decide (e.base + 4 * e.idx < a + n)
  | .saRetirePerform _ e => decide (a ≤ e.base + 4 * e.idx) && decide (e.base + 4 * e.idx < a + n)
  | _ => false

/-- Whether an ldh of a frame is on its way (R159). -/
def loadsFrame (f : Nat) : Instr → Bool
  | .registerResultLand l => l.frame == some f
  | .dustSheetLand l => l.frame == some f
  | _ => false

/-- Whether a core's contexts and queues hold accesses to a range that have passed their checks. -/
def Core.accesses (a n : Nat) (c : Core) : Bool :=
  c.ctxs.any (fun x => x.gate.any (fun y => decide (a ≤ y.1) && decide (y.1 < a + n)) ||
    (x.agg.any fun g => overlaps [g.src, g.res] a n) || x.enq.any fun e => decide (a ≤ e.base + 4 * e.idx) && decide (e.base + 4 * e.idx < a + n)) ||
  c.copy.queue.any (fun q => match q with
    | .inl k => overlaps k.src a n || overlaps (k.runs.map fun r => (r.addr, r.bytes.length)) a n
    | .inr _ => false) ||
  c.sa.queue.any (fun q => q.entries.any fun e => decide (a ≤ e.base + 4 * e.idx) && decide (e.base + 4 * e.idx < a + n)) ||
  c.sa.window.any (fun e => decide (a ≤ e.base + 4 * e.idx) && decide (e.base + 4 * e.idx < a + n)) ||
  c.link.cmds.any fun l => overlaps l.src a n || overlaps [(l.dst, l.len)] a n

/-- A frame's count of outstanding accesses is not 0 (R242). -/
def State.frameBusy (s : State) (f : Nat) : Bool :=
  let a := frameBase f
  s.agenda.any (fun d => touchesRange a (2 ^ 21) d.ev || loadsFrame f d.ev) ||
  s.allCores.any (fun c => c.accesses a (2 ^ 21)) || s.saved.any fun v => (v.place.bind frameOf) == some f

/-- Fields of a FRAMEWIN write. -/
def winFirst (v : Word) : Nat := v.toNat % 2 ^ 17
def winCount (v : Word) : Nat := v.toNat / 2 ^ 17 % 2 ^ 17
def winPart (v : Word) : Nat := v.toNat / 2 ^ 34 % 16
def winPool (v : Word) : Bool := v.getLsbD 38

def winRun (v : Word) : List Nat := (List.range (winCount v)).map fun i => winFirst v + i

/-- A frame's entry, new or as it was. -/
def State.setFrame (f : Nat) (g : Frame → Frame) (s : State) : State :=
  let fresh : Frame :=
    { num := f, part := none, pool := false, home := 0, far := none, moves := [], settled := none, written := false, cipher := none
      rekeyed := [], moving := none, came := 0, held := [], guest := none, freeAt := 0 }
  s.onHub fun h =>
    { h with
      frames :=
        if h.frames.any (fun x => x.num == f) then h.frames.map (fun x => if x.num = f then g x else x)
        else h.frames ++ [g fresh] }

/-- A frame that neither another partition nor the incoming pool has. -/
def State.frameFree (s : State) (n : Nat) (pool : Bool) (f : Nat) : Bool :=
  match s.frame f with
  | none => true
  | some x => if pool then x.part.isNone else !x.pool && (x.part.isNone || x.part == some n)

/-- A frame that the run's holder has, that no valid entry names, no handle is left of and no access is under way to; a pool
frame holds no page of another chip. -/
def State.frameReturnable (s : State) (n : Nat) (pool : Bool) (f : Nat) : Bool :=
  (match s.frame f with
   | none => false
   | some x => (if pool then x.pool && x.guest.isNone else x.part == some n) && decide (x.freeAt ≤ s.now)) &&
  !s.frameNamed f none && !s.frameBusy f

/-- Clusters of a partition; the incoming pool may stand on any. -/
def State.frameClusters (s : State) (n : Nat) (pool : Bool) : List Nat :=
  (List.range 16).filter fun k => pool || ((s.partAt n).ctl.getLsbD 16 && (s.partAt n).ctl.getLsbD k)

/-- Frames that stand on a cluster's devices. -/
def State.framesOn (s : State) (k : Nat) : Nat := (s.hub.frames.filter fun x => (x.part.isSome || x.pool) && x.home == k).length

/-- A frame is given away. Its place is on the devices of a cluster of its partition, which nobody else has (R16), as long as
their capacity lasts (R15). A frame that is given again stays where it is. -/
def State.giveFrame (n : Nat) (pool : Bool) (f : Nat) (s : State) : Option State :=
  let had := match s.frame f with
    | none => false
    | some x => x.part.isSome || x.pool
  if had then some s
  else
    let room := (s.frameClusters n pool).filter fun k => decide (s.framesOn k < Config.clusterFrames)
    room[Config.frameHome f % room.length]?.map fun k =>
      s.setFrame f fun x => if pool then { x with pool := true, home := k } else { x with part := some n, home := k }

/-- R322. A run is given whole or refused. -/
def execFramewinAssign (v : Word) (s : State) : Host.Outcome State Fault Refusal :=
  s.admin fun s =>
    if decide (winFirst v + winCount v ≤ 2 ^ 17) && (winRun v).all (s.frameFree (winPart v) (winPool v)) then
      ((winRun v).foldl (fun (t : Option State) f => t.bind (State.giveFrame (winPart v) (winPool v) f)) (some s)).getD (s.refuse 0x0300)
    else s.refuse 0x0300

/-- R242, R322. -/
def execFramewinReturn (v : Word) (s : State) : Host.Outcome State Fault Refusal :=
  s.admin fun s =>
    if decide (winFirst v + winCount v ≤ 2 ^ 17) && (winRun v).all (s.frameReturnable (winPart v) (winPool v)) then
      (winRun v).foldl (fun (t : State) f => t.setFrame f fun x => { x with part := none, pool := false }) s
    else s.refuse 0x0300

/-! ## Migration and settlement (R245 to R247) -/

/-- A packet of a move: three sectors from a byte of the destination frame on (R246). It belongs to no channel. -/
def State.moveFlit (s : State) (frame chip far i : Nat) : Flit :=
  let secs := (List.range (min 3 (32768 - 3 * i))).map fun j =>
    let a := frameBase frame + 64 * (3 * i + j)
    (readRun s.mem a 64, syndrome s.bad a)
  { port := 0, seqNo := 0, ack := 0, kind := 6, nsec := secs.length, credit := 0, src := s.chip, dst := chip, ch := 0, gen := 0
    route := routeTo chip, cmd := 0, chunk := 0, sect := 0, age := s.micros % 2 ^ 16, offset := far * 2 ^ 21 + 192 * i, flagv := 0
    rsvd := 0, data := secs, crc := 0, desc := frame }

/-- The whole frame is to leave for another chip: its packets wait for cycles of the port that the frame's partition owns, or that nobody
does (R17, log 50). -/
def State.sendFrame (frame chip far : Nat) (who : Option Nat) (s : State) : State :=
  (List.range 10923).foldl (fun (t : State) i => t.queueFlit who (s.moveFlit frame chip far i)) s

/-- Whether a port takes the packets of a move. -/
def State.movable (s : State) (chip : Nat) (who : Option Nat) : Bool :=
  match s.portFor (routeTo chip) with
  | none => false
  | some p => s.waitMask p who != 0

/-- R246. No move begins while the frame is settled or on its way. A page that leaves is sent whole, and its move is complete once its last
packet has arrived; one that comes home arrives in packets of the other chip. -/
def execPageMigration (frame chip far : Nat) (s : State) : Host.Outcome State Fault Refusal :=
  match s.frame frame with
  | none => .next s
  | some x =>
    let dest := if chip = s.chip then none else some (chip, far)
    if x.moving.isSome || x.settled.isSome || x.far == dest || (dest.isSome && !s.movable chip x.part) then .next s
    else
      let s := s.setFrame frame fun x => { x with moving := some dest, came := 0 }
      .next (if dest.isNone then s else s.sendFrame frame chip far x.part)

/-- Virtual page of a frame in its partition. -/
def Part.pageOf (p : Part) (f : Nat) : Nat := ((p.xlat.find? fun e => e.2.getLsbD 0 && entryFrame e.2 == f).map (·.1)).getD 0

/-- Grants under which a partition here may hold a page of another chip. -/
def State.pageGrants (s : State) (chip : Nat) : List (Nat × Grant) :=
  (List.range 16).flatMap fun n => ((s.partAt n).grants.filter fun g => g.valid && g.side && g.space == 4 && g.chip == chip).map fun g => (n, g)

/-- The notice of a settlement that ends at a moment of the reference timer: to the frame's owner; for another chip's page to the partition
that holds the grant it came under. Which of the grants of that chip's pages this is, and which page of it, is the machine's knowledge: a
free value (R247, log 55). -/
def State.settledNotice (f : Nat) (x : Frame) (t : Nat) (s : State) : State :=
  let note := fun (n page : Nat) (s : State) =>
    s.addRecord (s.partRecord n 0x0608 0 31 page (BitVec.ofNat 64 f) (BitVec.ofNat 64 (t / Config.tick)))
  match x.part, x.guest with
  | some n, _ => note n ((s.partAt n).pageOf f) s
  | none, some c =>
    let gs := s.pageGrants c
    match gs[Config.guestGrant s.draws % max gs.length 1]? with
    | none => s
    | some g => { (note g.1 (g.2.loc + Config.guestPage s.draws % max g.2.count 1) s) with draws := s.draws + 1 }
  | none, none => s

/-- The move record of a frame whose move is complete: its last three moves, and the settlement (R247). -/
def Frame.moved (now : Nat) (x : Frame) : Frame :=
  let settles := x.moves.length == 3 && x.moves.all fun m => decide (now < m + Config.moveTime * Config.tick)
  { x with moves := (now :: x.moves).take 3, settled := if settles then some (now + Config.settleTime * Config.tick) else x.settled }

/-- R246, R247. A page of another chip that arrived stays a guest; one that left is a guest no more. The writes held meanwhile perform. -/
def execMoveComplete (frame : Nat) (s : State) : Host.Outcome State Fault Refusal :=
  match s.frame frame with
  | none => .next s
  | some x =>
    match x.moving with
    | none => .next s
    | some dest =>
      let y := Frame.moved s.ticks { x with far := if x.pool then none else dest, moving := none, held := [], guest := if dest.isSome then none else x.guest }
      let t := x.held.foldl (fun (t : State) h => t.landMarked h.1 [h.2.1] h.2.2) (s.setFrame frame fun _ => y)
      if y.settled = x.settled then .next t
      else .next ((t.settledNotice frame x (y.settled.getD 0)).schedule (s.now + s.us Config.settleTime) phExternal (.settlementEnd frame))

/-- R247. -/
def execSettlementEnd (frame : Nat) (s : State) : Host.Outcome State Fault Refusal :=
  .next (s.setFrame frame fun x => { x with settled := none, moves := [] })

/-- Whether a frame takes sectors of a move: one of the incoming pool that is empty or already takes that chip's page, and a
partition's whose page comes home. -/
def Frame.takes (x : Frame) (src : Nat) : Bool := if x.pool then x.guest.isNone || x.guest == some src else x.moving == some none

/-- The first sector of a page makes its pool frame a guest's; with the last the move is complete. -/
def State.countMoved (f : Flit) (s : State) : State :=
  let k := f.offset / 2 ^ 21
  let s := s.setFrame k fun x =>
    if x.pool && x.guest.isNone then { x with guest := some f.src, moving := some none, came := f.nsec } else { x with came := x.came + f.nsec }
  match s.frame k with
  | none => s
  | some x => if 32768 ≤ x.came ∧ x.moving.isSome then s.schedule s.now phReg (.moveComplete k) else s

/-- Sectors of a moving frame arrive; a corrupt one is poisoned (R246). DESIGN CHOICE: no rule says whose its INTEGRITY record is; it names no
partition and no owner, also where the frame has one (log 55). -/
def State.landMoved (f : Flit) (s : State) : State :=
  let a := 2 ^ 40 + f.offset
  if ((s.frame (f.offset / 2 ^ 21)).map fun x => x.takes f.src) != some true then s
  else
    let s := s.countMoved f
    let secs := (f.data.take f.nsec).zipIdx
    let bad := (secs.filter fun x => x.1.2 != 0).map fun x => a + 64 * x.2
    let s := s.landMarked none (secs.map fun x => { addr := a + 64 * x.2, bytes := x.1.1 }) (bad.map fun b => (b, poison))
    let rec0 : ErrRecord :=
      { code := 0x0C01, sev := 2, part := none, owner := none, who := none, engine := 18 + f.port, bundle := 0, object := 0
        scyc := 0, gcyc := BitVec.ofNat 64 s.now, addr := none, aux0 := 0, aux1 := 0, seq := 0 }
    bad.foldl (fun (t : State) b => t.addRecord { rec0 with addr := some (placeOf 64 b) }) s

/-- R246. -/
def execMigrationFlit (f : Flit) (s : State) : Host.Outcome State Fault Refusal := .next (s.accept f (State.landMoved f))

/-! ## Teardown of an address space (R315) -/

/-- An engine ID that R333 lists; what fails elsewhere is the hub's. -/
def engineId (e : Nat) : Nat := if e ≤ 5 ∨ e = 8 ∨ (16 ≤ e ∧ e ≤ 31) then e else 31

/-- R315. The record, and step 1: every context of the partition is to stop as for a pre-emption. The harvest slot takes the other
steps once they have. -/
def State.teardown (n engine what : Nat) (s : State) : State :=
  let s := (s.addRecord (s.partRecord n 0x0C03 4 (engineId engine) 0 (BitVec.ofNat 64 what) 0)).onPart n fun p => { p with torn := true }
  ((s.partAt n).launches.foldl (fun (t : State) l => t.beginEnd n l) s).wakeHarvest n

def execSpaceTeardown (part engine what : Nat) (s : State) : Host.Outcome State Fault Refusal := .next (s.teardown part engine what)

end Sys2Proof.Machine
end

