-- ==== Sys2Proof/Machine/Admin.lean ====
section
/-! DEFINITION. Writes from the host (R212, R289 to R291, R308, R321, R322, R339, R347): the registers of both functions'
BAR0, each under its rule, and the measurement registers they extend. -/

namespace Sys2Proof.Machine

/-! ## Measurement registers (R347) -/

/-- The 48 bytes of a digest or register, in the order that SHA-384 gives them. -/
def digestBytes (v : BitVec 384) : List Byte := (leBytes 48 v.toNat).reverse

/-- MR := SHA-384(MR, digest). -/
def extendMr (mr : BitVec 384) (digest : BitVec 384) : BitVec 384 := sha384 (digestBytes mr ++ digestBytes digest)

def State.extend (i : Nat) (digest : BitVec 384) (s : State) : State :=
  s.onHub fun h => { h with mr := vmod h.mr i fun m => extendMr m digest }

/-- The digest of an accepted write: of its offset and of what it writes. Log 10. -/
def writeDigest (offset : Nat) (bs : List Byte) : BitVec 384 := sha384 (leBytes 8 offset ++ bs)

/-! ## Partition control (R16, R322) -/

/-- Whether a partition has its clusters: it exists, or launches or frames of it are left there. -/
def State.keeps (s : State) (k : Nat) : Bool :=
  (s.partAt k).ctl.getLsbD 16 || !(s.partAt k).launches.isEmpty || s.hub.frames.any fun x => x.part == some k

/-- A chip's clusters that other partitions have (R16). -/
def State.otherClusters (s : State) (n : Nat) : Word :=
  (List.range 16).foldl (fun m k => if k = n || !s.keeps k then m else m ||| ((s.partAt k).ctl &&& 0xFFFF)) 0

/-- CLUSTERS, OWNER and OV. -/
def ctlShape (v : Word) : Word := v &&& (0xFFFF#64 ||| BitVec.ofNat 64 (2 ^ 28 - 2 ^ 19))

/-- A partition that exists has a cluster, and its frames stand on its clusters' devices (R16). -/
def State.ctlOk (s : State) (n : Nat) (v : Word) : Bool :=
  let p := s.partAt n
  decide (v.toNat < 2 ^ 28) && (p.launches.isEmpty || ctlShape v == ctlShape p.ctl) && (v &&& 0xFFFF &&& s.otherClusters n) == 0 &&
  (!v.getLsbD 16 || v &&& 0xFFFF != 0) && s.hub.frames.all fun x => x.part != some n || v.getLsbD x.home

/-- The key slot bound to a partition when it is created. Log 23. -/
def partKey (n : Nat) : KeyBind := { slot := n, part := n, grant := none }

/-- A partition is created: its tables are empty. Its records count on from where only power-on puts them back to 0 (R335, log 54). -/
def State.createPart (n : Nat) (s : State) : State :=
  (s.onPart n fun p => { Part.reset with seq := p.seq, notice := p.notice, owing := p.owing }).onHub fun h =>
    { h with keys := if h.keys.any fun b => b.slot == n then h.keys else h.keys ++ [partKey n] }

/-- The RESET_NOTICE of a reset, with CAUSE and LAST of its reset-cause register (R338). -/
def State.notify (n : Nat) (cause : Word) (s : State) : State :=
  s.addRecord (s.partRecord n 0x0D09 0 30 0 (cause &&& 0xFF) (BitVec.ofNat 64 (cause.toNat / 2 ^ 8 % 16)))

/-- A partition that has just been created is told of the resets before. -/
def State.tellOwed (n : Nat) (s : State) : State :=
  ((s.partAt n).owing.foldl (fun (t : State) w => t.notify n w) s).onPart n fun p => { p with owing := [] }

/-- An accepted write. Cores of a cluster that leaves are no partition's: their part reads 0. -/
def State.setCtl (n : Nat) (v : Word) (s : State) : State :=
  let had := (s.partAt n).ctl
  let new := v.getLsbD 16 && !had.getLsbD 16
  let s := if new then s.createPart n else s
  let s := (s.onPart n fun p => { p with ctl := v }).mapCores fun c =>
    if v.getLsbD (clusterOf c.phys) then { c with part := BitVec.ofNat 4 n }
    else if had.getLsbD (clusterOf c.phys) && c.partNo == n then { c with part := 0 } else c
  if new then s.tellOwed n else s

/-- R322. -/
def execPartitionControlWrite (part : Nat) (v : Word) (s : State) : Host.Outcome State Fault Refusal :=
  s.admin fun s => if s.ctlOk part v then s.setCtl part v else s.refuse (0x0200 + 8 * part)

/-! ## Slot tables (R212) -/

/-- Whether an entry lies inside a mask of a running launch. -/
def State.slotInUse (s : State) (r e : Nat) : Bool :=
  (List.range 16).any fun n => (s.partAt n).launches.any fun l => l.running && (l.maskOf r).getLsbD e

/-- R212. -/
def execSlotTableWrite (res entry : Nat) (v : Byte) (s : State) : Host.Outcome State Fault Refusal :=
  s.admin fun s =>
    let off := 0x2000 + 0x40 * res + entry
    if 18 < res ∨ 63 < entry then s
    else if s.slotInUse res entry then s.refuse off
    else
      (s.onHub fun h => { h with slots := vmod h.slots res fun t => t.setIfInBounds entry (v &&& 0x8F) }).extend 3
        (writeDigest off (bytes8 (v.setWidth 64)))

/-! ## Capability entries (R308) -/

/-- The entry's word 0: CAPM, FT, INSERVICE. -/
def CapEntry.setWord (v : Word) (e : CapEntry) : CapEntry :=
  { e with capm := v.setWidth 32, ft := (v >>> 32).setWidth 8, inService := v.getLsbD 40 }

/-- Byte i of a word. -/
def byteAt (v : Word) (i : Nat) : Byte := (v >>> (8 * i)).setWidth 8

/-- Zero bytes written to the counters of a word clear them; others are ignored. -/
def CapEntry.clearCounters (off : Nat) (v : Word) (e : CapEntry) : CapEntry :=
  (List.range 8).foldl (fun (e : CapEntry) i => if byteAt v i = 0 then { e with cnt := e.cnt.setIfInBounds (off - 8 + i) 0 } else e) e

/-- A write of a word of a core's entry. -/
def State.capWrite (p off : Nat) (v : Word) (s : State) : State :=
  let set := fun (f : CapEntry → CapEntry) => s.updCore p fun c => { c with cap := f c.cap }
  if off = 0 then
    let c := s.coreAt p
    let s := if c.cap.inService && !v.getLsbD 40 then s.removeCore c.partNo p else s
    (s.updCore p fun c => { c with cap := c.cap.setWord v }).mirrorLater p
  else if 8 ≤ off ∧ off < 40 ∧ off % 8 = 0 then set (CapEntry.clearCounters off v)
  else if off = 40 then set fun e => if byteAt v 0 = 0 then { e with coreCnt := 0 } else e
  else if off = 48 then set fun e => if v.setWidth 32 = 0#32 then { e with corrected := 0 } else e
  else s

/-- R308. -/
def execCapabilityEntryWrite (core offset : Nat) (v : Word) (s : State) : Host.Outcome State Fault Refusal :=
  s.admin (State.capWrite core offset v)

/-! ## Group entries (R289, R290) -/

/-- The entry that a write of word 0 would make. -/
def Group.staged (v : Word) (e : Group) : Group :=
  let gen := (e.gen + 1) % 64
  { e with
    w0 := (v &&& ~~~(0xFC#64)) ||| BitVec.ofNat 64 (gen * 4), w1 := e.stage1, mem := e.stageMem
    lastCount := 0, lastTimeout := false, lastAudit := false, closed := 0 }

/-- Reserved fields, whatever V is. -/
def Group.reservedZero (e : Group) : Bool :=
  e.w0.toNat / 2 ^ 54 == 0 && e.w1.toNat / 2 ^ 48 == 0 && e.members.all fun w => w.toNat / 2 ^ 24 == 0

/-- Ranges of R289, distinct members, HOME among them. -/
def Group.rangesOk (e : Group) : Bool :=
  decide (4 ≤ e.texp) && decide (e.texp ≤ 12) && decide (1 ≤ e.elems) && decide (e.elems ≤ 2 ^ 22) && decide (1 ≤ e.nmem) &&
  decide (e.nmem ≤ 64) && e.members.all (fun w => (e.members.filter fun x => memberChip x == memberChip w && memberOwner x == memberOwner w).length == 1) &&
  e.members.any fun w => memberChip w == e.home

def State.groupOk (s : State) (g : Nat) (e : Group) : Bool :=
  e.reservedZero && (!e.valid || (e.rangesOk && decide ((s.group g).heldUntil ≤ s.ticks))) && !s.hub.rounds.any fun r => r.group == g && !r.isClosed

/-- An accepted write: GEN rises, round counters restart, a freed group is held. -/
def State.setGroup (g : Nat) (e : Group) (s : State) : State :=
  let freed := (s.group g).valid && !e.valid
  let s := s.updGroup g fun _ => if freed then { e with heldUntil := s.ticks + Config.reuseTime * Config.tick } else e
  let s := s.onHub fun h => { h with parts := h.parts.map fun p => { p with rounds := p.rounds.filter fun r => r.1 != g } }
  let s := s.extend 4 (writeDigest (0x4000 + 0x200 * g) (bytes8 e.w0 ++ bytes8 e.w1 ++ e.mem.toList.flatMap fun m => leBytes 4 m.toNat))
  if freed then s.schedule (s.now + s.us Config.reuseTime) phExternal (.groupReuseHoldEnd g) else s

/-- R290. -/
def execGroupEntryWrite (grp : Nat) (v : Word) (s : State) : Host.Outcome State Fault Refusal :=
  s.admin fun s =>
    let e := (s.group grp).staged v
    if 63 < grp then s else if s.groupOk grp e then s.setGroup grp e else s.refuse (0x4000 + 0x200 * grp)

/-! ## Budgets (R291) -/

/-- R291. -/
def execBudgetWrite (owner : Nat) (v : Word) (s : State) : Host.Outcome State Fault Refusal :=
  s.admin fun s =>
    if 255 < owner then s
    else (s.onHub fun h => { h with budgets := h.budgets.setIfInBounds owner v }).extend 5 (writeDigest (0xC000 + 8 * owner) (bytes8 v))

/-! ## Registers without a behaviour of their own (R321, R322, R337, R339) -/

/-- BASE, LOC and LOG2N of a queue hold still while it holds entries. -/
def Queue.idle (u : Queue) : Bool := u.head == u.tail

/-- A write to a virtual function's BAR0; TAIL and TENTRY have their own events. -/
def State.vfWrite (n off : Nat) (v : Word) (s : State) : State :=
  if !(s.partAt n).ctl.getLsbD 16 then s
  else if off < 0x100 ∧ off % 0x20 = 0 then
    s.updQueue n (off / 0x20) fun u => if u.idle then { u with base := v &&& ~~~(0x3C#64) } else u
  else if off < 0x100 ∧ off % 0x20 = 8 then
    s.updQueue n (off / 0x20) fun u => if u.idle then { u with log2n := v.setWidth 5 } else u
  else if off = 0x200 then s.onPart n fun p => { p with tidx := v.setWidth 18 }
  else s

/-- A write to a core's debug block: comparators, DBG with GO and STEP, PERIOD. -/
def State.debugWrite (p off : Nat) (v : Word) (s : State) : State :=
  if off < 0x20 ∧ off % 8 = 0 then
    s.updCore p fun c => { c with dblk := { c.dblk with cmp := c.dblk.cmp.setIfInBounds (off / 8) (v.setWidth 19) } }
  else if off = 0x20 then
    let s := s.updCore p fun c => { c with dblk := { c.dblk with dbg := v.setWidth 4 } }
    (List.range 4).foldl (fun (t : State) k => if v.getLsbD (8 + k) then t.debugGo p k (v.getLsbD (12 + k)) else t) s
  else if off = 0x28 then s.updCore p fun c => { c with dblk := { c.dblk with period := v.setWidth 5 } }
  else s

/-- A staged word of a group entry. -/
def State.stageWrite (g off : Nat) (v : Word) (s : State) : State :=
  if off = 8 then s.updGroup g fun e => { e with stage1 := v }
  else if 0x10 ≤ off ∧ off < 0x110 ∧ off % 4 = 0 then
    s.updGroup g fun e => { e with stageMem := e.stageMem.setIfInBounds ((off - 0x10) / 4) (v.setWidth 32) }
  else s

/-- A write to the physical function's BAR0; checked registers have their own events. -/
def State.pfWrite (off : Nat) (v : Word) (s : State) : State :=
  if off = 0 then
    if (List.range 16).any fun n => (s.partAt n).ctl.getLsbD 16 then s else s.onHub fun h => { h with chipid := v &&& 0x1FFF }
  else if off = 8 then s.onHub fun h => { h with admstat := h.admstat &&& ~~~(v &&& 1) }
  else if off = 0x100 then s.onHub fun h => { h with resetCause := h.resetCause &&& ~~~(v &&& 0xFF) }
  else if 0x1000 ≤ off ∧ off < 0x2000 then s.debugWrite ((off - 0x1000) / 0x40) ((off - 0x1000) % 0x40) v
  else if 0x4000 ≤ off ∧ off < 0xC000 then s.stageWrite ((off - 0x4000) / 0x200) ((off - 0x4000) % 0x200) v
  else if 0xD000 ≤ off ∧ off < 0xE000 ∧ off % 8 = 0 then
    s.onHub fun h => { h with route := h.route.setIfInBounds ((off - 0xD000) / 8) (v.setWidth 5) }
  else s

/-! ## What a read of a register returns (R308, R321, R322, R337, R339)

Reads change nothing. A register is read at its own offset; an offset not listed, a write-only field and a reserved bit read 0. -/

/-- A register of a queue: LOC and BASE, LOG2N, TAIL, HEAD. -/
def Queue.read (off : Nat) (u : Queue) : Word :=
  match off with
  | 0x00 => u.base
  | 0x08 => u.log2n.setWidth 64
  | 0x18 => u.head.setWidth 64
  | _ => 0

/-- A read of a virtual function's BAR0. -/
def State.vfRead (s : State) (n off : Nat) : Word :=
  let p := s.partAt n
  if !p.ctl.getLsbD 16 then 0
  else if off < 0x100 then ((p.queues[off / 0x20]?).map (Queue.read (off % 0x20))).getD 0
  else if off = 0x200 then p.tidx.setWidth 64
  else if off = 0x210 then p.tstat.setWidth 64
  else 0

/-- A word of a core's debug block: a comparator, DBG with STOPPED, PERIOD. -/
def DebugBlock.read (off : Nat) (d : DebugBlock) : Word :=
  if off < 0x20 ∧ off % 8 = 0 then ((d.cmp[off / 8]?).getD 0).setWidth 64
  else if off = 0x20 then d.dbg.setWidth 64 ||| (d.stopped.setWidth 64 <<< 4)
  else if off = 0x28 then d.period.setWidth 64
  else 0

/-- A word of a core's capability entry. -/
def CapEntry.read (off : Nat) (e : CapEntry) : Word :=
  if off = 0 then e.capm.setWidth 64 ||| (e.ft.setWidth 64 <<< 32) ||| (if e.inService then BitVec.ofNat 64 (2 ^ 40) else 0)
  else if 8 ≤ off ∧ off < 40 ∧ off % 8 = 0 then
    BitVec.ofNat 64 (leVal ((List.range 8).map fun i => (e.cnt[off - 8 + i]?).getD 0))
  else if off = 40 then e.coreCnt.setWidth 64
  else if off = 48 then e.corrected.setWidth 64
  else 0

/-- A word of a group entry as applied; what is staged is not read. DESIGN CHOICE, log 54. -/
def Group.read (off : Nat) (e : Group) : Word :=
  if off = 0 then e.w0
  else if off = 8 then e.w1
  else if 0x10 ≤ off ∧ off < 0x110 ∧ off % 4 = 0 then ((e.mem[(off - 0x10) / 4]?).getD 0).setWidth 64
  else 0

/-- A read of the physical function's BAR0. -/
def State.pfRead (s : State) (off : Nat) : Word :=
  if off = 0 then s.hub.chipid
  else if off = 8 then s.hub.admstat
  else if off = 0x100 then s.hub.resetCause
  else if 0x200 ≤ off ∧ off < 0x280 ∧ off % 8 = 0 then (s.partAt ((off - 0x200) / 8)).ctl
  else if 0x1000 ≤ off ∧ off < 0x2000 then (s.coreAt ((off - 0x1000) / 0x40)).dblk.read ((off - 0x1000) % 0x40)
  else if 0x2000 ≤ off ∧ off < 0x24C0 then
    (((s.hub.slots[(off - 0x2000) / 0x40]?).bind fun t => t[(off - 0x2000) % 0x40]?).getD 0).setWidth 64
  else if 0x3000 ≤ off ∧ off < 0x4000 then (s.coreAt ((off - 0x3000) / 0x40)).cap.read ((off - 0x3000) % 0x40)
  else if 0x4000 ≤ off ∧ off < 0xC000 then (s.group ((off - 0x4000) / 0x200)).read ((off - 0x4000) % 0x200)
  else if 0xC000 ≤ off ∧ off < 0xC800 ∧ off % 8 = 0 then s.budget ((off - 0xC000) / 8)
  else if 0xD000 ≤ off ∧ off < 0xE000 ∧ off % 8 = 0 then ((s.hub.route[(off - 0xD000) / 8]?).getD 0).setWidth 64
  else 0

/-- R321, R322. -/
def execRegisterWrite (vf : Option Nat) (offset : Nat) (v : Word) (s : State) : Host.Outcome State Fault Refusal :=
  s.admin fun s => match vf with
    | some n => s.vfWrite n offset v
    | none => s.pfWrite offset v

end Sys2Proof.Machine
end

