-- ==== Sys2Proof/Machine/Platform.lean ====
section
/-! DEFINITION. The platform (R337, R338, R346 to R352): resets and their causes, boot, quotes, clock and temperature,
and the management interface. -/

namespace Sys2Proof.Machine

/-! ## Reset causes (R337) -/

/-- Whether the last reset, in the same cycle, keeps LAST: a wider scope, or as wide with a lower number. -/
def lastWins (h : Hub) (now scope number : Nat) : Bool :=
  h.causeAt.1 == now && (decide (scope < h.causeAt.2.1) || (scope == h.causeAt.2.1 && decide (h.causeAt.2.2 < number)))

/-- A reset's bit joins CAUSE; LAST and PARTS are rewritten. Scope 2 is the package, 1 a partition. -/
def State.setCause (number scope parts : Nat) (s : State) : State :=
  s.onHub fun h =>
    let cause := (h.resetCause.toNat % 256) ||| 2 ^ number
    if lastWins h s.now scope number then { h with resetCause := BitVec.ofNat 64 (h.resetCause.toNat / 256 * 256 + cause) }
    else { h with resetCause := BitVec.ofNat 64 (cause + number * 2 ^ 8 + parts * 2 ^ 12), causeAt := (s.now, scope, number) }

/-! ## Resetting a partition (R338) -/

/-- The partition whose command an event performs. -/
def commandPart : Instr → Option Nat
  | .copyIn c => some c.part
  | .copyOut c => some c.part
  | .launch c _ => some c.part
  | .preemptStop c => some c.part
  | .preemptResume c => some c.part
  | .preemptEvict c => some c.part
  | .preemptSwitch c => some c.part
  | .budgetRead c => some c.part
  | .attestQuote c => some c.part
  | .trowelReclaim c => some c.part
  | .scrub c => some c.part
  | _ => none

/-- Events that a reset of a partition takes away: its commands, its polls, starts on its cores, its channels' holds. -/
def State.resetDrops (s : State) (n : Nat) (e : Instr) : Bool :=
  let mine := fun (p : Nat) => (s.coreAt p).partNo == n && (s.partAt n).ctl.getLsbD (clusterOf p)
  commandPart e == some n ||
  match e with
  | .queuePoll m _ => m == n
  | .launchStart m _ => m == n
  | .launchRetire m _ => m == n
  | .successorStart m _ _ => m == n
  | .translationUpdate m i _ => m == n && decide (i < broadcastIdx)
  | .syncResume m _ _ _ => m == n
  | .syncWaitLimit m _ _ => m == n
  | .timetableStart p _ => mine p
  | .freeContextStart p => mine p
  | .copyCommandStart p => mine p
  | .trowelArrive m => mine m.fromCore
  | .trowelHome p _ _ => mine p
  | .swatchArrive m => m.part == n
  | .swatchReturn m => m.part == n
  | .swatchRevoke m => m.part == n
  | .tcleanZeroDone p _ => mine p
  | _ => false

/-- The fields of a partition that its reset leaves: control word, SEQ and the records' way to the ring, round counters; of the channel table
the entries under which something still performs. -/
def Part.cleared (performs : ChanRec → Bool) (p : Part) : Part :=
  { Part.reset with
    ctl := p.ctl, seq := p.seq, pend := p.pend, ringW := p.ringW, rounds := p.rounds, stale := p.stale, notice := p.notice, owing := []
    chans := p.chans.filter performs }

/-- Whether link commands, packets or puts of a channel are left, whose chunks complete (R315 step 2). -/
def State.chanPerforms (s : State) (n : Nat) (c : ChanRec) : Bool :=
  !c.out.isEmpty || (s.hub.puts.any fun u => u.part == n && u.ch == c.decl.ch) ||
  s.allCores.any fun k => k.partNo == n && k.link.cmds.any fun l => l.ch == c.decl.ch

/-- Every engine and link command of a partition goes that has not begun, and the chain behind the entry in progress (R315 step 2). -/
def State.dropCommands (n : Nat) (s : State) : State :=
  (s.cancelCommands n).mapCores fun c => if c.partNo = n then { c with copy := { c.copy with chain := none } } else c

/-- The three steps of a partition reset. Nothing is saved, no command completes. -/
def State.resetPart (n : Nat) (s : State) : State :=
  let s := (s.dropCommands n).homeTrowels n (fun _ => true) false
  let s : State := (s.partAt n).launches.foldl (fun (t : State) l => t.dropLaunch n l false) s
  let s := s.cancel (s.resetDrops n)
  let s : State := { s with saved := s.saved.filter fun v => v.part != n }
  let s := s.mapCores fun c => if c.partNo = n then { c with reserved := [], switch := { chooseAt := none, from_ := 3 } } else c
  (s.onPart n (Part.cleared (s.chanPerforms n))).wakeHarvest n

/-- Partitions that exist are told of a reset: its notice is the first record after it (R338). -/
def State.tellReset (ns : List Nat) (s : State) : State :=
  ns.foldl (fun (t : State) n => if (t.partAt n).ctl.getLsbD 16 then t.notify n t.hub.resetCause else t) s

/-- R338. -/
def execPartitionReset (part : Nat) (s : State) : Host.Outcome State Fault Refusal :=
  .next (((s.resetPart part).setCause 3 1 (2 ^ part)).tellReset [part])

/-- Every partition is reset as by a partition reset. -/
def State.resetAll (s : State) : State := (List.range 16).foldl (fun (t : State) n => t.resetPart n) s

/-- R337. The physical function's is a reset of every partition. -/
def execFunctionLevelReset (vf : Option Nat) (s : State) : Host.Outcome State Fault Refusal :=
  match vf with
  | some n => .next (((s.resetPart n).setCause 2 1 (2 ^ n)).tellReset [n])
  | none => .next ((s.resetAll.setCause 2 2 0xFFFF).tellReset (List.range 16))

/-! ## Resetting the package (R337) -/

/-- Events that come from outside the package's own volatile state, and the timers a reset does not stop. -/
def fromOutside : Instr → Bool
  | .powerOn _ _ => true
  | .pcieFundamentalReset => true
  | .functionLevelReset _ => true
  | .partitionReset _ => true
  | .firmwareWatchdog _ => true
  | .thermalTrip => true
  | .thermalTripRelease => true
  | .securityViolation => true
  | .fabricError => true
  | .railOutOfRange _ => true
  | .droopDetect _ => true
  | .clockStepUp => true
  | .thermalThrottle => true
  | .thermalThrottleEnd => true
  | .managementRequest _ => true
  | .recoveryImage _ _ => true
  | .queueTailWrite _ _ _ => true
  | .tentryWrite _ _ => true
  | .registerWrite _ _ _ => true
  | .partitionControlWrite _ _ => true
  | .framewinAssign _ => true
  | .framewinReturn _ => true
  | .slotTableWrite _ _ _ => true
  | .capabilityEntryWrite _ _ _ => true
  | .groupEntryWrite _ _ => true
  | .budgetWrite _ _ => true
  | .debugGo _ _ => true
  | .debugStep _ _ => true
  | .spaceTeardown _ _ _ => true
  | .dataFlit _ => true
  | .idleFlit _ => true
  | .chunkAckFlit _ => true
  | .armNoticeFlit _ => true
  | .abortFlit _ => true
  | .refusalFlit _ => true
  | .migrationFlit _ => true
  | .faultyFlit _ => true
  | .flitAgeDiscard _ => true
  | .maskReseed _ => true
  | .stippleRekey => true
  | .settlementEnd _ => true
  | _ => false

/-- A core after a package reset: its mismatch and corrected counters stand. -/
def Core.cleared (c : Core) : Core :=
  { Core.reset c.phys with cap := { CapEntry.reset with cnt := c.cap.cnt, coreCnt := c.cap.coreCnt, corrected := c.cap.corrected } }

/-- A partition after a package reset: it is to be created anew, with its SEQ going on (R335) and its notices to come. -/
def Part.gone (p : Part) : Part :=
  { Part.reset with seq := p.seq, notice := p.notice ++ p.pend.reverse.filter (fun r => r.code == 0x0D09), owing := p.owing }

/-- The hub: budgets, and the move and settle state of frames, stand; so do the firmware's measurements, made again. -/
def Hub.cleared (h : Hub) : Hub :=
  { Hub.reset with
    parts := h.parts.map Part.gone
    resetCause := h.resetCause, causeAt := h.causeAt, budgets := h.budgets, keys := h.keys, power := h.power, answers := h.answers
    frames := h.frames.map fun f => { f with part := none, pool := false, written := false, cipher := none, rekeyed := [], moving := none, came := 0, held := [], guest := none }
    mr := Vector.ofFn fun (i : Fin 8) => if i.val < 3 then h.mr[i] else 0 }

/-- Everything volatile is as after power-on; cycles go on counting. -/
def State.resetPackage (s : State) : State :=
  { State.reset with
    now := s.now, agenda := s.agenda.filter fun d => fromOutside d.ev
    core := (s.coreAt 0).cleared, others := (List.range' 1 63).map fun p => (s.coreAt p).cleared
    hostMem := s.hostMem, hub := s.hub.cleared, draws := s.draws, noise := s.noise, fetched := s.fetched
    issueSeq := s.issueSeq, images := s.images }

/-- A package reset with its cause, of which every partition is told once it is created anew. -/
def State.resetWith (number : Nat) (s : State) : State :=
  (s.resetPackage.setCause number 2 0xFFFF).onHub fun h => { h with parts := h.parts.map fun p => { p with owing := p.owing ++ [h.resetCause] } }

/-- R337. The management log stands. -/
def execPcieFundamentalReset (s : State) : Host.Outcome State Fault Refusal :=
  .next ((s.resetWith 1).onHub fun h => { h with log := s.hub.log, logSeq := s.hub.logSeq })

/-- R337. A command processor's watchdog resets its partition, the others' the package. -/
def execFirmwareWatchdog (part : Option Nat) (s : State) : Host.Outcome State Fault Refusal :=
  match part with
  | some n => .next (((s.resetPart n).setCause 4 1 (2 ^ n)).tellReset [n])
  | none => .next (s.resetWith 4)

/-- R350. -/
def execThermalTrip (s : State) : Host.Outcome State Fault Refusal :=
  .next ((s.resetWith 5).onHub fun h => { h with power := { h.power with off := true, tripped := true } })

/-- R350. -/
def execThermalTripRelease (s : State) : Host.Outcome State Fault Refusal :=
  .next (if s.hub.power.tripped then s.onHub fun h => { h with power := { h.power with off := false, tripped := false } } else s)

/-- R349. Key slots and the stipple generator's key are erased. -/
def execSecurityViolation (s : State) : Host.Outcome State Fault Refusal :=
  .next ({ s.resetWith 6 with noise := s.noise + 1 }.onHub fun h => { h with keys := [] })

/-- R337. -/
def execFabricError (s : State) : Host.Outcome State Fault Refusal := .next (s.resetWith 7)

/-- R351. -/
def execRailOutOfRange (_rail : Nat) (s : State) : Host.Outcome State Fault Refusal := .next (s.resetWith 7)

/-! ## Boot (R346) -/

/-- An image of a kind that the security processor accepts: both signatures verify over its digest, and its version is not below the fused
minimum of its kind: 0 its own runtime, 1 the management controller's, 2 the command processors'. -/
def accepted (kind : Nat) (im : FwImage) : Bool :=
  Config.rsaVerifies (sha384 im.bytes) im.rsa && Config.slhVerifies (sha384 im.bytes) im.slh && decide (Config.fusedMinimum kind ≤ im.version)

/-- ROM recovery, or its end. -/
def State.recover (b : Bool) (s : State) : State := s.onHub fun h => { h with power := { h.power with recovery := b } }

/-- The images from a kind on are loaded in their order, each measured and run (R346, R347); the first that is not accepted leaves the package
in ROM recovery, with cause 6. -/
def State.bootFrom (kind : Nat) (ims : List FwImage) (s : State) : State :=
  match ims with
  | [] => if kind < 3 then (s.recover true).setCause 6 2 0xFFFF else s.recover false
  | im :: r =>
    if accepted kind im then
      ((s.extend kind (sha384 im.bytes)).onHub fun h => { h with power := { h.power with booted := kind + 1 } }).bootFrom (kind + 1) r
    else (s.recover true).setCause 6 2 0xFFFF

/-- R337, R346. CAUSE holds bit 0 alone, measurement registers and key slots are empty, records count from 0. -/
def execPowerOn (runtime : FwImage) (others : List FwImage) (s : State) : Host.Outcome State Fault Refusal :=
  let ims := (runtime :: others).take 3
  let s := s.resetPackage.onHub fun h =>
    { h with
      resetCause := 0xFFFF001, causeAt := (s.now, 2, 0), mr := Vector.replicate 8 0, keys := [], parts := Vector.replicate 16 Part.reset
      power := { h.power with off := h.power.tripped, booted := 0, flash := ims } }
  .next (s.bootFrom 0 ims)

/-- R346. Only a package in recovery takes an image, in place of the one that failed; the images behind it follow. -/
def execRecoveryImage (kind : Nat) (image : FwImage) (s : State) : Host.Outcome State Fault Refusal :=
  let k := s.hub.power.booted
  if s.hub.power.recovery ∧ kind = k then
    let ims := s.hub.power.flash.take k ++ image :: s.hub.power.flash.drop (k + 1)
    .next ((s.onHub fun h => { h with power := { h.power with flash := ims } }).bootFrom k (ims.drop k))
  else .next s

/-! ## Clock and temperature (R350) -/

def isStepUp : Instr → Bool
  | .clockStepUp => true
  | _ => false

/-- The clock may rise a step 100 µs on. -/
def State.stepUpLater (s : State) : State := (s.cancel isStepUp).schedule (s.now + s.us Config.stepTime) phExternal .clockStepUp

def State.onPower (f : Power → Power) (s : State) : State := s.onHub fun h => { h with power := f h.power }

/-- Events whose time is the reference timer's. -/
def onReference : Instr → Bool
  | .chunkTimeout _ _ _ _ => true
  | .channelReuseHoldEnd _ _ => true
  | .groupReuseHoldEnd _ => true
  | .settlementEnd _ => true
  | .roundTimeout _ _ => true
  | .clockStepUp => true
  | .linkRetrainDone _ => true
  | _ => false

/-- The cycle of a moment of the reference timer, after a change of the clock from a to b MHz. -/
def Due.retime (now a b : Nat) (d : Due) : Due := { d with cyc := now + ceilDiv ((d.cyc - now) * b) a }

/-- The arithmetic clock changes its step; the reference timer does not (R4, R12, R350). -/
def State.setStep (k : Nat) (s : State) : State :=
  let a := mhz s.hub.power.step
  let b := mhz k
  let ds := (s.agenda.filter fun d => onReference d.ev).map (Due.retime s.now a b)
  let s := (s.cancel onReference).onPower fun p => { p with step := k, stepAt := s.now, refAt := s.ticks }
  { s with agenda := ds.foldl (fun l d => insertDue d l) s.agenda }

/-- R350. DESIGN CHOICE: R12 and R350 lower the clock within 2 cycles of a detection and fix no number; here it falls in the detection's own
cycle (log 43). -/
def execDroopDetect (_die : Nat) (s : State) : Host.Outcome State Fault Refusal :=
  .next (s.setStep (min 4 (s.hub.power.step + 1))).stepUpLater

/-- R350. A throttled clock stays at 640 MHz. -/
def execClockStepUp (s : State) : Host.Outcome State Fault Refusal :=
  let p := s.hub.power
  if p.throttled || p.step = 0 then .next s
  else
    let s := s.setStep (p.step - 1)
    if 1 < p.step then .next s.stepUpLater else .next s

/-- R350. -/
def execThermalThrottle (s : State) : Host.Outcome State Fault Refusal :=
  .next (((s.cancel isStepUp).setStep 4).onPower fun p => { p with throttled := true })

/-- R350. -/
def execThermalThrottleEnd (s : State) : Host.Outcome State Fault Refusal :=
  .next (s.onPower fun p => { p with throttled := false }).stepUpLater

/-! ## Quotes (R348) -/

/-- Groups that name a partition. -/
def State.groupsNaming (s : State) (n : Nat) : List Group :=
  s.hub.groups.toList.filter fun g => g.valid && g.members.any fun w => memberChip w == s.chipId && memberPart w == n

/-- Bytes of the signatures: RSA-3072, then SLH-DSA-SHA2-192s. -/
def sigBytes : Nat := 384 + 16224

/-- Parts before the signatures; the order of fields in a part is the spec's, their widths are the model's. Log 10. -/
def State.quoteParts (s : State) (n opts : Nat) (nonce : List Byte) : List Byte :=
  let p := s.partAt n
  let w := fun (v : Nat) => leBytes 8 v
  (w 1 ++ w s.chipId ++ w n ++ bytes8 (s.ownerReg n) ++ w (if p.ctl.getLsbD 17 then 1 else 0) ++ w (if s.hub.chipid.getLsbD 12 then 1 else 0)) ++
  nonce ++ s.hub.mr.toList.flatMap digestBytes ++
  (if opts % 2 = 1 then (s.groupsNaming n).flatMap fun g =>
    bytes8 g.w0 ++ bytes8 g.w1 ++ g.members.flatMap (fun m => leBytes 4 m.toNat) ++ w g.cost else []) ++
  (if opts / 2 % 2 = 1 then bytes8 ((p.owner.map s.budget).getD 0) else [])

/-- The whole quote. -/
def State.quote (s : State) (n opts : Nat) (nonce : List Byte) : List Byte :=
  let parts := s.quoteParts n opts nonce
  parts ++ (List.range sigBytes).map fun i => ((Config.quoteSignatures (sha384 parts))[i]?).getD 0

/-- R325, R348. -/
def execAttestQuote (c : Cmd) (s : State) : Host.Outcome State Fault Refusal :=
  let n := c.part
  let s := s.vFresh n (c.num 1) 48
  if (s.vFault n false (c.num 1) 48).isSome then .next (s.fail c 0x0D06)
  else if s.vMoves n (c.num 1) 48 then .next (s.again (pollSlot c.queue) (.attestQuote c))
  else
    let q := s.quote n (c.num 3) (s.vRead n (c.num 1) 48)
    if (s.vFault n true (c.num 2) q.length).isSome then .next (s.fail c 0x0D06)
    else .next ((s.vWrite n 30 (c.num 2) q).complete c)

/-! ## Management (R352) -/

/-- Word i of a list of bytes. -/
def wordOf (bs : List Byte) (i : Nat) : Word := BitVec.ofNat 64 (leVal ((bs.drop (8 * i)).take 8))

/-- What the controller answers to a request. The numbers are the model's (DESIGN CHOICE: log 54): 0 how many records the management log
has, 1 the reset-cause register, 2 the clock step; from 2^32 on word i % 8 of record i / 8 of the log, the oldest first (R334); from 2^48 on
a word of a quote of partition n, at n × 2^32 + i, under the nonce and the options asked for; all others temperatures and rail telemetry. -/
def State.answer (s : State) (req : Nat) : Word :=
  if req = 0 then BitVec.ofNat 64 s.hub.log.length
  else if req = 1 then s.hub.resetCause
  else if req = 2 then BitVec.ofNat 64 s.hub.power.step
  else if req < 2 ^ 32 then Config.telemetry (s.now + req)
  else if req < 2 ^ 48 then
    wordOf (((s.hub.log.reverse[(req - 2 ^ 32) / 8]?).map recordBytes).getD []) ((req - 2 ^ 32) % 8)
  else
    wordOf (s.quote ((req - 2 ^ 48) / 2 ^ 32 % 16) (Config.askedOptions s.draws % 4)
      ((List.range 48).map fun i => ((Config.askedNonce s.draws)[i]?).getD 0)) ((req - 2 ^ 48) % 2 ^ 32)

/-- R352. It changes no partition's state. -/
def execManagementRequest (req : Nat) (s : State) : Host.Outcome State Fault Refusal :=
  .next (s.onHub fun h => { h with answers := h.answers ++ [(req, s.answer req)] })

end Sys2Proof.Machine
end

