-- ==== Sys2Proof/Machine/Dispatch.lean ====
section
/-! DEFINITION. What every instruction does: one arm for each constructor of Instr, each one call of its meaning. -/

namespace Sys2Proof.Machine

/-- The meaning of an instruction. -/
def exec (i : Instr) (s : State) : Host.Outcome State Fault Refusal :=
  match i with
  | .nop g => Sys2Proof.Machine.execNop g s
  | .add g d a b w => Sys2Proof.Machine.execAdd g d a b w s
  | .sub g d a b w => Sys2Proof.Machine.execSub g d a b w s
  | .mul g d a b w => Sys2Proof.Machine.execMul g d a b w s
  | .mulh g d a b w => Sys2Proof.Machine.execMulh g d a b w s
  | .mulhn g d a b w => Sys2Proof.Machine.execMulhn g d a b w s
  | .div g d a b w => Sys2Proof.Machine.execDiv g d a b w s
  | .divn g d a b w => Sys2Proof.Machine.execDivn g d a b w s
  | .rem g d a b w => Sys2Proof.Machine.execRem g d a b w s
  | .remn g d a b w => Sys2Proof.Machine.execRemn g d a b w s
  | .and g d a b w => Sys2Proof.Machine.execAnd g d a b w s
  | .or g d a b w => Sys2Proof.Machine.execOr g d a b w s
  | .xor g d a b w => Sys2Proof.Machine.execXor g d a b w s
  | .andn g d a b w => Sys2Proof.Machine.execAndn g d a b w s
  | .shl g d a b w => Sys2Proof.Machine.execShl g d a b w s
  | .shr g d a b w => Sys2Proof.Machine.execShr g d a b w s
  | .sar g d a b w => Sys2Proof.Machine.execSar g d a b w s
  | .rotl g d a b w => Sys2Proof.Machine.execRotl g d a b w s
  | .min g d a b w => Sys2Proof.Machine.execMin g d a b w s
  | .max g d a b w => Sys2Proof.Machine.execMax g d a b w s
  | .minn g d a b w => Sys2Proof.Machine.execMinn g d a b w s
  | .maxn g d a b w => Sys2Proof.Machine.execMaxn g d a b w s
  | .clz g d a w => Sys2Proof.Machine.execClz g d a w s
  | .popc g d a w => Sys2Proof.Machine.execPopc g d a w s
  | .cmp g p a b c => Sys2Proof.Machine.execCmp g p a b c s
  | .sel g d a b => Sys2Proof.Machine.execSel g d a b s
  | .mov g d a w => Sys2Proof.Machine.execMov g d a w s
  | .addi g d a imm => Sys2Proof.Machine.execAddi g d a imm s
  | .andi g d a imm => Sys2Proof.Machine.execAndi g d a imm s
  | .ori g d a imm => Sys2Proof.Machine.execOri g d a imm s
  | .xori g d a imm => Sys2Proof.Machine.execXori g d a imm s
  | .shli g d a imm => Sys2Proof.Machine.execShli g d a imm s
  | .shri g d a imm => Sys2Proof.Machine.execShri g d a imm s
  | .sari g d a imm => Sys2Proof.Machine.execSari g d a imm s
  | .cmpi g p a imm c => Sys2Proof.Machine.execCmpi g p a imm c s
  | .movi g d imm => Sys2Proof.Machine.execMovi g d imm s
  | .movhi g d imm => Sys2Proof.Machine.execMovhi g d imm s
  | .rds g d r => Sys2Proof.Machine.execRds g d r s
  | .wrs g a r => Sys2Proof.Machine.execWrs g a r s
  | .stgw g a e => Sys2Proof.Machine.execStgw g a e s
  | .stgr g d e => Sys2Proof.Machine.execStgr g d e s
  | .gmsetReg g d a => Sys2Proof.Machine.execGmsetReg g d a s
  | .gmsetImm g d imm => Sys2Proof.Machine.execGmsetImm g d imm s
  | .amkLocation g d sp l => Sys2Proof.Machine.execAmkLocation g d sp l s
  | .amkRegister g d sp a b => Sys2Proof.Machine.execAmkRegister g d sp a b s
  | .aaddImm g d a imm => Sys2Proof.Machine.execAaddImm g d a imm s
  | .aaddReg g d a b => Sys2Proof.Machine.execAaddReg g d a b s
  | .fadd g m f d a b r => Sys2Proof.Machine.execFadd g m f d a b r s
  | .fsub g m f d a b r => Sys2Proof.Machine.execFsub g m f d a b r s
  | .fmul g m f d a b r => Sys2Proof.Machine.execFmul g m f d a b r s
  | .fma g m f d a b r => Sys2Proof.Machine.execFma g m f d a b r s
  | .fms g m f d a b r => Sys2Proof.Machine.execFms g m f d a b r s
  | .fnma g m f d a b r => Sys2Proof.Machine.execFnma g m f d a b r s
  | .fmin g m f d a b => Sys2Proof.Machine.execFmin g m f d a b s
  | .fmax g m f d a b => Sys2Proof.Machine.execFmax g m f d a b s
  | .fneg g m f d a => Sys2Proof.Machine.execFneg g m f d a s
  | .fabs g m f d a => Sys2Proof.Machine.execFabs g m f d a s
  | .fcmp g m f p a b c => Sys2Proof.Machine.execFcmp g m f p a b c s
  | .fclass g m f p a k => Sys2Proof.Machine.execFclass g m f p a k s
  | .iadd g m f d a b sat => Sys2Proof.Machine.execIadd g m f d a b sat s
  | .isub g m f d a b sat => Sys2Proof.Machine.execIsub g m f d a b sat s
  | .imul g m f d a b => Sys2Proof.Machine.execImul g m f d a b s
  | .imulh g m f d a b => Sys2Proof.Machine.execImulh g m f d a b s
  | .iand g m f d a b => Sys2Proof.Machine.execIand g m f d a b s
  | .ior g m f d a b => Sys2Proof.Machine.execIor g m f d a b s
  | .ixor g m f d a b => Sys2Proof.Machine.execIxor g m f d a b s
  | .iandn g m f d a b => Sys2Proof.Machine.execIandn g m f d a b s
  | .ishl g m f d a b => Sys2Proof.Machine.execIshl g m f d a b s
  | .ishlImm g m f d a imm => Sys2Proof.Machine.execIshlImm g m f d a imm s
  | .ishr g m f d a b => Sys2Proof.Machine.execIshr g m f d a b s
  | .ishrImm g m f d a imm => Sys2Proof.Machine.execIshrImm g m f d a imm s
  | .isar g m f d a b => Sys2Proof.Machine.execIsar g m f d a b s
  | .isarImm g m f d a imm => Sys2Proof.Machine.execIsarImm g m f d a imm s
  | .imin g m f d a b => Sys2Proof.Machine.execImin g m f d a b s
  | .imax g m f d a b => Sys2Proof.Machine.execImax g m f d a b s
  | .icmp g m f p a b c => Sys2Proof.Machine.execIcmp g m f p a b c s
  | .vmov g m d a => Sys2Proof.Machine.execVmov g m d a s
  | .vsel g m d a b => Sys2Proof.Machine.execVsel g m d a b s
  | .vbcast g m d a hi => Sys2Proof.Machine.execVbcast g m d a hi s
  | .vlane g m d a k => Sys2Proof.Machine.execVlane g m d a k s
  | .vidx g m d => Sys2Proof.Machine.execVidx g m d s
  | .vperm g m d a b => Sys2Proof.Machine.execVperm g m d a b s
  | .vred g m o d a => Sys2Proof.Machine.execVred g m o d a s
  | .xg g m d a k => Sys2Proof.Machine.execXg g m d a k s
  | .cvt g m dt st d a sat sr r => Sys2Proof.Machine.execCvt g m dt st d a sat sr r s
  | .qnt g m dt st d a sat sr r => Sys2Proof.Machine.execQnt g m dt st d a sat sr r s
  | .dqnt g m dt st d a sat sr r => Sys2Proof.Machine.execDqnt g m dt st d a sat sr r s
  | .pack g m w d a k => Sys2Proof.Machine.execPack g m w d a k s
  | .unpack g m w d a k sx => Sys2Proof.Machine.execUnpack g m w d a k sx s
  | .vskim g m p => Sys2Proof.Machine.execVskim g m p s
  | .vbern g m p a => Sys2Proof.Machine.execVbern g m p a s
  | .vrand g m d => Sys2Proof.Machine.execVrand g m d s
  | .vimm g m hi d imm => Sys2Proof.Machine.execVimm g m hi d imm s
  | .frcp g m f d a => Sys2Proof.Machine.execFrcp g m f d a s
  | .fdiv g m f d a b => Sys2Proof.Machine.execFdiv g m f d a b s
  | .fsqrt g m f d a => Sys2Proof.Machine.execFsqrt g m f d a s
  | .frsqrt g m f d a => Sys2Proof.Machine.execFrsqrt g m f d a s
  | .fexp2 g m f d a => Sys2Proof.Machine.execFexp2 g m f d a s
  | .flog2 g m f d a => Sys2Proof.Machine.execFlog2 g m f d a s
  | .lds g d n o ac => Sys2Proof.Machine.execLds g d n o ac s
  | .sts g d n o ac => Sys2Proof.Machine.execSts g d n o ac s
  | .ldv g m d n o ac => Sys2Proof.Machine.execLdv g m d n o ac s
  | .stv g m d n o ac => Sys2Proof.Machine.execStv g m d n o ac s
  | .ldvq g m d n o ac => Sys2Proof.Machine.execLdvq g m d n o ac s
  | .stvq g m d n o ac => Sys2Proof.Machine.execStvq g m d n o ac s
  | .ldsp g d l => Sys2Proof.Machine.execLdsp g d l s
  | .stsp g d l => Sys2Proof.Machine.execStsp g d l s
  | .ldvsp g m d l => Sys2Proof.Machine.execLdvsp g m d l s
  | .stvsp g m d l => Sys2Proof.Machine.execStvsp g m d l s
  | .ldx g m d n v ac => Sys2Proof.Machine.execLdx g m d n v ac s
  | .stx g m d n v ac => Sys2Proof.Machine.execStx g m d n v ac s
  | .ldh g d n o ac => Sys2Proof.Machine.execLdh g d n o ac s
  | .sth g d n o ac => Sys2Proof.Machine.execSth g d n o ac s
  | .xlat g h a => Sys2Proof.Machine.execXlat g h a s
  | .hinv g h => Sys2Proof.Machine.execHinv g h s
  | .drain g => Sys2Proof.Machine.execDrain g s
  | .br g d => Sys2Proof.Machine.execBr g d s
  | .brr g a => Sys2Proof.Machine.execBrr g a s
  | .call g d => Sys2Proof.Machine.execCall g d s
  | .ret g => Sys2Proof.Machine.execRet g s
  | .loop l c n rot ilk => Sys2Proof.Machine.execLoop l c n rot ilk s
  | .loopi l c n rot ilk => Sys2Proof.Machine.execLoopi l c n rot ilk s
  | .lbreak g l => Sys2Proof.Machine.execLbreak g l s
  | .roll n l => Sys2Proof.Machine.execRoll n l s
  | .mma g qa qb b q f ck zp gs => Sys2Proof.Machine.execMma g qa qb b q f ck zp gs s
  | .mmaz g qa qb b q f ck zp gs => Sys2Proof.Machine.execMmaz g qa qb b q f ck zp gs s
  | .mmaDl g qa qb d f zp gs => Sys2Proof.Machine.execMmaDl g qa qb d f zp gs s
  | .mmazDl g qa qb d f zp gs => Sys2Proof.Machine.execMmazDl g qa qb d f zp gs s
  | .bld g qb l => Sys2Proof.Machine.execBld g qb l s
  | .bswap g => Sys2Proof.Machine.execBswap g s
  | .qpop g q n => Sys2Proof.Machine.execQpop g q n s
  | .qadv g q n => Sys2Proof.Machine.execQadv g q n s
  | .qrst g q => Sys2Proof.Machine.execQrst g q s
  | .accrd g m d b row => Sys2Proof.Machine.execAccrd g m d b row s
  | .accwr g m d b row => Sys2Proof.Machine.execAccwr g m d b row s
  | .accadd g m d b row => Sys2Proof.Machine.execAccadd g m d b row s
  | .accclr g m b row => Sys2Proof.Machine.execAccclr g m b row s
  | .cp g n => Sys2Proof.Machine.execCp g n s
  | .cpq g n q => Sys2Proof.Machine.execCpq g n q s
  | .tmv g n => Sys2Proof.Machine.execTmv g n s
  | .cpfill g n => Sys2Proof.Machine.execCpfill g n s
  | .cpchain g n => Sys2Proof.Machine.execCpchain g n s
  | .cphalt g => Sys2Proof.Machine.execCphalt g s
  | .saenq g m imm v o t => Sys2Proof.Machine.execSaenq g m imm v o t s
  | .sarun g n => Sys2Proof.Machine.execSarun g n s
  | .saflush g => Sys2Proof.Machine.execSaflush g s
  | .sawin g n => Sys2Proof.Machine.execSawin g n s
  | .send g c n => Sys2Proof.Machine.execSend g c n s
  | .put g c n => Sys2Proof.Machine.execPut g c n s
  | .recv g c n => Sys2Proof.Machine.execRecv g c n s
  | .allred g c n => Sys2Proof.Machine.execAllred g c n s
  | .agfwd g c n => Sys2Proof.Machine.execAgfwd g c n s
  | .agg g n => Sys2Proof.Machine.execAgg g n s
  | .aggq g n d x => Sys2Proof.Machine.execAggq g n d x s
  | .tlend g t a => Sys2Proof.Machine.execTlend g t a s
  | .tret g t => Sys2Proof.Machine.execTret g t s
  | .tsplit g t m a => Sys2Proof.Machine.execTsplit g t m a s
  | .tjoin g t m => Sys2Proof.Machine.execTjoin g t m s
  | .tshare g t a => Sys2Proof.Machine.execTshare g t a s
  | .tunshare g t a => Sys2Proof.Machine.execTunshare g t a s
  | .tprobe g t d => Sys2Proof.Machine.execTprobe g t d s
  | .tcleanKeep g t => Sys2Proof.Machine.execTcleanKeep g t s
  | .tcleanZero g t => Sys2Proof.Machine.execTcleanZero g t s
  | .bkalloc g b => Sys2Proof.Machine.execBkalloc g b s
  | .bkallocNamed g b lo hi => Sys2Proof.Machine.execBkallocNamed g b lo hi s
  | .bkfree g b => Sys2Proof.Machine.execBkfree g b s
  | .scld g n o => Sys2Proof.Machine.execScld g n o s
  | .scldb g n o => Sys2Proof.Machine.execScldb g n o s
  | .zpclr g => Sys2Proof.Machine.execZpclr g s
  | .sync d t => Sys2Proof.Machine.execSync d t s
  | .mark t => Sys2Proof.Machine.execMark t s
  | .hold n => Sys2Proof.Machine.execHold n s
  | .ckeq g a b => Sys2Proof.Machine.execCkeq g a b s
  | .ckeqv g m a b => Sys2Proof.Machine.execCkeqv g m a b s
  | .ckeqp g a b => Sys2Proof.Machine.execCkeqp g a b s
  | .trap g imm => Sys2Proof.Machine.execTrap g imm s
  | .brk g imm => Sys2Proof.Machine.execBrk g imm s
  | .wflag g n a c o => Sys2Proof.Machine.execWflag g n a c o s
  | .tflag g p n a c o => Sys2Proof.Machine.execTflag g p n a c o s
  | .timetableStart core ctx => Sys2Proof.Machine.execTimetableStart core ctx s
  | .freeContextStart core => Sys2Proof.Machine.execFreeContextStart core s
  | .registerResultLand r => Sys2Proof.Machine.execRegisterResultLand r s
  | .syncResume part line scope g => Sys2Proof.Machine.execSyncResume part line scope g s
  | .syncWaitLimit part line scope => Sys2Proof.Machine.execSyncWaitLimit part line scope s
  | .bayReexecute core ctx => Sys2Proof.Machine.execBayReexecute core ctx s
  | .gatedCommitPerform c => Sys2Proof.Machine.execGatedCommitPerform c s
  | .contextStopped core ctx => Sys2Proof.Machine.execContextStopped core ctx s
  | .contextResume core ctx q => Sys2Proof.Machine.execContextResume core ctx q s
  | .dustSheetLand r => Sys2Proof.Machine.execDustSheetLand r s
  | .mmaTileRetire core ring idx => Sys2Proof.Machine.execMmaTileRetire core ring idx s
  | .mmaRowLand r => Sys2Proof.Machine.execMmaRowLand r s
  | .mmaExtraRowLand r => Sys2Proof.Machine.execMmaExtraRowLand r s
  | .mmaDrainLand r => Sys2Proof.Machine.execMmaDrainLand r s
  | .bldLand b => Sys2Proof.Machine.execBldLand b s
  | .swapPerform core => Sys2Proof.Machine.execSwapPerform core s
  | .accPortPerform p => Sys2Proof.Machine.execAccPortPerform p s
  | .copyCommandStart core => Sys2Proof.Machine.execCopyCommandStart core s
  | .copyRelease c => Sys2Proof.Machine.execCopyRelease c s
  | .saEntryArrive core e => Sys2Proof.Machine.execSaEntryArrive core e s
  | .saRetirePerform core e => Sys2Proof.Machine.execSaRetirePerform core e s
  | .sarunRelease c => Sys2Proof.Machine.execSarunRelease c s
  | .trowelArrive m => Sys2Proof.Machine.execTrowelArrive m s
  | .trowelHome core entry flushed => Sys2Proof.Machine.execTrowelHome core entry flushed s
  | .swatchArrive m => Sys2Proof.Machine.execSwatchArrive m s
  | .swatchReturn m => Sys2Proof.Machine.execSwatchReturn m s
  | .swatchRevoke m => Sys2Proof.Machine.execSwatchRevoke m s
  | .tcleanZeroDone core region => Sys2Proof.Machine.execTcleanZeroDone core region s
  | .settlementEnd frame => Sys2Proof.Machine.execSettlementEnd frame s
  | .linkLocalComplete core ch num => Sys2Proof.Machine.execLinkLocalComplete core ch num s
  | .chunkFlagWrite core ch num chunk => Sys2Proof.Machine.execChunkFlagWrite core ch num chunk s
  | .chunkTimeout core ch num chunk => Sys2Proof.Machine.execChunkTimeout core ch num chunk s
  | .allredCombine core ch num chunk acc => Sys2Proof.Machine.execAllredCombine core ch num chunk acc s
  | .agfwdForward core ch num shard secs => Sys2Proof.Machine.execAgfwdForward core ch num shard secs s
  | .putTrowelReturn part grant offset => Sys2Proof.Machine.execPutTrowelReturn part grant offset s
  | .channelReuseHoldEnd part ch => Sys2Proof.Machine.execChannelReuseHoldEnd part ch s
  | .aggReachHome w => Sys2Proof.Machine.execAggReachHome w s
  | .roundClose grp round => Sys2Proof.Machine.execRoundClose grp round s
  | .roundTimeout grp round => Sys2Proof.Machine.execRoundTimeout grp round s
  | .aggHomeRelease grp round => Sys2Proof.Machine.execAggHomeRelease grp round s
  | .aggReleaseMember grp round member => Sys2Proof.Machine.execAggReleaseMember grp round member s
  | .groupReuseHoldEnd grp => Sys2Proof.Machine.execGroupReuseHoldEnd grp s
  | .queuePoll part queue => Sys2Proof.Machine.execQueuePoll part queue s
  | .recordHarvest part => Sys2Proof.Machine.execRecordHarvest part s
  | .capMirrorUpdate core => Sys2Proof.Machine.execCapMirrorUpdate core s
  | .launchStart part tag => Sys2Proof.Machine.execLaunchStart part tag s
  | .profileDrain core kind => Sys2Proof.Machine.execProfileDrain core kind s
  | .sampleEntryWrite core e => Sys2Proof.Machine.execSampleEntryWrite core e s
  | .linkRetrainDone port => Sys2Proof.Machine.execLinkRetrainDone port s
  | .pageMigration frame chip far => Sys2Proof.Machine.execPageMigration frame chip far s
  | .moveComplete frame => Sys2Proof.Machine.execMoveComplete frame s
  | .successorStart part tag start => Sys2Proof.Machine.execSuccessorStart part tag start s
  | .translationUpdate part idx v => Sys2Proof.Machine.execTranslationUpdate part idx v s
  | .copyIn c => Sys2Proof.Machine.execCopyIn c s
  | .copyOut c => Sys2Proof.Machine.execCopyOut c s
  | .scrub c => Sys2Proof.Machine.execScrub c s
  | .trowelReclaim c => Sys2Proof.Machine.execTrowelReclaim c s
  | .launch c img => Sys2Proof.Machine.execLaunch c img s
  | .launchRetire part tag => Sys2Proof.Machine.execLaunchRetire part tag s
  | .preemptStop c => Sys2Proof.Machine.execPreemptStop c s
  | .preemptResume c => Sys2Proof.Machine.execPreemptResume c s
  | .preemptEvict c => Sys2Proof.Machine.execPreemptEvict c s
  | .preemptSwitch c => Sys2Proof.Machine.execPreemptSwitch c s
  | .budgetRead c => Sys2Proof.Machine.execBudgetRead c s
  | .attestQuote c => Sys2Proof.Machine.execAttestQuote c s
  | .yield => Sys2Proof.Machine.execYield s
  | .halt => Sys2Proof.Machine.execHalt s
  | .aggLate w => Sys2Proof.Machine.execAggLate w s
  | .maskReseed core => Sys2Proof.Machine.execMaskReseed core s
  | .preemptStopBoundary core ctx => Sys2Proof.Machine.execPreemptStopBoundary core ctx s
  | .partitionControlWrite part v => Sys2Proof.Machine.execPartitionControlWrite part v s
  | .withheldGroupIssue core ctx => Sys2Proof.Machine.execWithheldGroupIssue core ctx s
  | .contextSwitch core => Sys2Proof.Machine.execContextSwitch core s
  | .branchTransfer core ctx target => Sys2Proof.Machine.execBranchTransfer core ctx target s
  | .ilkLoopExit core ctx => Sys2Proof.Machine.execIlkLoopExit core ctx s
  | .rollIterationEnd core ctx => Sys2Proof.Machine.execRollIterationEnd core ctx s
  | .rollComplete core ctx => Sys2Proof.Machine.execRollComplete core ctx s
  | .plumbLineComplete part line scope => Sys2Proof.Machine.execPlumbLineComplete part line scope s
  | .chainEnd core => Sys2Proof.Machine.execChainEnd core s
  | .chainCopy core => Sys2Proof.Machine.execChainCopy core s
  | .chainLoop core => Sys2Proof.Machine.execChainLoop core s
  | .chainSkipp core => Sys2Proof.Machine.execChainSkipp core s
  | .chainSkipf core => Sys2Proof.Machine.execChainSkipf core s
  | .chainReservedEntry core => Sys2Proof.Machine.execChainReservedEntry core s
  | .remoteLendAck core entry grant => Sys2Proof.Machine.execRemoteLendAck core entry grant s
  | .dataFlit f => Sys2Proof.Machine.execDataFlit f s
  | .idleFlit f => Sys2Proof.Machine.execIdleFlit f s
  | .chunkAckFlit f => Sys2Proof.Machine.execChunkAckFlit f s
  | .armNoticeFlit f => Sys2Proof.Machine.execArmNoticeFlit f s
  | .abortFlit f => Sys2Proof.Machine.execAbortFlit f s
  | .refusalFlit f => Sys2Proof.Machine.execRefusalFlit f s
  | .migrationFlit f => Sys2Proof.Machine.execMigrationFlit f s
  | .faultyFlit f => Sys2Proof.Machine.execFaultyFlit f s
  | .flitAgeDiscard f => Sys2Proof.Machine.execFlitAgeDiscard f s
  | .linkRetrain port => Sys2Proof.Machine.execLinkRetrain port s
  | .stippleRekey => Sys2Proof.Machine.execStippleRekey s
  | .signal c => Sys2Proof.Machine.execSignal c s
  | .wait c => Sys2Proof.Machine.execWait c s
  | .cmdInvalid c => Sys2Proof.Machine.execCmdInvalid c s
  | .spaceTeardown part engine what => Sys2Proof.Machine.execSpaceTeardown part engine what s
  | .powerOn runtime others => Sys2Proof.Machine.execPowerOn runtime others s
  | .pcieFundamentalReset => Sys2Proof.Machine.execPcieFundamentalReset s
  | .functionLevelReset vf => Sys2Proof.Machine.execFunctionLevelReset vf s
  | .partitionReset part => Sys2Proof.Machine.execPartitionReset part s
  | .firmwareWatchdog part => Sys2Proof.Machine.execFirmwareWatchdog part s
  | .thermalTrip => Sys2Proof.Machine.execThermalTrip s
  | .thermalTripRelease => Sys2Proof.Machine.execThermalTripRelease s
  | .securityViolation => Sys2Proof.Machine.execSecurityViolation s
  | .fabricError => Sys2Proof.Machine.execFabricError s
  | .railOutOfRange rail => Sys2Proof.Machine.execRailOutOfRange rail s
  | .droopDetect die => Sys2Proof.Machine.execDroopDetect die s
  | .clockStepUp => Sys2Proof.Machine.execClockStepUp s
  | .thermalThrottle => Sys2Proof.Machine.execThermalThrottle s
  | .thermalThrottleEnd => Sys2Proof.Machine.execThermalThrottleEnd s
  | .managementRequest req => Sys2Proof.Machine.execManagementRequest req s
  | .recoveryImage kind image => Sys2Proof.Machine.execRecoveryImage kind image s
  | .queueTailWrite part queue v => Sys2Proof.Machine.execQueueTailWrite part queue v s
  | .tentryWrite part v => Sys2Proof.Machine.execTentryWrite part v s
  | .registerWrite vf offset v => Sys2Proof.Machine.execRegisterWrite vf offset v s
  | .framewinAssign v => Sys2Proof.Machine.execFramewinAssign v s
  | .framewinReturn v => Sys2Proof.Machine.execFramewinReturn v s
  | .slotTableWrite res entry v => Sys2Proof.Machine.execSlotTableWrite res entry v s
  | .capabilityEntryWrite core offset v => Sys2Proof.Machine.execCapabilityEntryWrite core offset v s
  | .groupEntryWrite grp v => Sys2Proof.Machine.execGroupEntryWrite grp v s
  | .budgetWrite owner v => Sys2Proof.Machine.execBudgetWrite owner v s
  | .debugStop core ctx n => Sys2Proof.Machine.execDebugStop core ctx n s
  | .debugGo core ctx => Sys2Proof.Machine.execDebugGo core ctx s
  | .debugStep core ctx => Sys2Proof.Machine.execDebugStep core ctx s
  | .finjOff core ctx v => Sys2Proof.Machine.execFinjOff core ctx v s
  | .finjArray core ctx v => Sys2Proof.Machine.execFinjArray core ctx v s
  | .finjSector core ctx v => Sys2Proof.Machine.execFinjSector core ctx v s
  | .illegalEncoding reason pos => Sys2Proof.Machine.execIllegalEncoding reason pos s

end Sys2Proof.Machine
end

