-- ==== Sys2Proof/Machine/Step.lean ====
section
/-! DEFINITION. One step: the first event that is due, or else the turn of the core in front (R250, R251). -/

namespace Sys2Proof.Machine

/-- The turn of the core in front, and the next core's to come. A package that is off lets time pass (R350). -/
def State.turnStep (s : State) : Host.Outcome State Fault Refusal :=
  if s.hub.power.off then .next s.rotate
  else
    match s.turnOf exec with
    | .next t => .next t.rotate
    | o => o

/-- One step. -/
def step (s : State) : Host.Outcome State Fault Refusal :=
  match s.agenda with
  | d :: r => if d.cyc ≤ s.now then exec d.ev { s with agenda := r } else s.turnStep
  | [] => s.turnStep

/-- The words of a bundle that hold one slot word w: in position 0, the group running on through nops, or, with its stop
bit set, in position 3. -/
def placedWords (w : Nat) : List Nat :=
  if w / 2 ^ 31 % 2 = 0 then [w, 0x08000000, 0x08000000, 0x88000000] else [0x08000000, 0x08000000, 0x08000000, w]

/-- s with an instruction as the next group of the context in front, which runs in free mode with every capability
declared: what a launch has done by the time its first group issues. Nothing that is due comes before it. Log 16. -/
def State.withFetchWord (s : State) (_nbits w : Nat) : State :=
  let w := w % 2 ^ 32
  ({ s with agenda := s.agenda.filter fun d => decide (s.now < d.cyc), hub := { s.hub with power := { s.hub.power with off := false } } } :
    State).onCore fun c =>
    { c with
      switch := { c.switch with chooseAt := none }
      rest := c.rest.map fun x => { x with flow := { x.flow with stopAt := none, doomed := none } }
      ctx :=
        { c.ctx with
          st := .running
          cfg := { c.ctx.cfg with free := true, usem := 0xFFFFFFFF }
          istore := writeRun [] 0 ((placedWords w).flatMap (leBytes 4))
          flow := { Flow.reset with pos := if w / 2 ^ 31 % 2 = 0 then 0 else 3, nextAt := s.now, resumed := true } } }

end Sys2Proof.Machine
end

