-- ==== Sys2Proof/Safety.lean ====
section
/-! DEFINITION. A safe run, in the terms that claims use. -/

namespace Sys2Proof.Machine

/-- A step is safe when it answers a next state: no data race, nothing left without a meaning. -/
def Safe (s : State) : Prop := ∃ t, step s = .next t

/-- n steps from a state all answer a next state. -/
def SafeFor : Nat → State → Prop
  | 0, _ => True
  | n + 1, s => ∃ t, step s = .next t ∧ SafeFor n t

end Sys2Proof.Machine
end

