-- ==== Sys2Proof/Certificates/Slice0/Obligations.lean ====
section
/-! DEFINITION. Statements about the machine, for the provers. A slot's outcome is given as the state before it with what
the slot changes; what is not named is unchanged. -/

namespace Sys2Proof.Claim

open Sys2Proof Sys2Proof.Machine

/-- What a step or an instruction answers. -/
abbrev Out := Host.Outcome State Fault Refusal

/-- s with one more result in flight: it lands at s.now + L in a register of the context that issues. Nothing else differs. -/
def inFlight (s : State) (L : Nat) (r : Res) (tag : Tag) : State :=
  let l : Landing :=
    { core := s.core.phys, ctx := s.core.ctx.id, res := r, tag := tag, bay := s.core.ctx.bay.serial, seq := s.issueSeq, frame := none }
  { s with agenda := insertDue { cyc := s.now + L, phase := phReg, seq := s.issueSeq, ev := .registerResultLand l } s.agenda }

/-- A scalar result; s0 discards it (R76). -/
def scalarTo (s : State) (L : Nat) (d : Fin 64) (v : Word) (tag : Tag) : State := if d = 0 then s else inFlight s L (.s d.val v) tag

/-- A predicate result in the lanes of m; p0 discards it (R76). The name is resolved under rrb at issue (R67). -/
def predTo (s : State) (L : Nat) (d : Fin 32) (m v : LaneMask) (tag : Tag) : State :=
  if d = 0 then s else inFlight s L (.p (physOf s.core.ctx.regs.rrb d.val) m v) tag

/-- A vector result in the lanes of m. -/
def vectorTo (s : State) (L : Nat) (d : Fin 32) (m : LaneMask) (x : Lanes) (tag : Tag) : State :=
  inFlight s L (.v (physOf s.core.ctx.regs.rrb d.val) m x) tag

/-- An effect that waits for the end of the group. -/
def posted (s : State) (p : Post) : State :=
  { s with core := { s.core with ctx := { s.core.ctx with post := s.core.ctx.post ++ [p] } } }

/-- A 64-bit value taken to 32 bits, and a 32-bit result sign-extended (R93). -/
def low (v : Word) : BitVec 32 := v.setWidth 32
def ext (v : BitVec 32) : Word := v.signExtend 64

/-- Nothing but the agenda differs. -/
def OnlyAgenda (s t : State) : Prop := t = { s with agenda := t.agenda }

/-- The agenda of t holds an event due at a cycle. -/
def Coming (t : State) (cyc : Nat) (ev : Instr) : Prop := ∃ d ∈ t.agenda, d.cyc = cyc ∧ d.ev = ev

/-- A byte of memory. -/
def byteAt (s : State) (a : Nat) : Byte := readByte s.mem a

end Sys2Proof.Claim

open Sys2Proof Sys2Proof.Machine Sys2Proof.Claim

/-! ## Decoding -/

/-- Words written out from the encodings of R46 decode to the instructions they stand for. -/
def Obligations.WordsDecode : Prop :=
  decodeSlot 0x08208210 0 = .ok (.add { p := 0, neg := false } 1 1 2 false) ∧
  decodeSlot 0x10610220 0 = .ok (.fma { p := 0, neg := false } 0 .f32 4 1 2 .rn) ∧
  decodeSlot 0x0B628BE8 1 = .ok (.addi { p := 0, neg := false } 5 5 1000) ∧
  decodeSlot 0x2940C00E 0 = .ok (.loopi 0 24 3 true false) ∧
  decodeSlot 0xD0050000 0 = .ok (.send { p := 0, neg := false } 5 0) ∧
  decodeSlot 0xA8000003 0 = .ok (.br { p := 0, neg := false } 3)

/-- Decoding undoes encoding, for every well-formed instruction that has an encoding (R41, R46). -/
def Obligations.DecodeOfEncode : Prop :=
  ∀ (i : Instr) (w lend : Nat), i.wf = true → encode i = some (w, lend) → decodeSlot w lend = .ok i

/-- Encoding undoes decoding: what decodes is well formed, and every bit of its word but the stop bit, and every bit of
its lend word, is one that the encoding of the decoded instruction gives. No word has two readings, and no reserved field
is passed over (R43, R46). -/
def Obligations.EncodeOfDecode : Prop :=
  ∀ (w lend : Nat) (i : Instr), w < 2 ^ 32 → lend < 2 ^ 9 → decodeSlot w lend = .ok i →
    i.wf = true ∧ encode i = some (w % 2 ^ 31, lend)

/-! ## Results in flight -/

/-- The operations that start a result: it lands L cycles after its group issued, and nothing but the agenda differs; writes to
s0 and p0 are discarded (R76, R86). -/
def Sys2Proof.Claim.ResultsStart : Prop :=
  ∀ (s : State) (L : Nat) (tag : Tag),
    (∀ d v, s.landS L d v tag = scalarTo s L d v tag) ∧
    (∀ d m v, s.landP L d m v tag = predTo s L d m v tag) ∧
    (∀ (d : Fin 32) m x, s.landV L d.val m x tag = vectorTo s L d m x tag) ∧
    (∀ r, s.land L r tag = inFlight s L r tag) ∧
    (∀ r, OnlyAgenda s (inFlight s L r tag) ∧ ∃ d ∈ (inFlight s L r tag).agenda, d.cyc = s.now + L)

/-- A result that lands in a context that is not stopping writes its register and no other, and the register's tag, in that
context only; memory, the hub and every other core are unchanged (R87, R311). A result of a load from a frame on its way waits for
the move (R246). -/
def Sys2Proof.Claim.ResultsLand : Prop :=
  ∀ (s : State) (l : Landing), (s.core.phys = l.core ∧ s.core.ctx.id = l.ctx) → s.core.stopsNow s.now l.ctx = false →
    let lands : Out := .next (s.onCtx fun x => ({ x with dust := x.dust.eraseP fun d => d.land == l } : Ctx).putLanding l)
    (s.landingHeld l = false → exec (.registerResultLand l) s = lands ∧ exec (.dustSheetLand l) s = lands) ∧
    (s.landingHeld l = true → exec (.registerResultLand l) s = .next (s.scheduleAs (s.now + 1) phReg l.seq (.registerResultLand l)) ∧
      exec (.dustSheetLand l) s = .next (s.scheduleAs (s.now + 1) phReg l.seq (.dustSheetLand l)))

/-- What a landing writes: the scalar register it names; the lanes of a predicate or a vector register it names, the others
kept; an address register; a handle register. s0 and p0 keep their value. -/
def Sys2Proof.Claim.LandingWrites : Prop :=
  ∀ (r : Regs) (tag : Tag),
    (∀ (n : Fin 64) v, n ≠ 0 → (r.put (.s n.val v) tag).s = r.s.set n v ∧ (r.put (.s n.val v) tag).p = r.p ∧
      (r.put (.s n.val v) tag).v = r.v ∧ (r.put (.s n.val v) tag).a = r.a ∧ (r.put (.s n.val v) tag).h = r.h) ∧
    (∀ v, r.put (.s 0 v) tag = r) ∧ (∀ m v, r.put (.p 0 m v) tag = r) ∧
    (∀ (n : Fin 32) m v (l : Fin 128), n ≠ 0 →
      ((r.put (.p n.val m v) tag).p[n]).getLsbD l = if m.getLsbD l then v.getLsbD l else (r.p[n]).getLsbD l) ∧
    (∀ (n : Fin 32) m x (l : Fin 128),
      ((r.put (.v n.val m x) tag).v[n])[l] = if m.getLsbD l then x[l] else (r.v[n])[l]) ∧
    (∀ (n : Fin 16) v, (r.put (.a n.val v) tag).a = r.a.set n v) ∧
    (∀ (n : Fin 32) v, (r.put (.h n.val v) tag).h = r.h.set n v)

/-- Results in flight (R76, R86, R87, R89, R311): what starts one, what its landing does to a context, and what it leaves in the registers. Choices of the model that it rests on: logs 7 and 2. -/
def Obligations.ResultsInFlight : Prop := Claim.ResultsStart ∧ Claim.ResultsLand ∧ Claim.LandingWrites

/-- A squashed slot does nothing at all: no fault, no wait, no effect (R78). -/
def Sys2Proof.Claim.SquashedSlots : Prop :=
  ∀ (i : Instr) (s : State), squashed i s.core.ctx = true → exec i s = .next s

/-- A lane is active when its lane group is selected by the slot's group mask and its gate bit is true (R77). -/
def Sys2Proof.Claim.ActiveLanes : Prop :=
  ∀ (x : Ctx) (g : Gate) (m : Fin 8) (l : Nat), l < 128 →
    (x.active g m).getLsbD l = ((x.rgm m).getLsbD (l / 16) && ((x.rp g.p).getLsbD l != g.neg))

/-- What a predicate turns off (R77, R78, R119, R120): a squashed slot does nothing, and only active lanes take part in a vector slot. Choices of the model that it rests on: log 9. -/
def Obligations.SquashedAndActive : Prop := Claim.SquashedSlots ∧ Claim.ActiveLanes

/-! ## Scalar slots -/

/-- add, sub and the logic group (R93): the outcome at 64 bits, and at 32 bits, sign-extended, with .w; readable by the next
group. -/
def Obligations.ScalarAddLogic : Prop :=
  ∀ (s : State) (g : Gate) (d a b : Fin 64), s.core.ctx.gate0 g = true →
    let A := s.core.ctx.rs a
    let B := s.core.ctx.rs b
    let wr := fun (op : Nat) (v : Word) => (Host.Outcome.next (scalarTo s 1 d v (s.scalarTag op)) : Out)
    exec (.add g d a b false) s = wr 1 (A + B) ∧ exec (.add g d a b true) s = wr 1 (ext (low A + low B)) ∧
    exec (.sub g d a b false) s = wr 2 (A - B) ∧ exec (.sub g d a b true) s = wr 2 (ext (low A - low B)) ∧
    exec (.and g d a b false) s = wr 10 (A &&& B) ∧ exec (.and g d a b true) s = wr 10 (ext (low A &&& low B)) ∧
    exec (.or g d a b false) s = wr 11 (A ||| B) ∧ exec (.or g d a b true) s = wr 11 (ext (low A ||| low B)) ∧
    exec (.xor g d a b false) s = wr 12 (A ^^^ B) ∧ exec (.xor g d a b true) s = wr 12 (ext (low A ^^^ low B)) ∧
    exec (.andn g d a b false) s = wr 13 (A &&& ~~~B) ∧ exec (.andn g d a b true) s = wr 13 (ext (low A &&& ~~~(low B))) ∧
    exec (.mov g d a false) s = wr 26 A ∧ exec (.mov g d a true) s = wr 26 (ext (low A))

/-- Shifts, the rotate, the counts, minimum and maximum (R93): the shift count is B[5:0], or B[4:0] with .w. -/
def Sys2Proof.Claim.ScalarShiftOrder : Prop :=
  ∀ (s : State) (g : Gate) (d a b : Fin 64), s.core.ctx.gate0 g = true →
    let A := s.core.ctx.rs a
    let B := s.core.ctx.rs b
    let k := B.toNat % 64
    let j := B.toNat % 32
    let wr := fun (op : Nat) (v : Word) => (Host.Outcome.next (scalarTo s 1 d v (s.scalarTag op)) : Out)
    exec (.shl g d a b false) s = wr 14 (A <<< k) ∧ exec (.shl g d a b true) s = wr 14 (ext (low A <<< j)) ∧
    exec (.shr g d a b false) s = wr 15 (A >>> k) ∧ exec (.shr g d a b true) s = wr 15 (ext (low A >>> j)) ∧
    exec (.sar g d a b false) s = wr 16 (A.sshiftRight k) ∧ exec (.sar g d a b true) s = wr 16 (ext ((low A).sshiftRight j)) ∧
    exec (.rotl g d a b false) s = wr 17 (A.rotateLeft k) ∧ exec (.rotl g d a b true) s = wr 17 (ext ((low A).rotateLeft j)) ∧
    exec (.min g d a b false) s = wr 18 (if A.toInt < B.toInt then A else B) ∧
    exec (.max g d a b false) s = wr 19 (if A.toInt < B.toInt then B else A) ∧
    exec (.minn g d a b false) s = wr 20 (if A.toNat < B.toNat then A else B) ∧
    exec (.maxn g d a b false) s = wr 21 (if A.toNat < B.toNat then B else A) ∧
    exec (.min g d a b true) s = wr 18 (ext (if (low A).toInt < (low B).toInt then low A else low B)) ∧
    exec (.max g d a b true) s = wr 19 (ext (if (low A).toInt < (low B).toInt then low B else low A)) ∧
    exec (.minn g d a b true) s = wr 20 (ext (if (low A).toNat < (low B).toNat then low A else low B)) ∧
    exec (.maxn g d a b true) s = wr 21 (ext (if (low A).toNat < (low B).toNat then low B else low A))

/-- clz and popc (R93): the number of leading zero bits, 0 to N, and the number of one bits. -/
def Sys2Proof.Claim.ScalarCounts : Prop :=
  ∀ (s : State) (g : Gate) (d a : Fin 64), s.core.ctx.gate0 g = true →
    let A := s.core.ctx.rs a
    (∃ n : Nat, exec (.clz g d a false) s = .next (scalarTo s 1 d (BitVec.ofNat 64 n) (s.scalarTag 22)) ∧ n ≤ 64 ∧
      A.toNat < 2 ^ (64 - n) ∧ (n < 64 → 2 ^ (63 - n) ≤ A.toNat)) ∧
    (∃ n : Nat, exec (.clz g d a true) s = .next (scalarTo s 1 d (BitVec.ofNat 64 n) (s.scalarTag 22)) ∧ n ≤ 32 ∧
      (low A).toNat < 2 ^ (32 - n) ∧ (n < 32 → 2 ^ (31 - n) ≤ (low A).toNat)) ∧
    exec (.popc g d a false) s = .next (scalarTo s 1 d (BitVec.ofNat 64 ((List.range 64).countP fun k => A.getLsbD k)) (s.scalarTag 23)) ∧
    exec (.popc g d a true) s = .next (scalarTo s 1 d (BitVec.ofNat 64 ((List.range 32).countP fun k => A.getLsbD k)) (s.scalarTag 23))

/-- Shifts, order and counts of the scalar unit (R93). -/
def Obligations.ScalarShiftsAndCounts : Prop := Claim.ScalarShiftOrder ∧ Claim.ScalarCounts

/-- The multiplies (R93, R86): modulo 2^N, or bits 2N−1:N of the exact product; they need capability bit 26 and land after three
cycles. -/
def Sys2Proof.Claim.ScalarMultiply : Prop :=
  ∀ (s : State) (g : Gate) (d a b : Fin 64), s.core.ctx.gate0 g = true → s.capCheck (capBit 26) = .go →
    let A := s.core.ctx.rs a
    let B := s.core.ctx.rs b
    let wr := fun (op : Nat) (v : Word) => (Host.Outcome.next (scalarTo s 3 d v (s.scalarTag op)) : Out)
    exec (.mul g d a b false) s = wr 3 (A * B) ∧ exec (.mul g d a b true) s = wr 3 (ext (low A * low B)) ∧
    exec (.mulh g d a b false) s = wr 4 (BitVec.ofInt 64 (A.toInt * B.toInt / 2 ^ 64)) ∧
    exec (.mulh g d a b true) s = wr 4 (ext (BitVec.ofInt 32 ((low A).toInt * (low B).toInt / 2 ^ 32))) ∧
    exec (.mulhn g d a b false) s = wr 5 (BitVec.ofNat 64 (A.toNat * B.toNat / 2 ^ 64)) ∧
    exec (.mulhn g d a b true) s = wr 5 (ext (BitVec.ofNat 32 ((low A).toNat * (low B).toNat / 2 ^ 32)))

/-- Division truncates toward zero; remainders are A − B × quotient. A zero divisor gives all ones and A; the signed
overflow gives −2^(N−1) and 0. Neither faults (R93, R94). -/
def Sys2Proof.Claim.ScalarDivide : Prop :=
  ∀ (s : State) (g : Gate) (d a b : Fin 64), s.core.ctx.gate0 g = true → s.capCheck (capBit 26) = .go →
    let A := s.core.ctx.rs a
    let B := s.core.ctx.rs b
    let wr := fun (op : Nat) (v : Word) => (Host.Outcome.next (scalarTo s 18 d v (s.scalarTag op)) : Out)
    (B = 0 → exec (.div g d a b false) s = wr 6 (BitVec.allOnes 64) ∧ exec (.divn g d a b false) s = wr 7 (BitVec.allOnes 64) ∧
      exec (.rem g d a b false) s = wr 8 A ∧ exec (.remn g d a b false) s = wr 9 A) ∧
    (low B = 0 → exec (.div g d a b true) s = wr 6 (BitVec.allOnes 64) ∧ exec (.divn g d a b true) s = wr 7 (BitVec.allOnes 64) ∧
      exec (.rem g d a b true) s = wr 8 (ext (low A)) ∧ exec (.remn g d a b true) s = wr 9 (ext (low A))) ∧
    (B ≠ 0 → exec (.div g d a b false) s = wr 6 (BitVec.ofInt 64 (A.toInt.tdiv B.toInt)) ∧
      exec (.divn g d a b false) s = wr 7 (BitVec.ofNat 64 (A.toNat / B.toNat)) ∧
      exec (.rem g d a b false) s = wr 8 (BitVec.ofInt 64 (A.toInt - B.toInt * A.toInt.tdiv B.toInt)) ∧
      exec (.remn g d a b false) s = wr 9 (BitVec.ofNat 64 (A.toNat - B.toNat * (A.toNat / B.toNat)))) ∧
    (low B ≠ 0 → exec (.div g d a b true) s = wr 6 (ext (BitVec.ofInt 32 ((low A).toInt.tdiv (low B).toInt))) ∧
      exec (.divn g d a b true) s = wr 7 (ext (BitVec.ofNat 32 ((low A).toNat / (low B).toNat))) ∧
      exec (.rem g d a b true) s = wr 8 (ext (BitVec.ofInt 32 ((low A).toInt - (low B).toInt * (low A).toInt.tdiv (low B).toInt))) ∧
      exec (.remn g d a b true) s = wr 9 (ext (BitVec.ofNat 32 ((low A).toNat - (low B).toNat * ((low A).toNat / (low B).toNat))))) ∧
    (A = BitVec.intMin 64 → B = BitVec.allOnes 64 →
      exec (.div g d a b false) s = wr 6 A ∧ exec (.rem g d a b false) s = wr 8 0)

/-- The multiplier and the divider of the scalar unit (R86, R93, R94). -/
def Obligations.ScalarMultiplyDivide : Prop := Claim.ScalarMultiply ∧ Claim.ScalarDivide

/-- cmp and cmpi write their outcome into all 128 lanes of pd, and naming p0 discards it (R95). -/
def Sys2Proof.Claim.ScalarCompare : Prop :=
  ∀ (s : State) (g : Gate) (p : Fin 32) (a b : Fin 64) (i : BitVec 9), s.core.ctx.gate0 g = true →
    let A := s.core.ctx.rs a
    let wr := fun (op : Nat) (c : Bool) => (Host.Outcome.next (predTo s 1 p (BitVec.allOnes 128) (if c then BitVec.allOnes 128 else 0) (s.scalarTag op)) : Out)
    (∀ (i' : Cond → Instr) (B : Word) (op : Nat), (i' = (fun c => .cmp g p a b c) ∧ B = s.core.ctx.rs b ∧ op = 24) ∨
        (i' = (fun c => .cmpi g p a i c) ∧ B = i.signExtend 64 ∧ op = 34) →
      exec (i' .eq) s = wr op (decide (A = B)) ∧ exec (i' .ne) s = wr op (decide (A ≠ B)) ∧
      exec (i' .lt) s = wr op (decide (A.toInt < B.toInt)) ∧ exec (i' .le) s = wr op (decide (A.toInt ≤ B.toInt)) ∧
      exec (i' .gt) s = wr op (decide (B.toInt < A.toInt)) ∧ exec (i' .ge) s = wr op (decide (B.toInt ≤ A.toInt)) ∧
      exec (i' .ltn) s = wr op (decide (A.toNat < B.toNat)) ∧ exec (i' .len) s = wr op (decide (A.toNat ≤ B.toNat)))

/-- sel is never squashed: the lend word selects sa or sb (R96). -/
def Sys2Proof.Claim.ScalarSelect : Prop :=
  ∀ (s : State) (g : Gate) (d a b : Fin 64),
    exec (.sel g d a b) s =
      .next (scalarTo s 1 d (if ((s.core.ctx.rp g.p).getLsbD 0 != g.neg) then s.core.ctx.rs a else s.core.ctx.rs b) (s.scalarTag 25))

/-- Compares and the select of the scalar unit (R95, R96). -/
def Obligations.ScalarCompareSelect : Prop := Claim.ScalarCompare ∧ Claim.ScalarSelect

/-- The immediate forms, all at 64 bits (R97), and the constants of movi and movhi (R98). -/
def Sys2Proof.Claim.ScalarImmediate : Prop :=
  ∀ (s : State) (g : Gate) (d a : Fin 64) (i : BitVec 12) (c : BitVec 18), s.core.ctx.gate0 g = true →
    let A := s.core.ctx.rs a
    let wr := fun (op : Nat) (v : Word) => (Host.Outcome.next (scalarTo s 1 d v (s.scalarTag op)) : Out)
    exec (.addi g d a i) s = wr 27 (A + i.signExtend 64) ∧ exec (.andi g d a i) s = wr 28 (A &&& i.setWidth 64) ∧
    exec (.ori g d a i) s = wr 29 (A ||| i.setWidth 64) ∧ exec (.xori g d a i) s = wr 30 (A ^^^ i.setWidth 64) ∧
    (i.toNat ≤ 63 → exec (.shli g d a i) s = wr 31 (A <<< i.toNat) ∧ exec (.shri g d a i) s = wr 32 (A >>> i.toNat) ∧
      exec (.sari g d a i) s = wr 33 (A.sshiftRight i.toNat)) ∧
    exec (.movi g d c) s = wr 35 (c.signExtend 64) ∧
    (∃ v : Word, exec (.movhi g d c) s = wr 36 v ∧ ∀ k : Fin 64,
      v.getLsbD k = if k.val / 16 = c.toNat / 2 ^ 16 then c.getLsbD (k.val % 16) else (s.core.ctx.rs d).getLsbD k)

/-- amk and aadd write an address register, readable by the next group (R81, R82). -/
def Sys2Proof.Claim.ScalarAddress : Prop :=
  ∀ (s : State) (g : Gate) (d a : Fin 16) (sp : Fin 8) (l : BitVec 13) (x y : Fin 64) (i : BitVec 15), s.core.ctx.gate0 g = true →
    let A := s.core.ctx.ra a
    let wr := fun (v : AddrReg) => (Host.Outcome.next (inFlight s 1 (.a d.val v) 0) : Out)
    exec (.amkLocation g d sp l) s = wr (amkAt sp l) ∧
    exec (.amkRegister g d sp x y) s = wr { space := BitVec.ofNat 3 sp.val, offset := (s.core.ctx.rs x).setWidth 32
                                            index := if 4 ≤ sp.val then (s.core.ctx.rs y).setWidth 10 else 0 } ∧
    exec (.aaddImm g d a i) s = wr { space := A.space, index := A.index, offset := A.offset + i.signExtend 32 } ∧
    exec (.aaddReg g d a x) s = wr { space := A.space, index := A.index, offset := A.offset + (s.core.ctx.rs x).setWidth 32 }

/-- Immediate forms, constants and address registers (R81, R82, R97, R98). -/
def Obligations.ScalarImmediateAddress : Prop := Claim.ScalarImmediate ∧ Claim.ScalarAddress

/-- rds reads a special register as it stands at its issue cycle; wrs and gmset give their value to the end of the group, and a
wrs of a register that may not be written traps with SREG_PERMISSION (R79, R84); staging words (R85). Choices of the model that it rests on: log 9. -/
def Obligations.ScalarSpecial : Prop :=
  ∀ (s : State) (g : Gate) (d a : Fin 64) (r : BitVec 12) (e : StgId) (m : Fin 8) (v : BitVec 8), s.core.ctx.gate0 g = true →
    exec (.rds g d r) s = .next (scalarTo s 1 d (s.special r.toNat) (s.scalarTag 37)) ∧
    (sregWritable r.toNat = true → r.toNat ≠ 0x14 → exec (.wrs g a r) s = .next (posted s (.sreg r.toNat (s.core.ctx.rs a)))) ∧
    (r.toNat = 0x14 → exec (.wrs g a r) s = .next (inFlight s 1 (.skim (BitVec.allOnes 64) (s.core.ctx.rs a)) 0)) ∧
    (sregWritable r.toNat = false → r.toNat ≠ 0x18 → exec (.wrs g a r) s = .next (s.takeTrap (s.fault 0x0203 0 0 0))) ∧
    (r.toNat = 0x18 → s.finjCheck (s.core.ctx.rs a) = .go → exec (.wrs g a r) s = .next (posted s (.finj (s.core.ctx.rs a)))) ∧
    exec (.stgw g a e) s = .next (posted s (.stg e (s.core.ctx.rs a))) ∧
    exec (.stgr g d e) s = .next (scalarTo s 1 d (s.core.ctx.staged e.eng.val e.set.val e.word.val) (s.scalarTag 40)) ∧
    (m ≠ 0 → exec (.gmsetReg g m a) s = .next (posted s (.gm m.val ((s.core.ctx.rs a).setWidth 8))) ∧
      exec (.gmsetImm g m v) s = .next (posted s (.gm m.val v))) ∧
    exec (.gmsetReg g 0 a) s = .next s ∧ exec (.gmsetImm g 0 v) s = .next s ∧ exec (.nop g) s = .next s

/-! ## Vector slots -/

namespace Sys2Proof.Claim

open Sys2Proof Sys2Proof.Machine

/-- A vector-type slot executes: some lane is active (R78), and the capability bits it needs are declared and in service (R20). -/
def VectorRuns (s : State) (g : Gate) (m : Fin 8) (cap : W32) : Prop :=
  s.core.ctx.active g m ≠ 0 ∧ s.capCheck (cap ||| laneNeed (s.core.ctx.rgm m)) = .go

/-- A vector result in the active lanes, with the tag of its operation. -/
def vectorOut (s : State) (g : Gate) (m : Fin 8) (L : Nat) (d : Fin 32) (op fmt : Nat) (f : Nat → W32) : Out :=
  .next (vectorTo s L d (s.core.ctx.active g m) (lanesOf f) (s.vecTag op fmt))

/-- A predicate result in the active lanes. -/
def maskOut (s : State) (g : Gate) (m : Fin 8) (L : Nat) (p : Fin 32) (op fmt : Nat) (f : Nat → Bool) : Out :=
  .next (predTo s L p (s.core.ctx.active g m) (maskOf f) (s.vecTag op fmt))

end Sys2Proof.Claim

/-- The floating-point arithmetic slots: each lane is the exact result of its sources, rounded once in the slot's mode (R105, R124);
four cycles, and two more where R86 adds them. -/
def Sys2Proof.Claim.VectorFloat : Prop :=
  ∀ (s : State) (g : Gate) (m : Fin 8) (f : FFmt) (d a b : Fin 32) (r : Rnd), VectorRuns s g m (FFmt.cap f) →
    let x := s.core.ctx
    let F := FFmt.fmt f
    let am := x.active g m
    let V := fun (n : Fin 32) (l : Nat) => F.val x.flushes (lane (x.rv n.val) l)
    let wr := fun (op : Nat) (srcs : List Lanes) (v : Nat → Sys2Proof.Machine.Num) =>
      let out := fun (l : Nat) => F.out x.flushes r (v l)
      vectorOut s g m (4 + subExtra x am F (lanesOf out :: srcs)) d op f.code out
    exec (.fadd g m f d a b r) s = wr 0 [x.rv a.val, x.rv b.val] (fun l => Sys2Proof.Machine.Num.add r (V a l) (V b l)) ∧
    exec (.fsub g m f d a b r) s = wr 1 [x.rv a.val, x.rv b.val] (fun l => Sys2Proof.Machine.Num.add r (V a l) (V b l).neg) ∧
    exec (.fmul g m f d a b r) s = wr 2 [x.rv a.val, x.rv b.val] (fun l => Sys2Proof.Machine.Num.mul (V a l) (V b l)) ∧
    exec (.fma g m f d a b r) s = wr 3 [x.rv d.val, x.rv a.val, x.rv b.val] (fun l => Sys2Proof.Machine.Num.add r (Sys2Proof.Machine.Num.mul (V a l) (V b l)) (V d l)) ∧
    exec (.fms g m f d a b r) s = wr 4 [x.rv d.val, x.rv a.val, x.rv b.val] (fun l => Sys2Proof.Machine.Num.add r (Sys2Proof.Machine.Num.mul (V a l) (V b l)) (V d l).neg) ∧
    exec (.fnma g m f d a b r) s = wr 5 [x.rv d.val, x.rv a.val, x.rv b.val] (fun l => Sys2Proof.Machine.Num.add r (Sys2Proof.Machine.Num.mul (V a l) (V b l)).neg (V d l))

/-- fmin, fmax, fneg, fabs, fcmp and fclass (R125 to R128). -/
def Sys2Proof.Claim.VectorFloatOrder : Prop :=
  ∀ (s : State) (g : Gate) (m : Fin 8) (f : FFmt) (d a b p : Fin 32) (c : FCond) (k : BitVec 5), VectorRuns s g m (FFmt.cap f) →
    let x := s.core.ctx
    let F := FFmt.fmt f
    let am := x.active g m
    let W := fun (n : Fin 32) (l : Nat) => F.flush x.flushes (lane (x.rv n.val) l).toNat
    let wr := fun (op : Nat) (srcs : List Lanes) (out : Nat → W32) =>
      vectorOut s g m (4 + subExtra x am F (lanesOf out :: srcs)) d op f.code out
    exec (.fmin g m f d a b) s = wr 6 [x.rv a.val, x.rv b.val] (fun l => BitVec.ofNat 32 (F.minPat (W a l) (W b l))) ∧
    exec (.fmax g m f d a b) s = wr 7 [x.rv a.val, x.rv b.val] (fun l => BitVec.ofNat 32 (F.maxPat (W a l) (W b l))) ∧
    exec (.fneg g m f d a) s = wr 8 [x.rv a.val] (fun l => BitVec.ofNat 32 (W a l ^^^ F.sign true 0)) ∧
    exec (.fabs g m f d a) s = wr 9 [x.rv a.val] (fun l => BitVec.ofNat 32 (W a l % F.sign true 0)) ∧
    exec (.fcmp g m f p a b c) s = maskOut s g m (4 + subExtra x am F [x.rv a.val, x.rv b.val]) p 10 f.code
      (fun l => FCond.holds c (F.val x.flushes (lane (x.rv a.val) l)) (F.val x.flushes (lane (x.rv b.val) l))) ∧
    exec (.fclass g m f p a k) s = maskOut s g m (2 + subExtra x am F [x.rv a.val]) p 11 f.code
      (fun l => k &&& F.classOf (W a l) != 0)

/-- Floating-point arithmetic, comparison and order of the vector pipe. -/
def Obligations.VectorFloatArithmetic : Prop := Claim.VectorFloat ∧ Claim.VectorFloatOrder

/-- The special functions: correctly rounded to nearest even, twelve cycles, sixteen for fdiv; each has a capability bit of its own
(R20, R86, R109, R141). -/
def Obligations.SpecialFunctions : Prop :=
  ∀ (s : State) (g : Gate) (m : Fin 8) (f : FFmt) (d a b : Fin 32),
    let x := s.core.ctx
    let F := FFmt.fmt f
    let V := fun (n : Fin 32) (l : Nat) => F.val x.flushes (lane (x.rv n.val) l)
    let wr := fun (op L : Nat) (v : Nat → Sys2Proof.Machine.Num) =>
      (Host.Outcome.next (vectorTo s L d (x.active g m) (lanesOf fun l => F.out x.flushes .rn (v l)) (mkTag 3 0 op f.code)) : Out)
    (VectorRuns s g m (capBit 20) → exec (.frcp g m f d a) s = wr 0 12 (fun l => Sys2Proof.Machine.Num.div (.fin false 1 0) (V a l))) ∧
    (VectorRuns s g m (capBit 21) → exec (.fdiv g m f d a b) s = wr 1 16 (fun l => Sys2Proof.Machine.Num.div (V a l) (V b l))) ∧
    (VectorRuns s g m (capBit 22) → exec (.fsqrt g m f d a) s = wr 2 12 (fun l => (V a l).sqrt)) ∧
    (VectorRuns s g m (capBit 23) → exec (.frsqrt g m f d a) s = wr 3 12 (fun l => (V a l).rsqrt)) ∧
    (VectorRuns s g m (capBit 24) → exec (.fexp2 g m f d a) s = wr 4 12 (fun l => (V a l).exp2)) ∧
    (VectorRuns s g m (capBit 25) → exec (.flog2 g m f d a) s = wr 5 12 (fun l => (V a l).log2))

/-- The integer slots: sums and differences modulo 2^32 or clamped to the format, products, their high halves, logic, shifts by
the low five bits, minimum, maximum and compares by the format's order (R129 to R132). -/
def Obligations.VectorInteger : Prop :=
  ∀ (s : State) (g : Gate) (m : Fin 8) (f : IFmt) (d a b p : Fin 32) (sat : Bool) (i : BitVec 5), VectorRuns s g m (capBit 18) →
    let x := s.core.ctx
    let A := fun (l : Nat) => lane (x.rv a.val) l
    let B := fun (l : Nat) => lane (x.rv b.val) l
    let wr := fun (op L : Nat) (out : Nat → W32) => vectorOut s g m L d op f.code out
    exec (.iadd g m f d a b false) s = wr 12 2 (fun l => A l + B l) ∧
    exec (.isub g m f d a b false) s = wr 13 2 (fun l => A l - B l) ∧
    exec (.iadd g m f d a b sat) s = wr 12 2 (fun l => satOr f sat (ifmtVal f (A l) + ifmtVal f (B l))) ∧
    exec (.isub g m f d a b sat) s = wr 13 2 (fun l => satOr f sat (ifmtVal f (A l) - ifmtVal f (B l))) ∧
    exec (.imul g m f d a b) s = wr 14 3 (fun l => A l * B l) ∧
    exec (.imulh g m f d a b) s = wr 15 3 (fun l => BitVec.ofInt 32 (ifmtVal f (A l) * ifmtVal f (B l) / 2 ^ 32)) ∧
    exec (.iand g m f d a b) s = wr 16 2 (fun l => A l &&& B l) ∧ exec (.ior g m f d a b) s = wr 17 2 (fun l => A l ||| B l) ∧
    exec (.ixor g m f d a b) s = wr 18 2 (fun l => A l ^^^ B l) ∧ exec (.iandn g m f d a b) s = wr 19 2 (fun l => A l &&& ~~~(B l)) ∧
    exec (.ishl g m f d a b) s = wr 20 2 (fun l => A l <<< ((B l).toNat % 32)) ∧ exec (.ishlImm g m f d a i) s = wr 20 2 (fun l => A l <<< i.toNat) ∧
    exec (.ishr g m f d a b) s = wr 21 2 (fun l => A l >>> ((B l).toNat % 32)) ∧ exec (.ishrImm g m f d a i) s = wr 21 2 (fun l => A l >>> i.toNat) ∧
    exec (.isar g m f d a b) s = wr 22 2 (fun l => (A l).sshiftRight ((B l).toNat % 32)) ∧
    exec (.isarImm g m f d a i) s = wr 22 2 (fun l => (A l).sshiftRight i.toNat) ∧
    exec (.imin g m f d a b) s = wr 23 2 (fun l => if ifmtVal f (B l) < ifmtVal f (A l) then B l else A l) ∧
    exec (.imax g m f d a b) s = wr 24 2 (fun l => if ifmtVal f (A l) < ifmtVal f (B l) then B l else A l) ∧
    exec (.icmp g m f p a b .eq) s = maskOut s g m 2 p 25 f.code (fun l => decide (A l = B l)) ∧
    exec (.icmp g m f p a b .ne) s = maskOut s g m 2 p 25 f.code (fun l => decide (A l ≠ B l)) ∧
    exec (.icmp g m f p a b .lt) s = maskOut s g m 2 p 25 f.code (fun l => decide (ifmtVal f (A l) < ifmtVal f (B l))) ∧
    exec (.icmp g m f p a b .le) s = maskOut s g m 2 p 25 f.code (fun l => decide (ifmtVal f (A l) ≤ ifmtVal f (B l))) ∧
    exec (.icmp g m f p a b .gt) s = maskOut s g m 2 p 25 f.code (fun l => decide (ifmtVal f (B l) < ifmtVal f (A l))) ∧
    exec (.icmp g m f p a b .ge) s = maskOut s g m 2 p 25 f.code (fun l => decide (ifmtVal f (B l) ≤ ifmtVal f (A l)))

/-- The slots that move lanes: copies, the selection of vsel, broadcasts, permutations within a lane group, the exchange between
lane groups, immediates (R123, R133, R135). -/
def Obligations.VectorMoves : Prop :=
  ∀ (s : State) (g : Gate) (m : Fin 8) (d a b : Fin 32) (x : Fin 64) (k : Fin 16) (q : Fin 8) (hi : Bool) (i : BitVec 14),
    (VectorRuns s g m 0 →
      let c := s.core.ctx
      exec (.vmov g m d a) s = vectorOut s g m 2 d 26 0 (fun l => lane (c.rv a.val) l) ∧
      exec (.vbcast g m d x hi) s = vectorOut s g m 2 d 28 0 (fun _ => if hi then (c.rs x >>> 32).setWidth 32 else (c.rs x).setWidth 32) ∧
      exec (.vlane g m d a k) s = vectorOut s g m 4 d 29 0 (fun l => lane (c.rv a.val) (l / 16 * 16 + k.val)) ∧
      exec (.vidx g m d) s = vectorOut s g m 2 d 30 0 (fun l => BitVec.ofNat 32 l) ∧
      exec (.vperm g m d a b) s = vectorOut s g m 4 d 31 0 (fun l => lane (c.rv a.val) (l / 16 * 16 + (lane (c.rv b.val) l).toNat % 16)) ∧
      exec (.vimm g m hi d i) s = vectorOut s g m 2 d 42 hi.toNat (fun _ => if hi then (i.setWidth 32) <<< 18 else i.signExtend 32)) ∧
    (VectorRuns s g m (capBit (8 + q.val)) →
      exec (.xg g m d a q) s = vectorOut s g m 4 d 33 0 (fun l => lane (s.core.ctx.rv a.val) (16 * q.val + l % 16))) ∧
    (groupLanes (s.core.ctx.rgm m) ≠ 0 → s.capCheck (laneNeed (s.core.ctx.rgm m)) = .go →
      exec (.vsel g m d a b) s = .next (vectorTo s 2 d (groupLanes (s.core.ctx.rgm m))
        (mergeLanes (s.core.ctx.gateLanes g) (s.core.ctx.rv a.val) (s.core.ctx.rv b.val)) (s.vecTag 27 0)))

/-- Conversions, packing, unpacking (R136 to R138); a stochastic conversion takes one draw for each active lane (R302). -/
def Sys2Proof.Claim.VectorConvert : Prop :=
  ∀ (s : State) (g : Gate) (m : Fin 8) (dt st : CvtTy) (d a : Fin 32) (sat sr : Bool) (r : Rnd) (w : PackW) (k : Fin 8) (sx : Bool),
    VectorRuns s g m (capBit 19) →
    let x := s.core.ctx
    let am := x.active g m
    let A := fun (l : Nat) => lane (x.rv a.val) l
    let P := fun (l : Nat) => lane (x.rv (a.val + 1)) l
    let K := fun (l : Nat) => if sr then drawAt s am l else 0
    let wr := fun (op : Nat) (sub : Nat → W32 → Bool) (out : Nat → W32) =>
      let t := vectorTo s (3 + (if x.interlocked && anyLane am (fun l => sub l (lane (lanesOf out) l)) then 2 else 0)) d am (lanesOf out) (s.vecTag op 0)
      (Host.Outcome.next (if sr then t.drew am else t) : Out)
    exec (.cvt g m dt st d a sat sr r) s = wr 34 (fun l v => cvtSub st (A l) || cvtSub dt v) (fun l => cvtLane dt st sat sr r x.flushes (K l) (A l)) ∧
    exec (.qnt g m dt st d a sat sr r) s = wr 35 (fun l _ => cvtSub st (A l) || cvtSub .f16 (P l)) (fun l => qntLane dt sr r x.flushes (K l) (A l) (P l)) ∧
    exec (.dqnt g m dt st d a sat sr r) s = wr 36 (fun l v => cvtSub .f16 (P l) || cvtSub dt v) (fun l => dqntLane sr r x.flushes (K l) (A l) (P l)) ∧
    exec (.pack g m w d a k) s = vectorOut s g m 3 d 37 w.code (fun l =>
      (lane (x.rv d.val) l &&& ~~~(BitVec.ofNat 32 (2 ^ packBits w - 1) <<< (packBits w * k.val))) |||
        ((A l &&& BitVec.ofNat 32 (2 ^ packBits w - 1)) <<< (packBits w * k.val))) ∧
    exec (.unpack g m w d a k sx) s = vectorOut s g m 3 d 38 w.code (fun l =>
      let e := (A l).toNat / 2 ^ (packBits w * k.val) % 2 ^ packBits w
      if sx then BitVec.ofInt 32 (sintOf (packBits w) e) else BitVec.ofNat 32 e)

/-- Reductions within lane groups (R134), the skim vector (R139) and the random draws of vbern and vrand, which are free
values: whatever bits the generator gives (R302, R303). -/
def Sys2Proof.Claim.VectorReduceDraw : Prop :=
  ∀ (s : State) (g : Gate) (m : Fin 8) (o : RedOp) (d a p : Fin 32) (x : Fin 64),
    (VectorRuns s g m (match redFloat o with | some f => FFmt.cap f | none => capBit 18) →
      ∃ e, (e = 0 ∨ e = 2) ∧ (redFloat o = none → e = 0) ∧
        exec (.vred g m o d a) s = vectorOut s g m (6 + e) d 32 o.fmtCode (fun l =>
          if l < 128 then redGroup o s.core.ctx.flushes (s.core.ctx.active g m) (s.core.ctx.rv a.val) (l / 16) else 0)) ∧
    (VectorRuns s g m 0 →
      let am := s.core.ctx.active g m
      (am.setWidth 64 ≠ 0 → exec (.vskim g m p) s = .next (inFlight s 2 (.skim (am.setWidth 64) ((s.core.ctx.rp p).setWidth 64)) 0)) ∧
      (am.setWidth 64 = 0 → exec (.vskim g m p) s = .next s) ∧
      (∃ t, exec (.vrand g m d) s = .next t ∧ t.draws = s.draws + popCount 128 am.toNat ∧
        { t with draws := s.draws } = vectorTo s 2 d am (lanesOf fun l => drawAt s am l) (s.vecTag 41 0)) ∧
      (∃ t, exec (.vbern g m p x) s = .next t ∧ t.draws = s.draws + popCount 128 am.toNat ∧
        { t with draws := s.draws } = predTo s 2 p am (maskOf fun l => decide ((drawAt s am l).toNat % 65536 < min (s.core.ctx.rs x).toNat 65536)) (s.vecTag 40 0)))

/-- Conversions, reductions and the draws of the mask generator. Choices of the model that it rests on: logs 6, 48 and 56. -/
def Obligations.VectorConvertReduceDraw : Prop := Claim.VectorConvert ∧ Claim.VectorReduceDraw

/-! ## Memory slots -/

/-- The scalar loads (R156, R159): a little-endian doubleword, five cycles from the scratchpads; from GDDR after the cycles of R159,
as a result that the model marks with its frame. A load writes no memory. -/
def Sys2Proof.Claim.ScalarLoads : Prop :=
  ∀ (s : State) (g : Gate) (d : Fin 64) (n : Fin 16) (o : BitVec 12) (ac : Fin 8), s.core.ctx.gate0 g = true → d ≠ 0 →
    let a := s.core.ctx.ra n
    let ea := effOff a o.toInt 8
    (s.memCheck false [0, 1] 8 a [(ea, 8)] [] (some ac.val) = .go → a.space ≠ 1 →
      exec (.lds g d n o ac) s = .next (scalarTo s 5 d (s.loadWord a.space.toNat a.index.toNat ea.toNat) 0)) ∧
    (s.memCheck false [0, 1] 8 a [(ea, 8)] [] (some ac.val) = .go → a.space = 1 → s.core.ctx.spillErr = [] →
      ∃ t, exec (.lds g d n o ac) s = .next t ∧ t.agenda = (scalarTo s 5 d (s.loadWord 1 a.index.toNat ea.toNat) 0).agenda ∧ t.mem = s.mem) ∧
    (s.memCheck false [4] 8 a [(ea, 8)] [] (some ac.val) = .go → a.space ≠ 1 →
      ∃ (t : State) (l : Landing), exec (.ldh g d n o ac) s = .next t ∧ OnlyAgenda s t ∧ l.res = .s d.val (s.loadWord a.space.toNat a.index.toNat ea.toNat) ∧
        l.core = s.core.phys ∧ l.ctx = s.core.ctx.id ∧
        t.agenda = insertDue ⟨s.now + s.gddrLatency (handleFrame (s.core.ctx.handle a.index.toNat)), phReg, s.issueSeq, .registerResultLand l⟩ s.agenda)

/-- The scalar stores (R156, R148, R159): the eight bytes of sd go to the gate buffer, and of space 1 to spill memory, as one
group-end effect; no byte of memory changes before the commit performs. -/
def Sys2Proof.Claim.ScalarStores : Prop :=
  ∀ (s : State) (g : Gate) (d : Fin 64) (n : Fin 16) (o : BitVec 12) (ac : Fin 8), s.core.ctx.gate0 g = true →
    let a := s.core.ctx.ra n
    let ea := effOff a o.toInt 8
    let cells := s.cellsOf a.space.toNat a.index.toNat ea.toNat 8 (s.core.ctx.rs d).toNat
    let t := posted s (if a.space.toNat = 1 then .spill cells else .gate cells (s.notesOf (s.keyOf a.space.toNat a.index.toNat) cells))
    (s.memCheck true [0, 1] 8 a [(ea, 8)] cells (some ac.val) = .go → exec (.sts g d n o ac) s = .next t) ∧
    (s.memCheck true [4] 8 a [(ea, 8)] cells (some ac.val) = .go → exec (.sth g d n o ac) s = .next t) ∧
    (∀ b, byteAt t b = byteAt s b)

/-- Scalar loads and stores, in a timetable and in a free context. Choices of the model that it rests on: logs 9 and 17. -/
def Obligations.ScalarMemory : Prop := Claim.ScalarLoads ∧ Claim.ScalarStores

/-- The vector loads: lane l of register vd + i is the word at run offset 4 (l mod 16) of its lane group; the registers of ldvq
land together after seven cycles (R156, R89, R120). -/
def Sys2Proof.Claim.VectorLoads : Prop :=
  ∀ (s : State) (g : Gate) (m : Fin 8) (d v : Fin 32) (n : Fin 16) (o : BitVec 9) (ac : Fin 8), VectorRuns s g m 0 →
    let x := s.core.ctx
    let a := x.ra n
    let am := x.active g m
    let word := fun (ea : Int) (q i l : Nat) => s.loadLane a.space.toNat a.index.toNat (laneOff (ea.toNat + 64 * i) (64 * q) l)
    (a.space ≠ 1 → s.memCheck false [0, 1] 64 a (groupPieces (x.rgm m) (effOff a o.toInt 64) 64) [] (some ac.val) = .go →
      exec (.ldv g m d n o ac) s = .next (vectorTo s 6 d am (lanesOf (word (effOff a o.toInt 64) 1 0)) 0)) ∧
    (a.space ≠ 1 → s.memCheck false [0, 1] 64 a (groupPieces (x.rgm m) (effOff a o.toInt 256) 256) [] (some ac.val) = .go →
      exec (.ldvq g m d n o ac) s = .next ((List.range 4).foldl (fun t i => t.landV 7 (d.val + i) am
        (lanesOf (word (effOff a o.toInt 256) 4 i)) 0) s)) ∧
    (s.memCheck false [0] 4 a (lanePieces (x.rgm m) a (x.rv v.val)) [] (some ac.val) = .go →
      exec (.ldx g m d n v ac) s = .next (vectorTo s 10 d am (lanesOf fun l =>
        if am.getLsbD l then s.loadLane 0 0 (a.offset.toNat + (lane (x.rv v.val) l).toNat) else 0) 0))

/-- The vector stores: the words of active lanes only, at the addresses the loads read (R156); gated, so that no byte of memory
changes before the commit performs. -/
def Sys2Proof.Claim.VectorStores : Prop :=
  ∀ (s : State) (g : Gate) (m : Fin 8) (d v : Fin 32) (n : Fin 16) (o : BitVec 9) (ac : Fin 8), VectorRuns s g m 0 →
    let x := s.core.ctx
    let a := x.ra n
    let am := x.active g m
    let cells := fun (q : Nat) => (List.range q).flatMap fun i =>
      s.laneCells a.space.toNat a.index.toNat am (laneOff ((effOff a o.toInt (64 * q)).toNat + 64 * i) (64 * q)) (x.rv (d.val + i))
    let xs := s.laneCells 0 0 am (fun l => a.offset.toNat + (lane (x.rv v.val) l).toNat) (x.rv d.val)
    let wr := fun (cs : List Host.Cell) => posted s (if a.space.toNat = 1 then .spill cs else .gate cs (s.notesOf (s.keyOf a.space.toNat a.index.toNat) cs))
    (s.memCheck true [0, 1] 64 a (groupPieces (x.rgm m) (effOff a o.toInt 64) 64) (cells 1) (some ac.val) = .go →
      exec (.stv g m d n o ac) s = .next (wr (cells 1))) ∧
    (s.memCheck true [0, 1] 64 a (groupPieces (x.rgm m) (effOff a o.toInt 256) 256) (cells 4) (some ac.val) = .go →
      exec (.stvq g m d n o ac) s = .next (wr (cells 4))) ∧
    (s.memCheck true [0] 4 a (lanePieces (x.rgm m) a (x.rv v.val)) xs (some ac.val) = .go →
      exec (.stx g m d n v ac) s = .next (posted s (.gate xs (s.notesOf none xs)))) ∧
    (∀ cs b, byteAt (wr cs) b = byteAt s b)

/-- Vector loads and stores of every stride form. Choices of the model that it rests on: log 9. -/
def Obligations.VectorMemory : Prop := Claim.VectorLoads ∧ Claim.VectorStores

/-- When gated bytes perform: the commit's event writes exactly its cells, and every other byte of memory reads as before (R148, R149).
Bytes of a frame that moves wait for the next cycle (R246); over the source of a link command under way, or over a chunk of an armed
destination whose flag is to come, they are a data race (R272, R281). -/
def Sys2Proof.Claim.GatedBytesPerform : Prop :=
  ∀ (s : State) (c : Commit),
    let held := c.bytes.filter fun x => s.heldByMove [x.1]
    let due := c.bytes.filter fun x => !s.heldByMove [x.1]
    let race := s.sourceRace 2 (due.map fun x => (x.1, 1)) || due.any fun x => s.chunkRace x.1 1 == .race
    (race = false → ∃ t, exec (.gatedCommitPerform c) s = .next t ∧
      (∀ a, (∀ x ∈ due, x.1 ≠ a) → byteAt t a = byteAt s a) ∧
      (∀ pre a v post, due = pre ++ (a, v) :: post → (∀ x ∈ post, x.1 ≠ a) → byteAt t a = v) ∧
      (held ≠ [] → Coming t (s.now + 1) (.gatedCommitPerform { c with bytes := held }))) ∧
    (race = true → exec (.gatedCommitPerform c) s = .fault .dataRace)

/-- Spill memory (R157), handles (R238) and the wait for acknowledgements of drain (R258). -/
def Sys2Proof.Claim.SpillHandlesDrain : Prop :=
  ∀ (s : State) (g : Gate) (m : Fin 8) (d : Fin 64) (v : Fin 32) (l : BitVec 11) (h : Fin 32),
    (s.core.ctx.gate0 g = true →
      (s.core.ctx.spillErr = [] →
        ∃ t, exec (.ldsp g d l) s = .next t ∧ t.agenda = (scalarTo s 1 d (s.loadWord 1 0 (8 * l.toNat)) 0).agenda ∧
          t.mem = s.mem ∧ t.core.ctx = s.core.ctx ∧ t.others = s.others ∧ t.hub = s.hub) ∧
      exec (.stsp g d l) s = .next (posted s (.spill (cellsAt (8 * l.toNat) (leBytes 8 (s.core.ctx.rs d).toNat)))) ∧
      exec (.hinv g h) s = .next (inFlight s 1 (.h h.val (s.core.ctx.handle h.val &&& ~~~1#64)) 0) ∧
      (let a := (s.core.ctx.rs d).toNat
       let vpn := a / 2 ^ 21 % 2 ^ 18
       exec (.xlat g h d) s = .next (inFlight s 24 (.h h.val (if a / 2 ^ 39 = 0 then handleFor ((s.partAt s.core.partNo).xlatEntry vpn) vpn else 0)) 0)) ∧
      (s.core.ctx.acks = [] → exec (.drain g) s = .next s) ∧
      (s.core.ctx.acks ≠ [] → exec (.drain g) s = .next (s.withhold { cause := 8, blocks := true }))) ∧
    (VectorRuns s g m 0 →
      let x := s.core.ctx
      let am := x.active g m
      (x.spillErr = [] →
        ∃ t, exec (.ldvsp g m v l) s = .next t ∧ t.mem = s.mem ∧ t.core.ctx = s.core.ctx ∧
          t.agenda = (vectorTo s 1 v am (lanesOf fun i => s.loadLane 1 0 (laneOff (8 * l.toNat) 64 i)) 0).agenda) ∧
      exec (.stvsp g m v l) s = .next (posted s (.spill (s.laneCells 1 0 am (laneOff (8 * l.toNat) 64) (x.rv v.val)))))

/-- Gated bytes at their commit, and the slots of spill memory, handles and the drain. Choices of the model that it rests on: logs 9, 12, 17, 19, 44 and 59. -/
def Obligations.GatedSpillHandles : Prop := Claim.GatedBytesPerform ∧ Claim.SpillHandlesDrain

/-! ## Branch slots -/

/-- Transfers (R62 to R65, R69): the predicate must be uniform; a taken one has two delay groups, a not-taken one does nothing, one
that is not uniform traps. Choices of the model that it rests on: log 9. -/
def Obligations.Transfers : Prop :=
  ∀ (s : State) (g : Gate) (d : BitVec 25) (a : Fin 64) (l : Fin 4) (n : Instr), n = .br g d ∨ n = .brr g a ∨ n = .call g d ∨ n = .ret g ∨ n = .lbreak g l →
    (s.core.ctx.uniform g = some false → exec n s = .next s) ∧
    (s.core.ctx.uniform g = none → exec n s = .next (s.takeTrap (s.fault 0x0102 0 0 0))) ∧
    (s.core.ctx.uniform g = some true → s.core.ctx.flow.xfer ≠ none → exec n s = .next (s.takeTrap (s.fault 0x0103 0 0 0))) ∧
    (s.core.ctx.uniform g = some true → s.core.ctx.flow.xfer = none →
      let x := s.core.ctx
      let wr := fun (target : Nat) (call : Bool) (brk : Option Nat) =>
        (Host.Outcome.next (posted s (.xfer { left := 2, target := target, call := call, brk := brk })) : Out)
      (0 ≤ (x.slotBundle : Int) + d.toInt → (x.slotBundle : Int) + d.toInt < 2 ^ 64 →
        exec (.br g d) s = wr ((x.slotBundle : Int) + d.toInt).toNat false none ∧
        exec (.call g d) s = wr ((x.slotBundle : Int) + d.toInt).toNat true none) ∧
      exec (.brr g a) s = wr (x.rs a).toNat false none ∧ exec (.ret g) s = wr x.regs.lnk.toNat false none ∧
      (l.val < x.regs.loops.length →
        exec (.lbreak g l) s = wr (((x.regs.loops.reverse[l.val]?).map (·.last)).getD 0 + 1) false (some l.val)) ∧
      (x.regs.loops.length ≤ l.val → exec (.lbreak g l) s = .next (s.takeTrap (s.fault 0x0104 0 0 0))))

/-- Loops, the roller, yield and halt (R66, R70 to R72): what they hand to the end of their group. Choices of the model that it rests on: logs 9 and 20. -/
def Obligations.LoopsRollsYieldHalt : Prop :=
  ∀ (s : State) (l : Fin 4) (c : Fin 64) (k : BitVec 9) (n : BitVec 11) (n' : BitVec 9) (rot ilk : Bool) (q : Fin 2) (len : BitVec 9) (r : Roll),
    (s.core.ctx.endPos = 3 → s.core.ctx.regs.loops.length = l.val →
      let first := s.core.ctx.endBundle + 1
      exec (.loop l c n rot ilk) s = .next (posted s (.loop { rot := rot, ilk := ilk, first := first, last := first + n.toNat - 1, exit := 0 } (s.core.ctx.rs c))) ∧
      exec (.loopi l k n' rot ilk) s = .next (posted s (.loop { rot := rot, ilk := ilk, first := first, last := first + n'.toNat - 1, exit := 0 } (k.setWidth 64)))) ∧
    (s.core.ctx.endPos ≠ 3 → exec (.loop l c n rot ilk) s = .next (s.takeTrap (s.fault 0x0105 0 0 0))) ∧
    (s.core.ctx.endPos = 3 → s.core.ctx.regs.loops.length ≠ l.val → exec (.loop l c n rot ilk) s = .next (s.takeTrap (s.fault 0x0104 0 0 0))) ∧
    (s.capCheck (capBit 31) = .go → rollOf s.core.ctx q.val (s.core.ctx.endBundle + 1) len.toNat = some r →
      rollContent s.core.ctx.istore (s.core.ctx.endBundle + 1) len.toNat = false → exec (.roll q len) s = .next (posted s (.roll r))) ∧
    (s.core.ctx.cfg.free = true → exec .yield s = .next (posted s .yield)) ∧
    (s.core.ctx.cfg.free = false → exec .yield s = .next s) ∧
    exec .halt s = .next (posted s .halt)

/-! ## Matrix, port and ring slots -/

/-- An engine slot's checkpoint check of a timetable context (R51); in free mode there is none. -/
def Sys2Proof.Claim.EngineSlotCheckpoint : Prop :=
  ∀ s : State, (s.core.ctx.cfg.free = true → s.engineStart = s) ∧
    (s.core.ctx.cfg.free = false → s.engineStart = posted s (.late s.core.ctx.cfg.dv))

/-- The ring instructions (R185), checked before any slot of their own group reserves a tile (R353). -/
def Sys2Proof.Claim.RingSlots : Prop :=
  ∀ (s : State) (g : Gate) (q : Fin 16) (n : Fin 32), s.core.ctx.gate0 g = true → s.declared 0 q.val = .go →
    let r := s.ring q.val
    let b := s.ringBefore q.val
    (n.val ≤ ringOcc r → exec (.qpop g q n) s = .next ((posted s (.pop q.val n.val s.now)).engineStart)) ∧
    (ringOcc r < n.val → exec (.qpop g q n) s = .next (s.takeTrap (s.ringFault 0x0302 0 q.val))) ∧
    (b.pr = 0 → (b.tail + BitVec.ofNat 16 n.val - b.hr).toNat ≤ b.size.toNat → n.val ≤ b.size.toNat →
      exec (.qadv g q n) s = .next ((posted s (.push q.val n.val)).engineStart)) ∧
    (b.pr ≠ 0 → exec (.qadv g q n) s = .next (s.takeTrap (s.ringFault 0x0303 0 q.val))) ∧
    (b.pr = 0 → s.busySlots s.core q.val = [] → exec (.qrst g q) s = .next ((posted s (.ringReset q.val)).engineStart))

/-- The checkpoint of engine slots, and the ring slots. Choices of the model that it rests on: logs 9 and 27. -/
def Obligations.RingSlots : Prop := Claim.EngineSlotCheckpoint ∧ Claim.RingSlots

/-- bld and bswap (R189, R190): the slice lands in the shadow buffer twenty cycles on, the tile is popped; the swap waits for loads
in flight. -/
def Sys2Proof.Claim.WeightSlots : Prop :=
  ∀ (s : State) (g : Gate) (q : Fin 16) (l : Fin 8), s.core.ctx.gate0 g = true →
    (s.bldCheck q.val = .go →
      let ld : BldLand :=
        { core := s.core.phys, ctx := s.core.ctx.id, ring := q.val, idx := (s.ring q.val).head.toNat, slice := l.val,
          bytes := s.tileBytes q.val, bay := s.core.ctx.bay.serial }
      ∃ t, exec (.bld g q l) s = .next t ∧ t.mem = s.mem ∧ t.core.roles = s.core.roles.tagAs q.val ∧
        t.agenda = insertDue ⟨s.now + 20, phLand, s.issueSeq, .bldLand ld⟩ s.agenda ∧ Post.pop q.val 1 (s.now + 20) ∈ t.core.ctx.post) ∧
    (s.core.roles.pending = false → (∀ d ∈ s.agenda, isBld s.core.phys d.ev = false) →
      exec (.bswap g) s = .next ((posted s .swap).engineStart)) ∧
    (s.core.roles.pending = true → exec (.bswap g) s = .next (s.withhold { cause := 1, blocks := false }))

/-- The scale slots (R194, R195): the bytes as they stand are seen by an mma issued four cycles later. -/
def Sys2Proof.Claim.ScaleSlots : Prop :=
  ∀ (s : State) (g : Gate) (n : Fin 16) (o : BitVec 9), s.core.ctx.gate0 g = true →
    let a := s.core.ctx.ra n
    let ea := effOff a o.toInt 64
    let later := fun (part : Nat) (bs : List Byte) =>
      (Host.Outcome.next { s with core := { s.core with scaleQ := s.core.scaleQ ++ [{ due := s.now + 4, part := part, bytes := bs }] } } : Out)
    (s.memCheck false [0] 64 a [(ea, 2048)] [] none = .go → exec (.scld g n o) s = later 0 (s.loadBytes 0 0 ea.toNat 2048)) ∧
    (s.memCheck false [0] 64 a [(ea, 16384)] [] none = .go → exec (.scldb g n o) s = later 1 (s.loadBytes 0 0 ea.toNat 16384)) ∧
    exec (.zpclr g) s = later 2 []

/-- Weight buffers and scale buffers. Choices of the model that it rests on: logs 9, 27, 58 and 59. -/
def Obligations.WeightScaleSlots : Prop := Claim.WeightSlots ∧ Claim.ScaleSlots

/-- mma and mmaz (R191 to R193): the tile is popped and the array busy for sixteen cycles; row r of the product lands in the target
quarter at 600 + r, as a sum or as a replacement; with .ck the extra row lands at 616, and column 127 holds the extra column; no
row lands at issue and memory is unchanged. -/
def Sys2Proof.Claim.MatrixMultiply : Prop :=
  ∀ (s : State) (g : Gate) (qa qb : Fin 16) (b : Fin 32) (q : Fin 4) (f : MFmt) (ck zp acc : Bool) (gs : GroupSize),
    s.core.ctx.gate0 g = true → s.capCheck (mmaNeed f ck false) = .go → s.accCheck 1 b.val true (mmaRows q.val ck) = .go →
    s.mmaCheck qa.val qb.val = .go →
    ∃ t, exec (if acc then .mma g qa qb b q f ck zp gs else .mmaz g qa qb b q f ck zp gs) s = .next t ∧
      t.mem = s.mem ∧ t.hub = s.hub ∧ t.others = s.others ∧ t.core.acc = s.core.acc ∧ t.core.arrayUntil = s.now + 16 ∧
      t.core.ctx.regs = s.core.ctx.regs ∧ Post.pop qa.val 1 (s.now + 16) ∈ t.core.ctx.post ∧
      (∀ r : Fin 16, ∃ d ∈ t.agenda, ∃ w, d.cyc = s.now + 600 + r.val ∧ d.ev = .mmaRowLand w ∧ w.core = s.core.phys ∧ w.bank = b.val ∧
        w.row = 16 * q.val + r.val ∧ w.acc = acc ∧ w.t = if ck then (s.product qa.val f zp gs).rowCk r.val else (s.product qa.val f zp gs).row r.val) ∧
      (ck = true → ∃ d ∈ t.agenda, ∃ w, d.cyc = s.now + 616 ∧ d.ev = .mmaExtraRowLand w ∧ w.row = extraRowNo q.val ∧
        w.t = (s.product qa.val f zp gs).extraRow)

/-- Drain to lanes (R192): both opcodes deliver the totals; element (r, n) lands in lane n of register vd + r at 472 + r + n. -/
def Sys2Proof.Claim.MatrixDrain : Prop :=
  ∀ (s : State) (g : Gate) (qa qb : Fin 16) (d : Fin 32) (f : MFmt) (zp : Bool) (gs : GroupSize) (i : Instr),
    i = .mmaDl g qa qb d f zp gs ∨ i = .mmazDl g qa qb d f zp gs →
    s.core.ctx.gate0 g = true → s.capCheck (mmaNeed f false true) = .go → s.mmaCheck qa.val qb.val = .go →
    ∃ t, exec i s = .next t ∧ t.mem = s.mem ∧ t.core.acc = s.core.acc ∧ t.core.arrayUntil = s.now + 16 ∧
      ∀ (r : Fin 16) (n : Nat) (v : W32), ((s.product qa.val f zp gs).row r.val)[n]? = some v →
        ∃ e ∈ t.agenda, ∃ w, e.cyc = s.now + 472 + r.val + n ∧ e.ev = .mmaDrainLand w ∧ w.lane = n ∧ w.val = v ∧
          w.reg = physOf s.core.ctx.regs.rrb (d.val + r.val)

/-- The matrix multiply in every mode, its accumulation and its drain. Choices of the model that it rests on: logs 57 and 59. -/
def Obligations.MatrixSlots : Prop := Claim.MatrixMultiply ∧ Claim.MatrixDrain

/-- The accumulator-port slots (R200 to R203): they perform two cycles later in their lanes; a read brings its row to vd. -/
def Sys2Proof.Claim.PortSlots : Prop :=
  ∀ (s : State) (g : Gate) (m : Fin 8) (d b : Fin 32) (row : Fin 64), VectorRuns s g m 0 →
    s.underWay (landsInto s.core.phys b.val (· == row.val)) = false →
    let am := s.core.ctx.active g m
    let op := fun (k : PortKind) => ({ core := s.core.phys, ctx := s.core.ctx.id, kind := k, bank := b.val, row := row.val, mask := am,
                                       unit := s.core.ctx.unit, seq := s.issueSeq, bay := s.core.ctx.bay.serial, late := 0 } : PortOp)
    let wr := fun (i : Instr) (k : PortKind) (w : Bool) => s.accCheck 0 b.val w [row.val] = .go →
      ∃ t, exec i s = .next t ∧ t.agenda = insertDue ⟨s.now + 2, phLand, s.issueSeq, .accPortPerform (op k)⟩ s.agenda ∧
        t.mem = s.mem ∧ t.core.acc = s.core.acc ∧ t.core.ctx.regs = s.core.ctx.regs ∧ t.hub = s.hub
    wr (.accrd g m d b row) (.rd (physOf s.core.ctx.regs.rrb d.val)) false ∧ wr (.accwr g m d b row) (.wr (s.core.ctx.rv d.val)) true ∧
    wr (.accadd g m d b row) (.add (s.core.ctx.rv d.val)) true ∧ wr (.accclr g m b row) .clr true

/-- Allocating and freeing banks (R197 to R199): the word and the cleared rows, and the freeing that the commit publishes. -/
def Sys2Proof.Claim.BankSlots : Prop :=
  ∀ (s : State) (g : Gate) (b : Fin 32) (lo hi : Fin 4), s.core.ctx.gate0 g = true →
    let k := s.core.ctx.id
    let w := s.core.bankWord b.val
    (w.toNat % 4 = 0 → exec (.bkalloc g b) s = .next (posted s (.bank b.val (bankWordOf k k k) true)) ∧
      exec (.bkallocNamed g b lo hi) s = .next (posted s (.bank b.val (bankWordOf k lo.val hi.val) true))) ∧
    (w.toNat % 4 ≠ 0 → exec (.bkalloc g b) s = .next (s.takeTrap (s.accFault 0x0403 0 b.val 0))) ∧
    (bankOpen w = true → w.toNat / 4 % 4 = k →
      s.underWay (fun i => landsInto s.core.phys b.val (fun _ => true) i || portInto s.core.phys b.val i) = false →
      exec (.bkfree g b) s = .next (posted (posted s (.bank b.val (w ||| 2) false)) (.publish (.bankFree b.val)))) ∧
    (bankOpen w = false → exec (.bkfree g b) s = .next (s.takeTrap (s.accFault 0x0401 0 b.val 0)))

/-- The accumulator port, and the banks of the accumulator. Choices of the model that it rests on: logs 9 and 27. -/
def Obligations.PortBankSlots : Prop := Claim.PortSlots ∧ Claim.BankSlots

/-! ## Engine slots -/

/-- The copy slots (R205 to R211): the parameters are those of the staging set as it stands, the source bytes those of the issue
cycle; the command enters the engine's queue, and no byte of memory changes at issue. cpq reserves the slot it will fill. -/
def Sys2Proof.Claim.CopySlots : Prop :=
  ∀ (s : State) (g : Gate) (n : Fin 4) (q : Fin 16), s.core.ctx.gate0 g = true → s.capCheck (capBit 27) = .go →
    let w := s.core.ctx.stagedSet 0 n.val
    let p := s.core.phys
    let wr := fun (i : Instr) (op : CopyOp) => s.copySteps op w (specOf op w) = .go → s.copyRoom = .go →
      exec i s = .next (s.enqueueCopy p (.inl (s.copyCmd (specOf op w) 0 none false))).engineStart ∧
      (s.enqueueCopy p (.inl (s.copyCmd (specOf op w) 0 none false))).engineStart.mem = s.mem
    wr (.cp g n) .cp ∧ wr (.tmv g n) .tmv ∧ wr (.cpfill g n) .cpfill ∧
    (let r := s.ring q.val
     let c := s.copyCmd (specOf .cpq w) (unitBase p + r.tileOff (ringNext r)) (some (q.val, s.issueSeq)) false
     s.canReserve 2 q.val = .go → s.copySteps .cpq w (specOf .cpq w) = .go → s.own 2 true true 0 0 (r.tileOff (ringNext r)) 16384 = .go →
     s.copyRoom = .go →
     exec (.cpq g n q) s = .next ((s.onCore (Core.reserve q.val s.issueSeq s.core.ctx.id s.core.ctx.bay.serial)).enqueueCopy p (.inl c)).engineStart) ∧
    exec (.cphalt g) s = .next (s.onCore fun c =>
      { c with copy := { c.copy with chain := c.copy.chain.map fun h => { h with halting := true } } }).engineStart

/-- cpchain (R208, R214): a chain from the 64-byte-aligned unit address of word 0, with the predicates as they stand at issue. -/
def Sys2Proof.Claim.ChainSlot : Prop :=
  ∀ (s : State) (g : Gate) (n : Fin 4), s.core.ctx.gate0 g = true → s.capCheck (capBit 27) = .go →
    let x := s.core.ctx
    let w := x.stagedSet 0 n.val
    let a := addrOf (w 0)
    (zeroAbove 45 (w 0) && zeroAbove 3 (w 6) && [1, 2, 3, 4, 5, 7].all fun i => w i == 0) = true → a.space = 0 → a.offset.toNat % 64 = 0 →
    s.inRange 2 false 0 0 a.offset.toNat 64 false = .go → s.copyRoom = .go →
    exec (.cpchain g n) s = .next (s.enqueueCopy s.core.phys (.inr
      { core := s.core.phys, ctx := x.id, base := a.offset.toNat, pos := 0, preds := (List.range 32).map fun i => x.rp (Fin.ofNat 32 i)
        loops := [], processed := 0, ac := (w 6).toNat % 8, halting := false, bundle := x.flow.bundle, scyc := s.scyc, issue := s.issueSeq, next := s.now, begun := false })).engineStart

/-- The copy engine and its chains. Choices of the model that it rests on: logs 9, 17 and 32. -/
def Obligations.CopySlots : Prop := Claim.CopySlots ∧ Claim.ChainSlot

/-- The scatter-accumulate slots (R216, R217): sarun queues the entries of its arrays as they stand and is a commit point; saenq holds
one entry for each active lane until the bay commits; saflush and sawin queue. Choices of the model that it rests on: log 31. -/
def Obligations.ScatterSlots : Prop :=
  ∀ (s : State) (g : Gate) (m : Fin 8) (n : Fin 2) (k : Fin 128) (i v : Fin 32) (o : SaOp) (t : SaTy),
    (s.core.ctx.gate0 g = true → s.capCheck (capBit 28) = .go →
      let w := s.core.ctx.stagedSet 1 n.val
      (sarunOk w = true → s.saSides [saTargetSide w, (false, addrOf (w 2), 4 * saCount w, 64), (false, addrOf (w 3), 4 * saCount w, 64)] = .go →
        s.saRoom = .go →
        exec (.sarun g n) s = .next (posted (s.enqueueSa (s.saCmd (s.saArrays w) false none (saAc w))) .commitPoint).engineStart) ∧
      (s.saRoom = .go → exec (.saflush g) s = .next (s.enqueueSa (s.saCmd [] true none 0)).engineStart ∧
        exec (.sawin g k) s = .next (s.enqueueSa (s.saCmd [] false (some k.val) 0)).engineStart) ∧
      (sarunOk w = false → exec (.sarun g n) s = .next (s.takeTrap (s.engineFault 0x0701 3)))) ∧
    (VectorRuns s g m (capBit 28) →
      let x := s.core.ctx
      let w := x.stagedSet 1 0
      let ls := (List.range 128).filter fun l => (x.active g m).getLsbD l
      saTargetOk w = true → s.saSides [saTargetSide w] = .go → x.enq.length + (postedEnq x.post).length + ls.length ≤ 1024 →
      exec (.saenq g m i v o t) s = .next (posted s (.enq (ls.map fun l =>
        { idx := (lane (x.rv i.val) l).toNat, val := lane (x.rv v.val) l, op := o, ty := t
          base := unitBase s.core.phys + (saTarget w).offset.toNat, tlen := saTlen w, ctx := x.id, issue := s.issueSeq
          bundle := x.flow.bundle, scyc := s.scyc }))).engineStart)

/-- The link slots (R271 to R275, R279, R280, R282): the command joins the core's link-port unit behind those already there, with its
local completion at its own cycle; one that lands in a ring may have taken tiles of it, which then count as landed for no earlier command. A send or a put is a commit point and takes the
next number of its channel; an arming slot arms at its bay's commit. No byte of memory changes at issue. Choices of the model that it rests on: logs 29, 35, 50 and 52. -/
def Obligations.LinkSlots : Prop :=
  ∀ (s : State) (g : Gate) (ch : Fin 256) (n : Fin 4) (i : Instr) (o : LinkOp) (c : ChanRec),
    (i = .send g ch n ∧ o = .send) ∨ (i = .put g ch n ∧ o = .put) ∨ (i = .recv g ch n ∧ o = .recv) ∨
      (i = .allred g ch n ∧ o = .allred) ∨ (i = .agfwd g ch n ∧ o = .agfwd) →
    s.core.ctx.gate0 g = true → s.capCheck (capBit 29) = .go → s.chan s.core.partNo ch.val = some c →
    s.linkCheck o ch.val (s.core.ctx.stagedSet 2 n.val) = .go →
    let l := s.linkCmd o c (s.core.ctx.stagedSet 2 n.val)
    ∃ t, exec i s = .next t ∧ t.mem = s.mem ∧
      (∃ d ∈ t.agenda, d.cyc = l.lc ∧ d.ev = .linkLocalComplete s.core.phys ch.val l.issue) ∧
      (∃ pre k, t.core.link.cmds = pre ++ [{ l with taken := k }] ∧ pre.length = s.core.link.cmds.length ∧
        ∀ (j : Nat) (m : LinkCmd), s.core.link.cmds[j]? = some m → m.issue ≠ l.issue → ∃ w, pre[j]? = some { m with tiles := w }) ∧
      (∃ e, t.chan s.core.partNo ch.val = some e ∧ e.sends = c.sends + (if o = .send then 1 else 0) ∧
        e.puts = c.puts + (if o = .put then 1 else 0)) ∧
      (if o = .send ∨ o = .put then Post.sent l ∈ t.core.ctx.post ∧ Post.commitPoint ∈ t.core.ctx.post
       else Post.publish (.arm l) ∈ t.core.ctx.post)

/-- The aggregation slots (R295, R296, R301): agg takes a round for its group, snapshots its contribution and is a commit point; aggq
reads the budget, the group's status or its cost. Choices of the model that it rests on: log 36. -/
def Obligations.AggregateSlots : Prop :=
  ∀ (s : State) (g : Gate) (n d : Fin 64), s.core.ctx.gate0 g = true → s.capCheck (capBit 30) = .go →
    let w := s.core.ctx.stagedSet 4 0
    let p := s.core.partNo
    (s.aggCheck n.val w = .go →
      let src := addrOf (w 0)
      let base := (s.spaceBase s.core s.core.ctx src.space.toNat src.index.toNat).getD 0 + src.offset.toNat
      s.failing (s.keyOf src.space.toNat src.index.toNat) base ((s.group n.val).elems * contribBytes ((w 2).toNat % 8)) = [] →
      ∃ t, exec (.agg g n) s = .next t ∧ t.mem = s.mem ∧ t.core.ctx.agg.map (fun r => (r.group, r.round)) = some (n.val, (s.aggWork n.val w).round) ∧
        Post.commitPoint ∈ t.core.ctx.post ∧ ∃ e ∈ t.agenda, e.ev = .aggReachHome (s.aggWork n.val w)) ∧
    exec (.aggq g n d .budget) s = .next (scalarTo s 32 d ((((s.partAt p).owner).map s.budget).getD 0) 0).engineStart ∧
    ((s.memberIdx p n.val).isSome = true →
      exec (.aggq g n d .status) s = .next (scalarTo s 32 d (s.groupStatus p n.val) 0).engineStart ∧
      exec (.aggq g n d .cost) s = .next (scalarTo s 32 d (BitVec.ofNat 64 (s.group n.val).cost) 0).engineStart) ∧
    ((s.memberIdx p n.val).isSome = false → exec (.aggq g n d .cost) s = .next (s.takeTrap (s.aggFault 0x0905 n.val (s.ownerReg p) 0)))

/-! ## Ownership slots -/

/-- Lending and returning (R172 to R174): what each gives to its group's end. -/
def Sys2Proof.Claim.LendReturnSlots : Prop :=
  ∀ (s : State) (g : Gate) (t a : Fin 64), s.core.ctx.gate0 g = true →
    let w := s.core.ctx.rs a
    let d := targetOf w
    let e := s.entry t.val
    let m : TrowelMove :=
      { fromCore := s.core.phys, fromEntry := t.val, toCore := (s.targetCore d).getD 0, toCtx := d.ctx, toEntry := d.entry
        toEngine := d.kind == 1, trowel := e, flushed := false }
    (s.lendCheck t.val w = .go → d.kind ≠ 2 → exec (.tlend g t a) s =
      .next (posted (posted (posted (posted s (.leave t.val { e with state := 2 })) (.lend m)) .commitPoint) .flush)) ∧
    (s.lendCheck t.val w = .go → d.kind = 2 → exec (.tlend g t a) s =
      .next (posted (posted (posted (posted s (.leave t.val { e with state := 5 })) (.lendRemote t.val d.grant d.flag)) .commitPoint) .flush)) ∧
    (s.retStale t.val = true → exec (.tret g t) s = .next (posted s (.board t.val TEntry.empty))) ∧
    (s.retStale t.val = false → (s.entryCheck t.val fun e => e.kind == 2 || (e.kind == 1 && (e.state == 0 || e.state == 4))) = .go →
      (e.kind = 2 → exec (.tret g t) s = .next (posted (posted s (.board t.val TEntry.empty)) (.publish (.unswatch e)))) ∧
      (e.kind ≠ 2 → exec (.tret g t) s = .next (posted (posted s (.board t.val { e with state := 3 })) (.publish (.ret t.val)))))

/-- Sharing, the end of a share, and the probe (R176 to R178). -/
def Sys2Proof.Claim.ShareSlots : Prop :=
  ∀ (s : State) (g : Gate) (t a d : Fin 64), s.core.ctx.gate0 g = true →
    let w := s.core.ctx.rs a
    let x := targetOf w
    let e := s.entry t.val
    let f : TEntry := { e with swatch := e.swatch + 1 }
    let p := (s.targetCore x).getD 0
    (s.entryCheck t.val heldTrowel = .go → e.swatch ≠ 255 → x.kind = 0 → s.targetNamed x = true → s.targetFree x = true →
      exec (.tshare g t a) s = .next (posted (posted (posted (posted s (.board t.val f)) (.table (s.recChange e f))) (.reserve p x.entry))
        (.publish (.share p x.ctx x.entry f)))) ∧
    (s.entryCheck t.val heldTrowel = .go → x.kind = 0 → s.targetNamed x = true →
      exec (.tunshare g t a) s = .next (posted s (.publish (.unshare e p x.entry)))) ∧
    exec (.tprobe g t d) s = .next (scalarTo s 1 d (entryWordOf e) 0)

/-- Lending and returning trowels, sharing swatches, and the probe. Choices of the model that it rests on: logs 9, 28, 30 and 53. -/
def Obligations.LendShareSlots : Prop := Claim.LendReturnSlots ∧ Claim.ShareSlots

/-- Entry checks (R170): a slot that names an entry of another context, an empty one, or one whose trowel was revoked traps. -/
def Sys2Proof.Claim.EntryFaults : Prop :=
  ∀ (s : State) (g : Gate) (t : Fin 64), s.core.ctx.gate0 g = true →
    (s.serves (s.entry t.val) = false → exec (.tcleanKeep g t) s = .next (s.takeTrap (s.trowelFault 0x0505 (s.entry t.val) 0))) ∧
    (s.serves (s.entry t.val) = true → s.ownPart.staleEntry (s.entry t.val) = true →
      exec (.tcleanKeep g t) s = .next (s.takeTrap (s.trowelFault 0x050C (s.entry t.val) 0)))

/-- Splitting, joining and cleaning (R175, R178): both entries and the trowel's records, and the generation that counts on. -/
def Sys2Proof.Claim.SplitJoinCleanSlots : Prop :=
  ∀ (s : State) (g : Gate) (t m a : Fin 64), s.core.ctx.gate0 g = true → s.entryCheck t.val heldTrowel = .go →
    let k := (s.core.ctx.rs a).toNat
    let e := s.entry t.val
    let f := s.entry m.val
    (t ≠ m → e.swatch = 0 → 1 ≤ k → k < e.count → s.core.entryFree (some s.core.ctx.id) s.now m.val = true →
      s.recordsTaken s.core.partNo < Config.trowelRecords →
      let lo : TEntry := { e with count := k, gen := (e.gen + 1) % 256 }
      let hi : TEntry := { e with loc := e.loc + k, count := e.count - k, gen := (e.gen + 1) % 256 }
      let new : TRec := recWith { TRec.free with holder := .board s.core.phys m.val } hi
      exec (.tsplit g t m a) s =
        .next (posted (posted (posted s (.board t.val lo)) (.board m.val hi)) (.table (s.recChange e lo ++ [(TRec.free, new)])))) ∧
    (t ≠ m → s.entryCheck m.val heldTrowel = .go → e.swatch = 0 → f.swatch = 0 → adjacent e f = true → e.taint = f.taint →
      let j : TEntry := { e with loc := min e.loc f.loc, count := e.count + f.count, gen := (max e.gen f.gen + 1) % 256 }
      exec (.tjoin g t m) s = .next (posted (posted (posted s (.board t.val j)) (.board m.val TEntry.empty))
        (.table (s.recChange e j ++ ((s.ownPart.recOf f).map fun r => (r, TRec.free)).toList)))) ∧
    (let c : TEntry := { e with taint := false }
     exec (.tcleanKeep g t) s = .next (posted (posted (posted s (.board t.val c)) (.table (s.recChange e c))) (.publish (.clean c false))) ∧
     exec (.tcleanZero g t) s = .next (posted (posted (posted s (.board t.val c)) (.table (s.recChange e c))) (.publish (.clean c true))))

/-- Splitting, joining and cleaning trowels, and the faults of a wrong entry. Choices of the model that it rests on: logs 9, 28 and 30. -/
def Obligations.SplitJoinCleanSlots : Prop := Claim.EntryFaults ∧ Claim.SplitJoinCleanSlots

/-! ## Check and sync slots -/

/-- sync, mark and hold (R54, R56, R61): a sync that names no domain is rejected; a mark of a timetable context is compared with its
cycle; a hold region that would exceed 512 groups traps. Choices of the model that it rests on: logs 9, 20 and 25. -/
def Obligations.SyncMarkHold : Prop :=
  ∀ (s : State) (d : Fin 8) (t : BitVec 23) (n : BitVec 9),
    let r := s.core.ctx.regs.dm[d]
    (r.getLsbD 4 = true → exec (.sync d t) s = .next (posted s (.sync
      { line := r.toNat % 16, scope := lineScope s.core.phys (r.toNat % 16), domain := d.val
        due := ((s.now : Int) + sext23 (t.setWidth 64 - s.core.ctx.ttc s.now)).toNat, at_ := s.now, bundle := s.core.ctx.slotBundle, g := none }))) ∧
    (r.getLsbD 4 = false → exec (.sync d t) s = .next (s.takeTrap (s.fault 0x0101 0 9 (BitVec.ofNat 64 s.core.ctx.slotPos)))) ∧
    (s.core.ctx.cfg.free = true → exec (.mark t) s = .next (posted s .mark)) ∧
    (s.core.ctx.cfg.free = false → exec (.mark t) s = .next (posted (posted s (.late (sext23 (s.core.ctx.ttc s.now - t.setWidth 64)))) .mark)) ∧
    (s.core.ctx.flow.hold = none → exec (.hold n) s = .next (posted s (.hold (n.toNat + 1)))) ∧
    (∀ left cnt, s.core.ctx.flow.hold = some (left, cnt) → left < n.toNat + 1 → 512 < cnt + n.toNat + 1 →
      exec (.hold n) s = .next (s.takeTrap (s.fault 0x0202 0 0 0)))

/-- The equality checks (R73): equal operands let the machine go on; a mismatch is a recoverable event. -/
def Sys2Proof.Claim.EqualityChecks : Prop :=
  ∀ (s : State) (g : Gate) (m : Fin 8) (a b : Fin 64) (u v p q : Fin 32),
    let x := s.core.ctx
    (x.gate0 g = true →
      (x.rs a = x.rs b → exec (.ckeq g a b) s = .next s) ∧
      (x.rs a ≠ x.rs b → exec (.ckeq g a b) s =
        .next (s.recoverable (s.faultOf 0x0B03 0 0 (x.regs.ts[a].setWidth 64) (x.regs.ts[b].setWidth 64) none)))) ∧
    (VectorRuns s g m 0 →
      ((∀ l, l < 128 → (x.active g m).getLsbD l = true → lane (x.rv u.val) l = lane (x.rv v.val) l) → exec (.ckeqv g m u v) s = .next s) ∧
      (∀ l, l < 128 → (x.active g m).getLsbD l = true → lane (x.rv u.val) l ≠ lane (x.rv v.val) l → ∃ r, r.code = 0x0B03 ∧
        exec (.ckeqv g m u v) s = .next (s.recoverable r))) ∧
    (x.gateLanes g ≠ 0 →
      ((x.rp p ^^^ x.rp q) &&& x.gateLanes g = 0 → exec (.ckeqp g p q) s = .next s) ∧
      ((x.rp p ^^^ x.rp q) &&& x.gateLanes g ≠ 0 → ∃ r, r.code = 0x0B03 ∧ exec (.ckeqp g p q) s = .next (s.recoverable r)))

/-- trap and brk (R74): the context traps, or enters debug stop, after its group; brk does nothing where debug is not enabled. -/
def Sys2Proof.Claim.TrapBrk : Prop :=
  ∀ (s : State) (g : Gate) (i : BitVec 16), s.core.ctx.gate0 g = true →
    exec (.trap g i) s = .next (posted s (.trapAfter (s.fault 0x0108 0 (i.setWidth 64) 0))) ∧
    (s.core.dblk.dbg.getLsbD s.core.ctx.id = true →
      exec (.brk g i) s = .next (posted s (.debugAfter { s.fault 0x010A 0 0 (i.setWidth 64) with sev := 0 }))) ∧
    (s.core.dblk.dbg.getLsbD s.core.ctx.id = false → exec (.brk g i) s = .next s)

/-- wflag waits until its condition holds, tflag reads it into a predicate after five cycles (R75); a corrected error of a flag word in
spill memory is counted (R151). -/
def Sys2Proof.Claim.FlagWords : Prop :=
  ∀ (s : State) (g : Gate) (p : Fin 32) (n : Fin 16) (a : Fin 64) (c : Cond) (o : BitVec 8), s.core.ctx.gate0 g = true → s.flagCheck n o = .go →
    let holds := condHolds c (s.flagWord n o) (s.core.ctx.rs a)
    (holds = true → exec (.wflag g n a c o) s = .next (s.spillCounts (s.core.ctx.ra n) (flagPieces (s.core.ctx.ra n) o))) ∧
    (holds = false → exec (.wflag g n a c o) s = .next (s.withhold { cause := 4, blocks := true })) ∧
    exec (.tflag g p n a c o) s = .next ((predTo s 5 p (BitVec.allOnes 128) (if holds then BitVec.allOnes 128 else 0) 0).spillCounts (s.core.ctx.ra n)
      (flagPieces (s.core.ctx.ra n) o)) ∧
    ((s.core.ctx.ra n).space ≠ 1 ∨ s.core.ctx.spillErr = [] → s.spillCounts (s.core.ctx.ra n) (flagPieces (s.core.ctx.ra n) o) = s)

/-- The check class (R73, R74, R75): equality checks, trap and brk, and the flag-word slots. Choices of the model that it rests on: logs 9, 19, 26, 56 and 59. -/
def Obligations.CheckSlots : Prop := Claim.EqualityChecks ∧ Claim.TrapBrk ∧ Claim.FlagWords

/-! ## Events of contexts -/

namespace Sys2Proof.Claim

open Sys2Proof Sys2Proof.Machine

/-- Core p and its context k are parts of the machine. -/
def Present (s : State) (p k : Nat) : Prop := (s.coreAt p).phys = p ∧ (s.ctxAt p k).id = k

/-- exec answers a next state of which P holds. -/
def Leads (i : Instr) (s : State) (P : State → Prop) : Prop := ∃ t, exec i s = .next t ∧ P t

/-- Memory, host memory and the check words are as they were. -/
def Quiet (s t : State) : Prop := t.mem = s.mem ∧ t.hostMem = s.hostMem ∧ t.bad = s.bad

end Sys2Proof.Claim

/-- Starting contexts (R49, R219, R220, R232) and the choice of the next one (R221): a timetable context takes its core; one that is
not LOADED, or finds another timetable context, does not start; free contexts run, or are parked under a timetable context. Choices of the model that it rests on: logs 2 and 39. -/
def Obligations.ContextStarts : Prop :=
  ∀ (s : State) (p k : Nat), Present s p k →
    let c := s.coreAt p
    let x := s.ctxAt p k
    (x.st = .loaded → x.cfg.free = false → c.timetabled = false → Leads (.timetableStart p k) s fun t =>
      t.ctxAt p k = { x with st := .running, flow := { x.flow with nextAt := s.now } } ∧ (t.coreAt p).ctx.id = k ∧
      (t.coreAt p).switch.chooseAt = none ∧ Quiet s t ∧ t.hub = s.hub ∧ t.agenda = s.agenda) ∧
    (x.st ≠ .loaded ∨ c.timetabled = true → exec (.timetableStart p k) s = .next s) ∧
    (x.st = .loaded → x.cfg.free = true → (s.launchOf c x).map (·.running) = some true → Leads (.freeContextStart p) s fun t =>
      t.ctxAt p k = { x with st := if c.timetabled then .parked else .running, flow := { x.flow with nextAt := s.now } } ∧ Quiet s t ∧
      t.hub = s.hub ∧ t.agenda = s.agenda) ∧
    (x.cfg.free = true → x.st = .running → (c.switch.from_ + 1) % 4 = k → Leads (.contextSwitch p) s fun t =>
      t.ctxAt p k = { x with st := .running, flow := { x.flow with nextAt := max x.flow.nextAt (s.now + 1) } } ∧ (t.coreAt p).ctx.id = k ∧
      (t.coreAt p).switch.chooseAt = none ∧ Quiet s t ∧ t.hub = s.hub ∧ t.agenda = s.agenda)

/-- Stopping and going on (R90, R91, R226, R228, R340, R341, R60): at its boundary a context is STOPPING and its results in flight stand
in its dust sheet under their counts; it goes on later by the cycles it lost, its dust sheet landing at d − 1 + k. Memory is
unchanged. Choices of the model that it rests on: log 38. -/
def Obligations.ContextStops : Prop :=
  ∀ (s : State) (p k n : Nat), Present s p k →
    let x := s.ctxAt p k
    (Leads (.preemptStopBoundary p k) s fun t => (t.ctxAt p k).st = .stopping ∧ (t.ctxAt p k).flow.stopB = s.now ∧ t.mem = s.mem ∧
      (∃ d ∈ t.agenda, d.ev = .contextStopped p k ∧ s.now ≤ d.cyc) ∧
      ∀ d ∈ s.agenda, ∀ l, isLanding p k d.ev = true → landingOf d.ev = some l →
        ∃ e ∈ (t.ctxAt p k).dust, e.land = l ∧ e.k = d.cyc - (s.now - 1)) ∧
    (x.st = .stopping → Leads (.contextStopped p k) s fun t => t.ctxAt p k = { x with st := .stopped } ∧ Quiet s t ∧ t.agenda = s.agenda) ∧
    (Leads (.debugStop p k n) s fun t => (t.ctxAt p k).st = .debug ∧ (t.ctxAt p k).flow.stopB = s.now ∧ t.mem = s.mem) ∧
    (x.cfg.free = false → (s.coreAt p).taken k = false → x.flow.sync = none → x.bay.redo = false →
      (x.st = .stopped → n + (x.flow.stopB - x.flow.stopAt.getD x.flow.stopB) ≤ s.now → Leads (.contextResume p k n) s fun t =>
        (t.ctxAt p k).st = .running ∧ (t.ctxAt p k).flow.nextAt = x.flow.nextAt + (s.now - x.flow.stopB) ∧
        (t.ctxAt p k).cfg.ttoff = x.cfg.ttoff + BitVec.ofNat 64 (s.now - x.flow.stopB) ∧ t.mem = s.mem ∧
        ∀ e ∈ x.dust, ∃ d ∈ t.agenda, d.cyc = s.now - 1 + e.k ∧ d.ev = .dustSheetLand e.land) ∧
      (x.st = .debug →
        (Leads (.debugGo p k) s fun t => (t.ctxAt p k).st = .running ∧ (t.ctxAt p k).flow.resumed = true ∧ (t.ctxAt p k).flow.step = false ∧ t.mem = s.mem) ∧
        (Leads (.debugStep p k) s fun t => (t.ctxAt p k).st = .running ∧ (t.ctxAt p k).flow.resumed = true ∧ (t.ctxAt p k).flow.step = true ∧ t.mem = s.mem))) ∧
    (x.stopped = false → x.bay.redo = true → Leads (.bayReexecute p k) s fun t => (t.ctxAt p k).bay.redo = false ∧
      (t.ctxAt p k).cfg.dv = (if x.cfg.free then x.cfg.dv else x.cfg.dv + (s.now - x.bay.first.getD s.now)) ∧ Quiet s t)

/-- The stream behind a group (R52, R62, R68, R71) and an encoding that no group may hold (R43). -/
def Sys2Proof.Claim.FlowEvents : Prop :=
  ∀ (s : State) (p k target e reason pos : Nat) (r : Roll), Present s p k →
    let x := s.ctxAt p k
    (x.flow.snag = none → Leads (.withheldGroupIssue p k) s fun t => t.ctxAt p k = { x with flow := { x.flow with held := none } } ∧ Quiet s t) ∧
    (x.regs.loops = [] → x.flow.ilkExit = none →
      (Leads (.branchTransfer p k target) s fun t =>
        (t.ctxAt p k).flow = { x.flow with bundle := target, pos := 0, xfer := none } ∧ (t.ctxAt p k).regs.s = x.regs.s ∧ Quiet s t) ∧
      (x.flow.roll = some r → Leads (.rollComplete p k) s fun t =>
        (t.ctxAt p k).flow = { x.flow with bundle := r.first + r.length, pos := 0, roll := none } ∧ Quiet s t)) ∧
    (x.flow.roll = some r → Leads (.rollIterationEnd p k) s fun t => ∃ n, (t.ctxAt p k).flow = { x.flow with bundle := r.first, pos := 0, roll := some n } ∧
      n.g = 0 ∧ Quiet s t) ∧
    (x.flow.ilkExit = none → exec (.ilkLoopExit p k) s = .next s) ∧
    (x.flow.ilkExit = some e → s.now + 1 ≤ e → Leads (.ilkLoopExit p k) s fun t => t.ctxAt p k = { x with flow := { x.flow with nextAt := e } } ∧ Quiet s t) ∧
    exec (.illegalEncoding reason pos) s = .next (s.takeTrap (s.fault 0x0101 0 (BitVec.ofNat 64 reason) (BitVec.ofNat 64 pos)))

/-- Fault injection (R316, R317): MODE 0 drops an injection, MODE 1 arms one, MODE 2 flips one bit of a check word and counts as fired;
no byte of memory changes. -/
def Sys2Proof.Claim.FaultInjection : Prop :=
  ∀ (s : State) (p k : Nat) (v : Word), Present s p k →
    let x := s.ctxAt p k
    (Leads (.finjOff p k v) s fun t => t.ctxAt p k = { x with cfg := { x.cfg with finj := finjWritten v, finjLeft := 0 } } ∧ Quiet s t) ∧
    (Leads (.finjArray p k v) s fun t => t.ctxAt p k = { x with cfg := { x.cfg with finj := finjWritten v, finjLeft := finjNth v } } ∧ Quiet s t) ∧
    (Leads (.finjSector p k v) s fun t => t.mem = s.mem ∧ (t.ctxAt p k).cfg.finj.getLsbD 63 = true ∧
      ∀ a, syndrome t.bad a = if a = unitBase p + 64 * finjSectorNo v then syndrome s.bad a ^^^ BitVec.ofNat 32 (2 ^ finjBit v) else syndrome s.bad a)

/-- The stream behind a group, an illegal encoding, and fault injection. Choices of the model that it rests on: logs 5, 8 and 20. -/
def Obligations.StreamEvents : Prop := Claim.FlowEvents ∧ Claim.FaultInjection

/-- Plumb lines (R53, R54): a line completes when every member core asserts and fixes G; each member resumes at G, a timetable member
on a timetable moved by G − due; a member that waits past its limit traps with SLIP. Choices of the model that it rests on: log 25. -/
def Obligations.PlumbEvents : Prop :=
  ∀ (s : State) (n line scope p k : Nat) (w : SyncWait),
    let ws := s.waiters n line scope
    let x := s.ctxAt p k
    (ws ≠ [] → s.lineFull n line scope = true → (∀ m ∈ ws, m.2.1.stopped = false) →
      (∀ m ∈ ws, m.2.1.cfg.free = false → resumeCycle ws - (leastDue ws).getD (resumeCycle ws) ≤ m.2.1.cfg.slack.toNat) →
      Leads (.plumbLineComplete n line scope) s fun t => (∃ d ∈ t.agenda, d.cyc = resumeCycle ws ∧ d.ev = .syncResume n line scope (resumeCycle ws)) ∧
        Quiet s t ∧ t.hub = s.hub) ∧
    (Present s p k →
      (∀ ys, s.lineCores n line scope = [s.coreAt p] → (s.coreAt p).ctxs = x :: ys → (∀ y ∈ ys, y.flow.sync = none) → x.flow.sync = some w → w.line = line → w.scope = scope →
        w.g = some s.now → x.stopped = false → x.cfg.free = false → Leads (.syncResume n line scope s.now) s fun t =>
          (t.ctxAt p k).flow.sync = none ∧ (t.ctxAt p k).flow.nextAt = s.now ∧ (t.ctxAt p k).cfg.dv = 0 ∧
          (t.ctxAt p k).cfg.ttoff = x.cfg.ttoff + BitVec.ofNat 64 (s.now - w.due) ∧ (t.ctxAt p k).regs = x.regs.flipPhase w.domain ∧ Quiet s t) ∧
      (ws = [(p, x, w)] → x.flow.sync = some w → x.stopped = false → x.cfg.free = false →
        (s.now < w.due + x.cfg.slack.toNat + 1 → exec (.syncWaitLimit n line scope) s = .next s) ∧
        (w.due + x.cfg.slack.toNat + 1 ≤ s.now → Leads (.syncWaitLimit n line scope) s fun t => (t.ctxAt p k).st = .trapped ∧ t.mem = s.mem)))

/-! ## Events of the array and of the engines -/

/-- Landings of the array and of the accumulator port (R189, R190, R192, R193, R201, R204, R224): a row of an mma is the FP32 sum with
the row before it, or a replacement; an element drained to lanes lands in its lane, or stays in the drain stage of a context that stops; a port write changes its own lanes; a read lands in the next cycle, later by as
much as a stop has put it off. Other rows and memory are unchanged. Choices of the model that it rests on: log 27. -/
def Obligations.ArrayLandings : Prop :=
  ∀ (s : State) (r : RowLand) (d : DrainLand) (b : BldLand) (o : PortOp) (p q i : Nat),
    ((s.coreAt p).phys = p → Leads (.mmaTileRetire p q i) s fun t => (t.coreAt p).arrayUntil = min (s.coreAt p).arrayUntil s.now ∧ Quiet s t) ∧
    ((s.coreAt r.core).phys = r.core → r.flip = none →
      let row := fun (t : State) => (t.coreAt r.core).accRow r.bank r.row
      let lands := fun (t : State) => (∀ l, l < 128 → lane (row t) l =
          if r.acc then BitVec.ofNat 32 (add32 (lane (row s) l).toNat ((r.t[l]?).getD 0).toNat) else (r.t[l]?).getD 0) ∧
        (∀ bank n, (bank, n) ≠ (r.bank, r.row) → (t.coreAt r.core).accRow bank n = (s.coreAt r.core).accRow bank n) ∧ Quiet s t
      Leads (.mmaRowLand r) s lands ∧ Leads (.mmaExtraRowLand r) s lands) ∧
    (Present s d.core d.ctx →
      let x := s.ctxAt d.core d.ctx
      let result : Landing :=
        { core := d.core, ctx := d.ctx, res := .v d.reg (BitVec.ofNat 128 (2 ^ d.lane)) (Vector.replicate 128 d.val), tag := mkTag 5 0 d.fmt 0
          bay := d.bay, seq := d.seq, frame := none }
      ((s.coreAt d.core).stopsNow s.now d.ctx = false → Leads (.mmaDrainLand d) s fun t =>
        t.ctxAt d.core d.ctx = x.putLanding result ∧ Quiet s t ∧ t.agenda = s.agenda) ∧
      ((s.coreAt d.core).stopsNow s.now d.ctx = true → Leads (.mmaDrainLand d) s fun t =>
        t.ctxAt d.core d.ctx = { x with drain := x.drain ++ [{ elem := d, k := 1 }] } ∧ Quiet s t ∧ t.agenda = s.agenda)) ∧
    ((s.coreAt b.core).phys = b.core → b.slice < 8 → Leads (.bldLand b) s fun t => Quiet s t ∧
      (if (s.coreAt b.core).roles.live then (t.coreAt b.core).wbuf0[b.slice]? else (t.coreAt b.core).wbuf1[b.slice]?) = some b.bytes ∧
      (t.coreAt b.core).roles = (s.coreAt b.core).roles.load b.slice) ∧
    ((s.coreAt p).phys = p → (s.coreAt p).roles.pending = true → (s.coreAt p).arrayUntil ≤ s.now → Leads (.swapPerform p) s fun t =>
      (t.coreAt p).roles = (s.coreAt p).roles.exchange ∧ Quiet s t) ∧
    ((s.coreAt o.core).phys = o.core →
      let row := fun (t : State) => (t.coreAt o.core).accRow o.bank o.row
      let writes := fun (v : Nat → W32) => Leads (.accPortPerform o) s fun t =>
        (∀ l, l < 128 → lane (row t) l = if o.mask.getLsbD l then v l else lane (row s) l) ∧
        (∀ bank n, (bank, n) ≠ (o.bank, o.row) → (t.coreAt o.core).accRow bank n = (s.coreAt o.core).accRow bank n) ∧ Quiet s t
      (∀ x, o.kind = .wr x → writes (lane x)) ∧
      (∀ x, o.kind = .add x → writes fun l => BitVec.ofNat 32 (add32 (lane (row s) l).toNat (lane x l).toNat)) ∧
      (o.kind = .clr → writes fun _ => 0) ∧
      (∀ v, o.kind = .rd v → (s.ctxAt o.core o.ctx).stopped = false → Leads (.accPortPerform o) s fun t => Quiet s t ∧
        ∃ e ∈ t.agenda, ∃ l, e.cyc = s.now + 1 + o.late ∧ e.ev = .registerResultLand l ∧ l.res = .v v o.mask (row s) ∧ l.core = o.core ∧ l.ctx = o.ctx))

/-- The engines' own events (R207, R211, R215, R217, R218): a copy starts when the stream before it has ended; at its release its runs
are what memory holds and every other byte is as before, unless it meets a frame on its way or the source of a link command
(R246, R281); an entry joins the window, merges with its like (never with W = 1), or performs on one word. Choices of the model that it rests on: logs 12, 17, 31 and 44. -/
def Obligations.EngineEvents : Prop :=
  ∀ (s : State) (c : CopyCmd) (h : SaCmd) (e : SaEntry) (p : Nat) (rest : List (CopyCmd ⊕ Chain)),
    ((s.coreAt p).phys = p → s.chainOf p = none → (s.coreAt p).copy.queue = .inl c :: rest → c.core = p → (s.coreAt p).pauses c.ctx = false →
      s.copyAwaited p = false → max (s.coreAt p).copy.streamEnd c.start ≤ s.now → s.heldByMove (queuedFrames (.inl c)) = false →
      Leads (.copyCommandStart p) s fun t => Quiet s t ∧ ∃ d ∈ t.agenda, d.cyc = (copyTimed s.now c).release ∧ d.ev = .copyRelease (copyTimed s.now c)) ∧
    (s.heldByMove (c.runs.map (·.addr)) = false → s.sourceRace 1 (c.runs.map fun r => (r.addr, r.bytes.length)) = false →
      Leads (.copyRelease c) s fun t => t.hostMem = s.hostMem ∧ (∀ a, (∀ r ∈ c.runs, a < r.addr ∨ r.addr + r.bytes.length ≤ a) → byteAt t a = byteAt s a) ∧
      ∀ pre r post, c.runs = pre ++ r :: post → (∀ q ∈ post, q.addr + q.bytes.length ≤ r.addr ∨ r.addr + r.bytes.length ≤ q.addr) →
        readRun t.mem r.addr r.bytes.length = r.bytes) ∧
    ((s.coreAt p).phys = p → (s.coreAt p).sa.window = [] → 0 < (s.coreAt p).sa.w →
      Leads (.saEntryArrive p e) s fun t => (t.coreAt p).sa.window = [e] ∧ Quiet s t) ∧
    (∀ x, (s.coreAt p).phys = p → (s.coreAt p).sa.window = [x] → x.ctx = e.ctx →
      (saMerges e x = true → (s.coreAt p).sa.w ≠ 1 → Leads (.saEntryArrive p e) s fun t =>
        (t.coreAt p).sa.window = [{ x with val := saApply e.op e.ty x.val e.val }] ∧ Quiet s t) ∧
      ((s.coreAt p).sa.w = 1 → (∀ d ∈ s.agenda, ∀ y, d.ev = .saRetirePerform p y → saElem y ≠ saElem x) → Leads (.saEntryArrive p e) s fun t => (t.coreAt p).sa.window = [e] ∧ Quiet s t ∧
        ∃ d ∈ t.agenda, d.cyc = s.now + 8 ∧ d.ev = .saRetirePerform p x)) ∧
    (let a := e.base + 4 * e.idx
     let v := saApply e.op e.ty (BitVec.ofNat 32 (readLe s.mem a 4)) e.val
     s.sourceRace 1 [(a, 4)] = false → Leads (.saRetirePerform p e) s fun t => (∀ b, b < a ∨ a + 4 ≤ b → byteAt t b = byteAt s b) ∧ readLe t.mem a 4 = v.toNat) ∧
    (isSaWake h = false → h.release ≤ s.now → h.dropped = 0 → exec (.sarunRelease h) s = .next s) ∧
    (isSaWake h = false → h.release ≤ s.now → h.dropped ≠ 0 → Present s h.core h.ctx → (s.ctxAt h.core h.ctx).flow.doomed = none →
      Leads (.sarunRelease h) s fun t => t.mem = s.mem ∧ ∃ r, (t.ctxAt h.core h.ctx).flow.doomed = some r ∧ r.code = 0x0705)

/-- The entries of a chain (R213, R214): END frees the engine; COPY starts a copy and goes on; LOOP opens a loop; SKIPP and SKIPF skip by
a latched predicate bit and by a flag word; a reserved type is a fault of the chain, by which its context will trap. -/
def Sys2Proof.Claim.ChainEntryKinds : Prop :=
  ∀ (s : State) (p : Nat) (h : Chain), (s.coreAt p).phys = p → s.chainOf p = some h → h.loops = [] →
    let w := s.entryWord h
    let n := (w 0).toNat
    let next := fun (t : State) (pos : Nat) (loops : List ChainLoop) => t.mem = s.mem ∧
      t.chainOf p = some { h with pos := pos, loops := loops, processed := h.processed + 1, next := s.now + 2 } ∧
      ∃ d ∈ t.agenda, d.cyc = s.now + 2 ∧ d.ev = .copyCommandStart p
    (zeroAbove 4 (w 0) = true → zeroFrom 1 w = true → (s.coreAt p).copy.queue = [] → Leads (.chainEnd p) s fun t => t.chainOf p = none ∧
      (t.coreAt p).copy.streamEnd = max (s.coreAt p).copy.streamEnd (s.now + 2) ∧ t.mem = s.mem) ∧
    (let k := n / 16 % 256
     let count := n / 2 ^ 16 % 2 ^ 16
     n < 2 ^ 32 → n / 2 ^ 12 % 16 = 0 → zeroFrom 3 w = true → k ≠ 0 → count ≠ 0 → Leads (.chainLoop p) s fun t =>
       next t (h.pos + 1) [{ first := h.pos + 1, body := k, iter := 0, count := count, srcStep := w 1, dstStep := w 2 }]) ∧
    (n < 2 ^ 25 → zeroFrom 1 w = true → Leads (.chainSkipp p) s fun t =>
      let bit := ((h.preds[n / 2 ^ 12 % 32]?).getD 0).getLsbD (n / 2 ^ 17 % 128)
      next t (h.pos + 1 + if bit = (w 0).getLsbD 24 then 0 else n / 16 % 256) []) ∧
    (let off := (w 1).toNat
     n < 2 ^ 27 → n / 2 ^ 12 % 2 ^ 12 = 0 → zeroFrom 3 w = true → off + 8 ≤ 2 ^ 19 → off % 8 = 0 → (s.seenBy p h.ctx).own 2 true false 0 0 off 8 = .go →
     syndrome s.bad (sectorOf (unitBase p + off)) = 0 → Leads (.chainSkipf p) s fun t => next t (h.pos + 1 +
       if condHolds (condAt (n / 2 ^ 24 % 8)) (BitVec.ofNat 64 (readLe s.mem (unitBase p + off) 8)) (w 2) then n / 16 % 256 else 0) []) ∧
    (∀ op, chainOp (w 0) = some op → zeroAbove 7 (w 0) = true → w 7 = 0 →
      (s.seenBy p h.ctx).copySteps op (copyWords w h.ac) (specOf op (copyWords w h.ac)) = .go →
      s.heldByMove (queuedFrames (.inl ((s.seenBy p h.ctx).copyCmd (specOf op (copyWords w h.ac)) 0 none true))) = false → Leads (.chainCopy p) s fun t => next t (h.pos + 1) [] ∧
        ∃ d ∈ t.agenda, ∃ c, d.ev = .copyRelease c ∧ c.chained = true ∧ c.start = max (s.now + 2) (s.coreAt p).copy.streamEnd) ∧
    (Present s p h.ctx → (s.ctxAt p h.ctx).flow.doomed = none → (s.coreAt p).copy.queue = [] → Leads (.chainReservedEntry p) s fun t =>
      t.chainOf p = none ∧ t.mem = s.mem ∧ ∃ r, (t.ctxAt p h.ctx).flow.doomed = some r ∧ r.code = 0x0702 ∧ r.sev = 3)

/-- The boundary before each entry of a running chain (R213, R214, R226, R281): a halting chain ends there; one that has done 4,096 entries, or
whose next entry stands beyond the unit scratchpad, is foreign to its context or fails its check, is a fault of the chain; else the entry
is processed by its type. A chain whose context has stopped gives way; bytes still to come by a link command are a data race. -/
def Sys2Proof.Claim.ChainBoundary : Prop :=
  ∀ (s : State) (p : Nat) (h : Chain), (s.coreAt p).phys = p → s.chainOf p = some h →
    let off := chainOff h
    let mine := (s.seenBy p h.ctx).own 2 true false 0 0 off 64
    let type := (s.entryWord h 0).toNat % 16
    let faults := fun (code : Nat) => Present s p h.ctx → (s.ctxAt p h.ctx).flow.doomed = none → Leads (.copyCommandStart p) s fun t =>
      t.chainOf p = none ∧ t.mem = s.mem ∧ ∃ r, (t.ctxAt p h.ctx).flow.doomed = some r ∧ r.code = code ∧ r.sev = 3
    (s.chainRace p = true → exec (.copyCommandStart p) s = .fault .dataRace) ∧
    (s.chainRace p = false → (s.coreAt p).pauses h.ctx = true → (s.coreAt p).copy.queue = [] → Leads (.copyCommandStart p) s fun t =>
      t.chainOf p = none ∧ (t.coreAt p).copy.queue = [.inr { h with next := s.now }] ∧ Quiet s t) ∧
    (s.chainRace p = false → (s.coreAt p).pauses h.ctx = false →
      ((s.coreAt p).copy.queue = [] →
        (h.halting = true → Leads (.copyCommandStart p) s fun t => t.chainOf p = none ∧ Quiet s t ∧ t.hub = s.hub) ∧
        (h.halting = false → 4096 ≤ h.processed → faults 0x0703) ∧
        (h.halting = false → h.processed < 4096 → 2 ^ 19 < off + 64 → faults 0x0602) ∧
        (h.halting = false → h.processed < 4096 → off + 64 ≤ 2 ^ 19 →
          (∀ r, mine = .trap r → faults r.code) ∧
          (mine = .go → syndrome s.bad (unitBase p + off) ≠ 0 → faults 0x0C01))) ∧
      (h.halting = false → h.processed < 4096 → off + 64 ≤ 2 ^ 19 →
        (∀ w, mine = .hold w → Leads (.copyCommandStart p) s fun t => OnlyAgenda s t ∧ Coming t (s.now + 1) (.copyCommandStart p)) ∧
        (mine = .go → syndrome s.bad (unitBase p + off) = 0 →
          exec (.copyCommandStart p) s = exec (if type = 0 then .chainEnd p else if type = 1 then .chainCopy p else if type = 2 then .chainLoop p
            else if type = 3 then .chainSkipp p else if type = 4 then .chainSkipf p else .chainReservedEntry p) s)))

/-- The entries of a chain, and the boundary before each. Choices of the model that it rests on: logs 17, 32 and 33. -/
def Obligations.ChainEntries : Prop := Claim.ChainEntryKinds ∧ Claim.ChainBoundary

/-! ## Events of trowels, links and groups -/

namespace Sys2Proof.Claim

open Sys2Proof Sys2Proof.Machine

/-- Entry t of the trowel board of core p. -/
def boardAt (s : State) (p t : Nat) : TEntry := ((s.coreAt p).board[t]?).getD TEntry.empty

/-- The trowel-table record of an entry's trowel, in partition n. -/
def recAt (s : State) (n : Nat) (e : TEntry) : Option TRec := (s.partAt n).recOf e

/-- Memory differs at most in the n bytes from a on; host memory does not. -/
def Writes (s t : State) (a n : Nat) : Prop := t.hostMem = s.hostMem ∧ ∀ b, b < a ∨ a + n ≤ b → byteAt t b = byteAt s b

/-- The port of a flit takes it: not retraining, and the flit is sound and the next of its sequence (R282, R283). -/
def Taken (s : State) (f : Flit) (p : Port) : Prop :=
  s.hub.ports[f.port]? = some p ∧ p.retraining = false ∧ sound f = true ∧ BitVec.ofNat 16 f.seqNo = p.got + 1

/-- Microseconds since the flit was made, modulo 2^16 (R283). -/
def ageOf (s : State) (f : Flit) : Nat := (s.micros + 2 ^ 16 - f.age % 2 ^ 16) % 2 ^ 16

/-- A flit arrives for this chip on channel c of partition n, of the channel's own generation (R269, R283, R284). -/
def Arrives (s : State) (f : Flit) (n : Nat) (c : ChanRec) : Prop :=
  (∃ p, Taken s f p) ∧ ageOf s f ≤ 64 ∧ f.dst = s.chip ∧ s.channelOf f = some n ∧ s.chan n f.ch = some c ∧ c.loaded = true ∧ c.gen.toNat = f.gen

/-- The context will trap with a record of this code (R278). -/
def Doomed (t : State) (p k code : Nat) : Prop := ∃ r, (t.ctxAt p k).flow.doomed = some r ∧ r.code = code ∧ r.sev = 3

/-- The context that issued a command still runs its launch, and no fault waits for it. -/
def Issuer (s : State) (p : Nat) (l : LinkCmd) : Prop :=
  let x := s.ctxAt p l.ctx
  x.id = l.ctx ∧ x.cfg.launch = l.tag ∧ x.st ≠ .empty ∧ x.flow.doomed = none

/-- Command id of core p waits for none of a chunk's acknowledgements. -/
def NotAwaited (t : State) (p id chunk : Nat) : Prop := ∀ l, t.findLink p id = some l → l.unacked.contains chunk = false

/-- Command id of core p waits for a chunk's acknowledgement no more, commands with nothing left to do are gone, and the core's other
commands are as they were (R277). -/
def Settled (s t : State) (p id chunk : Nat) : Prop :=
  (t.coreAt p).link.cmds = (listMod (fun l => l.issue == id) (fun l => { l with unacked := l.unacked.filter (· != chunk) })
    (s.coreAt p).link.cmds).filter fun l => !linkDone s.now l

end Sys2Proof.Claim

/-- Trowels and swatches on their way (R172, R173, R174, R176, R178): a lent trowel leaves the lender's entry and stands in the target's
under the next generation, and the table's record names the target; tret brings it home; a swatch arrives, is revoked or is given
up; tclean.zero leaves zeros in the region and nowhere else, but not while a frame of it is on its way (R246), and two cycles behind the commit the swatches of a cleaned trowel are clean. What is on
its way finds its entry also where the context has been moved out (R224). Choices of the model that it rests on: logs 21, 28, 30 and 53. -/
def Obligations.OwnershipEvents : Prop :=
  ∀ (s : State) (m : TrowelMove) (w : SwatchMove) (x : TEntry) (p t : Nat) (r : TRec), (s.coreAt p).phys = p → t < 64 →
    let n := (s.coreAt p).partNo
    let e := boardAt s p t
    let gen := (r.gen + 1) % 256
    ((s.coreAt m.fromCore).phys = m.fromCore → (s.coreAt m.toCore).phys = m.toCore → m.fromEntry < 64 → m.toEntry < 64 → m.flushed = true →
      let n := (s.coreAt m.fromCore).partNo
      let was := boardAt s m.fromCore m.fromEntry
      let tgt := boardAt s m.toCore m.toEntry
      was.kind = 1 → was.state = 2 → sameRegion was m.trowel = true → tgt.kind = 1 → tgt.state = 1 → sameRegion tgt m.trowel = true →
      recAt s n m.trowel = some r → r.gen % 256 = m.trowel.gen % 256 → Leads (.trowelArrive m) s fun t =>
        boardAt t m.fromCore m.fromEntry = TEntry.empty ∧
        boardAt t m.toCore m.toEntry =
          { tgt with state := if m.toEngine then 4 else 0, ctx := tgt.ctx % 4, gen := gen, taint := r.taint, swatch := r.swatch } ∧
        recAt t n m.trowel = some { r with gen := gen, holder := .board m.toCore m.toEntry } ∧ Quiet s t ∧ t.agenda = s.agenda) ∧
    (m.flushed = false →
      (s.lenderBusy m.fromCore m.trowel = true → Leads (.trowelArrive m) s fun t => Coming t (s.now + 1) (.trowelArrive m) ∧ OnlyAgenda s t) ∧
      (s.lenderBusy m.fromCore m.trowel = false → Leads (.trowelArrive m) s fun t =>
        Coming t (s.now + lendLatency m.fromCore m.toCore) (.trowelArrive { m with flushed := true }) ∧ OnlyAgenda s t)) ∧
    (∀ key f, key % 64 = t → s.findEntry p t (returning key) = some f → recAt s n f = some r → r.gen % 256 = f.gen % 256 →
      Leads (.trowelHome p key true) s fun u => (f = e → boardAt u p t = TEntry.empty) ∧
        recAt u n f = some { r with gen := gen, holder := .home } ∧ Quiet s u) ∧
    (let flag := unitBase p + 8 * (s.coreAt p).remoteFlag t
     ∀ g, let lent := s.findEntry p t fun f => f.kind == 1 && f.state == 5 && s.ackFits n g f
      (lent = none → exec (.remoteLendAck p t g) s = .next s) ∧
      ∀ f, lent = some f → recAt s n f = some r →
        (s.lenderBusy p f = true → exec (.remoteLendAck p t g) s = .next s) ∧
        (s.lenderBusy p f = false → Leads (.remoteLendAck p t g) s fun u => recAt u n f = some { r with gen := (f.gen + 1) % 256 } ∧
          ((∀ v ∈ s.saved, v.core ≠ p) → boardAt u p t = TEntry.empty ∧ Writes s u flag 8 ∧ readLe u.mem flag 8 = (f.gen + 1) % 256))) ∧
    ((s.coreAt w.core).phys = w.core → w.entry < 64 →
      let f := boardAt s w.core w.entry
      (w.trowel.kind ≠ 2 → f.kind = 2 → f.state = 1 → sameRegion f w.trowel = true → Leads (.swatchArrive w) s fun u =>
        boardAt u w.core w.entry = { f with state := 0 } ∧ Quiet s u ∧ u.hub = s.hub ∧ u.agenda = s.agenda) ∧
      (w.trowel.kind = 2 → w.part = n → e.kind = 2 → sameRegion w.trowel e = true → e.gen % 256 = w.trowel.gen % 256 → Leads (.swatchArrive w) s fun u =>
        boardAt u p t = { e with taint := false } ∧ Quiet s u ∧ u.hub = s.hub ∧ u.agenda = s.agenda) ∧
      (w.part < 16 → recAt s w.part w.trowel = some r →
        (Leads (.swatchReturn w) s fun u => recAt u w.part w.trowel = some { r with swatch := r.swatch - 1 } ∧ Quiet s u) ∧
        (f.kind = 2 → sameRegion f w.trowel = true → Leads (.swatchRevoke w) s fun u =>
          boardAt u w.core w.entry = TEntry.empty ∧ recAt u w.part w.trowel = some { r with swatch := r.swatch - 1 } ∧ Quiet s u))) ∧
    (s.heldByMove ((s.regionRuns (s.coreAt p) x).map (·.1)) = false → Leads (.tcleanZeroDone p x) s fun u => u.hostMem = s.hostMem ∧
      ∀ a, byteAt u a = if (s.regionRuns (s.coreAt p) x).any (fun r => decide (r.1 ≤ a) && decide (a < r.1 + r.2)) then 0 else byteAt s a) ∧
    (s.heldByMove ((s.regionRuns (s.coreAt p) x).map (·.1)) = true → Leads (.tcleanZeroDone p x) s fun u =>
      OnlyAgenda s u ∧ Coming u (s.now + 1) (.tcleanZeroDone p x))

/-- The link layer of a port (R282, R283): the next sound flit in sequence is counted and answers what is asked for; another one is
dropped, and a flit asks the far end for a replay from the SEQ that is due; asked, the port sends nothing else before it has sent what it
keeps from that SEQ; the sixteenth failed replay of one SEQ retrains the port, which loses what it
kept and carries flits again within 20 µs. -/
def Sys2Proof.Claim.LinkLayer : Prop :=
  ∀ (s : State) (f : Flit) (q : Port), s.hub.ports[f.port]? = some q →
    let port := fun (t : State) => t.hub.ports[f.port]?
    let due := q.got + 1
    let took : Port := { q with got := due, asking := none, fails := 0, owed := q.owed + 1, replay := acked (BitVec.ofNat 16 f.ack) q.replay }
    let asks : Port := { q with
      sent := q.sent + 1, owed := 0
      replay := q.replay ++ [sealed { replayRequest s.chip due with
        port := f.port, seqNo := (q.sent + 1).toNat, ack := q.got.toNat, credit := q.owed % 2 ^ 16 }] }
    let down : Port := { q with asking := none, fails := 0, retraining := true, replay := [] }
    (Taken s f q → ageOf s f ≤ 64 → f.dst = s.chip →
      (f.desc < 2 ^ 16 → Leads (.idleFlit f) s fun t => Quiet s t ∧ t.agenda = s.agenda ∧ port t = some took) ∧
      (2 ^ 16 ≤ f.desc → Leads (.idleFlit f) s fun t => Quiet s t ∧ t.agenda = s.agenda ∧ ∃ m, port t = some { took with txAt := m } ∧ max s.now q.txAt ≤ m)) ∧
    (Taken s f q → 64 < ageOf s f → Leads (.flitAgeDiscard f) s fun t => Quiet s t ∧ t.agenda = s.agenda ∧ port t = some took) ∧
    (q.retraining = false → sound f = false → exec (.idleFlit f) s = exec (.faultyFlit f) s ∧ exec (.dataFlit f) s = exec (.faultyFlit f) s) ∧
    (q.asking ≠ some due → Leads (.faultyFlit f) s fun t => port t = some { asks with asking := some due, fails := 0 } ∧
      Quiet s t ∧ t.agenda = s.agenda) ∧
    (q.asking = some due → BitVec.ofNat 16 f.seqNo ≠ due → exec (.faultyFlit f) s = .next s) ∧
    (q.asking = some due → BitVec.ofNat 16 f.seqNo = due →
      (q.fails < 15 → Leads (.faultyFlit f) s fun t => port t = some { asks with fails := q.fails + 1 } ∧ Quiet s t ∧ t.agenda = s.agenda) ∧
      (15 ≤ q.fails → Leads (.faultyFlit f) s fun t => port t = some down ∧ Quiet s t)) ∧
    (Leads (.linkRetrain f.port) s fun t => port t = some down ∧ Quiet s t ∧
      ∃ c, s.now < c ∧ c ≤ s.now + s.us 20 ∧ Coming t c (.linkRetrainDone f.port)) ∧
    (Leads (.linkRetrainDone f.port) s fun t => Quiet s t ∧
      ∃ b, port t = some { q with retraining := false, sent := 0, got := 0, owed := 0, turning := b })

/-- Packets of a channel (R269, R274, R275, R277, R278, R284): a packet of a command not armed here waits; sectors of a receive land at
their offset and nowhere else, and wait at a frame on its way (R246); an acknowledgement ends the wait for its chunk; an arm is counted; an abort and a refusal doom
the context, with CHUNK_INCOMPLETE or PUT_REFUSED. -/
def Sys2Proof.Claim.LinkPackets : Prop :=
  ∀ (s : State) (f : Flit) (n p : Nat) (c : ChanRec) (l : LinkCmd), Arrives s f n c → s.coreOfChan n c.decl = some p → (s.coreAt p).phys = p →
    (f.cmd < 2 ^ 31 →
      (s.linkFor p f = none → c.arms ≤ f.cmd → Leads (.dataFlit f) s fun t => t.chan n f.ch = some { c with early := c.early ++ [f] } ∧ Quiet s t) ∧
      (s.linkFor p f = some l → l.core = p →
        (l.op = .recv → f.flagv.toNat = l.len → l.aborted.contains f.chunk = false → l.flagged.contains f.chunk = false →
          l.ring = none → Leads (.dataFlit f) s fun t =>
            let a := l.dst + (4096 * f.chunk + 64 * f.sect)
            let bs := f.data.flatMap (·.1)
            (s.heldByMove [a] = false → readRun t.mem a bs.length = bs ∧ Writes s t a bs.length) ∧
            (s.heldByMove [a] = true → t.mem = s.mem ∧ t.hostMem = s.hostMem)) ∧
        (l.flagged.contains f.chunk = false → l.aborted.contains f.chunk = false → Issuer s p l →
          Leads (.abortFlit f) s fun t => Doomed t p l.ctx 0x0804 ∧ t.mem = s.mem))) ∧
    (s.senderFor p f = some l →
      (Leads (.chunkAckFlit f) s fun t => Settled s t p l.issue f.chunk ∧ Quiet s t ∧ t.agenda = s.agenda) ∧
      (l.core = p → Issuer s p l → Leads (.refusalFlit f) s fun t =>
        Settled s t p l.issue f.chunk ∧ Doomed t p l.ctx 0x0806 ∧ t.mem = s.mem)) ∧
    ((s.coreAt p).link.cmds.find? (fun l => l.ch == f.ch && l.op == .send && !l.matched && !l.unacked.isEmpty) = none →
      Leads (.armNoticeFlit f) s fun t => t.chan n f.ch = some { c with far := c.far ++ [f.flagv.toNat] } ∧ Quiet s t)

/-- Flits at a port, and the packets of a channel. Choices of the model that it rests on: logs 29, 34, 35, 44 and 50. -/
def Obligations.LinkPackets : Prop := Claim.LinkLayer ∧ Claim.LinkPackets

/-- Events of link commands (R269, R272, R276, R277, R278, R279, R280): a matched send joins its channel's queue at its port and a
flit leaves in a cycle that the port gives it, with a chunk's 64 µs beginning with its first; a flag word takes the command's flag
value and no other byte changes; a chunk out of time dooms its context; a member of an all-reduce hands its result on and the
last one lands it; a chunk of a shard without a slot waits and another lands in its tile; what is left of a channel's commands ends with its hold; a put's RET brings the trowel back. Choices of the model that it rests on: logs 34, 35, 44, 50, 51, 52 and 53. -/
def Obligations.LinkCommandEvents : Prop :=
  (∀ (s : State) (p num i : Nat) (l : LinkCmd) (c : ChanRec) (acc : List (List Byte × W32)), (s.coreAt p).phys = p → num < 2 ^ 60 →
    s.findLink p num = some l → l.core = p → s.chan (s.coreAt p).partNo l.ch = some c →
    let part := (s.coreAt p).partNo
    let queued := fun (t : State) (fs : List OutFlit) => (t.chan part l.ch).map (·.out) = some (c.out ++ fs)
    let j := ringPlace s.chip c.decl
    let onward := fun (tag : Nat) (secs : List (List Byte × W32)) =>
      chunkFlits { s.packet 1 (nextChip s.chip c.decl) c l.num i with flagv := descWord l tag } none secs
    (isSender l.op = true →
      (l.matched = true → l.got = [] → l.lc ≤ s.now → s.sourceMoves l = false → Leads (.linkLocalComplete p l.ch num) s fun t =>
        queued t (l.unacked.flatMap fun k => chunkFlits (s.sendPacket 1 c l k) (some (p, num, k)) (chunkSectors l k)) ∧ Quiet s t) ∧
      (l.matched = false → s.sourceMoves l = false → exec (.linkLocalComplete p l.ch num) s = .next (s.reap p)) ∧
      (l.unacked.contains i = true → Issuer s p l → Leads (.chunkTimeout p l.ch num i) s fun t =>
        Settled s t p num i ∧ Doomed t p l.ctx 0x0804 ∧ queued t [{ flit := s.sendPacket 4 c l i, timer := none }] ∧ t.mem = s.mem) ∧
      (l.unacked.contains i = false → exec (.chunkTimeout p l.ch num i) s = .next s)) ∧
    (∀ (o : OutFlit) (r : List OutFlit) (q : Nat) (w : Port), c.out = o :: r → s.portFor o.flit.route = some q → s.hub.ports[q]? = some w →
      w.retraining = false → s.portMask part l.ch q ≠ 0 → ownedAt (s.portMask part l.ch q) (max s.now w.txAt) 1 = s.now →
      Leads (.linkLocalComplete 0 l.ch (turnId part)) s fun t => Quiet s t ∧ t.chan part l.ch = some { c with out := r, pumping := !r.isEmpty } ∧
        (∀ a b k, o.timer = some (a, b, k) → Coming t (s.now + s.us Config.chunkTime) (.chunkTimeout a l.ch b k)) ∧
        t.hub.ports[q]? = some { w with
          sent := w.sent + 1, owed := 0, txAt := s.now + 1
          replay := w.replay ++ [sealed { o.flit with
            port := q, seqNo := (w.sent + 1).toNat, ack := w.got.toNat, credit := w.owed % 2 ^ 16, age := s.micros % 2 ^ 16 }] }) ∧
    (l.flagged.contains i = false → l.aborted.contains i = false → (l.ring.isNone && s.heldByMove [l.dst + 4096 * i]) = false → Leads (.chunkFlagWrite p l.ch num i) s fun t =>
      readLe t.mem (l.flag + 8 * i) 8 = l.flagv.toNat ∧ Writes s t (l.flag + 8 * i) 8) ∧
    (l.unacked.contains i = true → l.ring = none →
      let own := chunkSectors l i
      let sum := if j = 0 then own else combineSectors c.decl acc own
      (j + 1 ≠ c.decl.order.length → Leads (.allredCombine p l.ch num i acc) s fun t => NotAwaited t p num i ∧ queued t (onward 0 sum) ∧ Quiet s t) ∧
      (j + 1 = c.decl.order.length → s.heldByMove [l.dst + 4096 * i] = false → Leads (.allredCombine p l.ch num i acc) s fun t => NotAwaited t p num i ∧ queued t (onward 1 sum) ∧
        (let bs := sum.flatMap (·.1)
         readRun t.mem (l.dst + 4096 * i) bs.length = bs ∧ Writes s t (l.dst + 4096 * i) bs.length))) ∧
    (∀ origin q,
      let first := fillPlace c.decl.order.length j origin * (l.len / 16384)
      let bs := acc.flatMap (·.1)
      l.ring = some q →
      (l.taken ≤ first + i / 4 → exec (.agfwdForward p l.ch num (origin, i) acc) s = .next s) ∧
      (∀ a, first + i / 4 < l.taken → l.landed.contains (shardChunk origin i) = false → l.aborted.contains i = false →
        s.tileAddr l q (first + i / 4) = some a → s.heldByMove [a + 4096 * (i % 4)] = false → Leads (.agfwdForward p l.ch num (origin, i) acc) s fun t =>
          (∃ m, t.findLink p num = some m ∧ m.landed.contains (shardChunk origin i) = true) ∧
          readRun t.mem (a + 4096 * (i % 4)) bs.length = bs ∧ Writes s t (a + 4096 * (i % 4)) bs.length))) ∧
  (∀ (d : ChanDecl) (a b : List Byte) (k : Nat), d.fmt = 4 → d.op = .add → a.length = 64 → k < 16 →
      leVal (((combineBytes d a b).drop (4 * k)).take 4) = (leVal ((a.drop (4 * k)).take 4) + leVal ((b.drop (4 * k)).take 4)) % 2 ^ 32) ∧
  (∀ (s : State) (part ch : Nat) (c : ChanRec), s.chan part ch = some c → Leads (.channelReuseHoldEnd part ch) s fun t =>
      t.chan part ch = some { c with heldUntil := 0, far := [], early := [], out := [] } ∧ Quiet s t ∧ t.agenda = s.agenda ∧
      ∀ q l, (t.coreAt q).partNo = part → l ∈ (t.coreAt q).link.cmds → l.ch ≠ ch) ∧
  (∀ (s : State) (part grant off sp loc g q k x : Nat) (r : TRec), s.grantLoc part grant off = some (sp, loc) → r.space ≠ 4 →
      (s.partAt part).trowels.find? (s.lentUnder part grant sp loc) = some r → r.holder = .remote g q k x → (s.coreAt q).phys = q → x < 64 →
      (s.coreAt q).entryFree none s.now x = true → (∀ v ∈ s.saved, v.takes q k r.launch = false) → Leads (.putTrowelReturn part grant off) s fun t => Quiet s t ∧
        boardAt t q x = { kind := 1, state := 0, ctx := k, taint := r.taint, swatch := r.swatch, space := r.space, gen := (r.gen + 1) % 256
                          loc := r.loc, count := r.count, launch := r.launch })

/-- Rounds at their home (R290, R293, R294, R297): a contribution under another GEN or check word is dropped; one behind its round is late; the
first opens the round, which closes when every member has come, or cannot come (R315), or a second has passed; a close decides each member against its
owner's budget; a release reaches a member by the link where its results lie in a frame of another chip (R244). -/
def Sys2Proof.Claim.RoundEvents : Prop :=
  ∀ (s : State) (w : AggWork) (g key : Nat) (r : Round), g < 64 →
    let e := s.group w.group
    (e.gen ≠ w.gen ∨ e.check ≠ w.crc →
      (e.home = s.chipId → e.hpart < 16 → Leads (.aggReachHome w) s fun t => (t.partAt e.hpart).stale = (s.partAt e.hpart).stale + 1 ∧ Quiet s t ∧
        t.hub.rounds = s.hub.rounds) ∧
      (e.home ≠ s.chipId → Leads (.aggReachHome w) s fun t => Quiet s t ∧ t.hub = s.hub)) ∧
    (e.gen = w.gen → e.check = w.crc → e.valid = true →
      (w.round < e.closed ∨ ∃ r, s.roundAt w.group (roundKey e.gen w.round) = some r ∧ r.gone.contains w.member = true) →
      Leads (.aggReachHome w) s fun t => ∃ u, exec (.aggLate w) s = .next u ∧ OnlyAgenda u t) ∧
    (e.gen = w.gen → e.check = w.crc → e.valid = true → e.closed ≤ w.round → s.roundAt w.group (roundKey e.gen w.round) = none →
      Leads (.aggReachHome w) s fun t =>
        t.roundAt w.group (roundKey e.gen w.round) = some { group := w.group, round := w.round, entry := e, opened := s.ticks, arrived := [w], gone := []
                                                            isClosed := false, included := [], absent := 0, audit := false, result := [] } ∧
        Coming t (s.now + s.us Config.roundTime) (.roundTimeout w.group (roundKey e.gen w.round)) ∧ Quiet s t) ∧
    (s.roundReady g key = false → exec (.roundClose g key) s = .next s ∧ exec (.roundTimeout g key) s = .next s) ∧
    (s.roundAt g key = some r → s.roundReady g key = true →
      let closes := fun (t : State) => (t.group g).closed = r.round + 1 ∧ (t.group g).lastTimeout = decide (r.arrived.length < r.entry.nmem) ∧
        (∃ c, s.now < c ∧ c ≤ s.now + s.us Config.roundTime ∧ Coming t c (.aggHomeRelease g key)) ∧ Quiet s t
      Leads (.roundClose g key) s closes ∧ Leads (.roundTimeout g key) s closes) ∧
    (∀ a x y, s.roundAt g key = some r → s.roundReady g key = true → r.arrived = [a] → a.who = some (x, y) →
      let o := memberOwner ((r.entry.mem[a.member]?).getD 0)
      let cost := r.entry.cost
      (cost ≤ (s.budget o).toNat → Leads (.roundClose g key) s fun t =>
        (t.budget o).toNat = (s.budget o).toNat - cost ∧ (t.roundAt g key).map (·.included) = some [a.member]) ∧
      ((s.budget o).toNat < cost → Leads (.roundClose g key) s fun t =>
        t.hub.budgets = s.hub.budgets ∧ (t.roundAt g key).map (·.included) = some [])) ∧
    (s.roundAt g key = some r → Leads (.aggHomeRelease g key) s fun t => Quiet s t ∧
      (∀ a ∈ r.arrived, Coming t (s.now + ((frameOf a.res).map s.farTime).getD 0) (.aggReleaseMember g key a.member)) ∧
      (r.entry.home = s.chipId → r.audit = true → (t.roundAt g key).map (·.result) = some ((List.range r.entry.elems).map fun i =>
        ((r.arrived.filter fun a => r.included.contains a.member).map fun a => (a.values[i]?).getD 0).foldl (· + ·) 0)))

/-- What a member of a round sees (R293, R297, R299, R305): a late one and an excluded one trap and get no result; an included one
gets status and results first, and its flag word, the round's number plus one, in a later cycle. -/
def Sys2Proof.Claim.MemberEvents : Prop :=
  ∀ (s : State) (a : AggWork) (g key p x : Nat) (r : Round), s.aggIssuer a = some (p, x) → Present s p x → (s.ctxAt p x).flow.doomed = none → g < 64 →
    (Leads (.aggLate a) s fun t => Doomed t p x 0x0903 ∧ (t.ctxAt p x).agg = none ∧ t.mem = s.mem) ∧
    (s.roundAt g key = some r → r.arrived.find? (fun b => b.member == a.member) = some a →
      (r.included.contains a.member = false → Leads (.aggReleaseMember g key a.member) s fun t =>
        (Doomed t p x 0x0901 ∨ (t.ctxAt p x).st = .trapped) ∧ (t.ctxAt p x).agg = none ∧ t.mem = s.mem) ∧
      (r.included.contains a.member = true → s.heldByMove [a.res] = false →
        (a.released = false → Leads (.aggReleaseMember g key a.member) s fun t =>
          Coming t (s.now + 1) (.aggReleaseMember g key a.member) ∧ Writes s t (a.res + 8) (56 + resultBytes a.rf * r.result.length) ∧
          readLe t.mem (a.res + 8) 8 % 2 ^ 7 = r.included.length % 128) ∧
        (a.released = true → Leads (.aggReleaseMember g key a.member) s fun t => (t.ctxAt p x).agg = none ∧ Writes s t a.res 8 ∧
          readLe t.mem a.res 8 = (r.round + 1) % 2 ^ 64))) ∧
    (Leads (.groupReuseHoldEnd g) s fun t => t.group g = { s.group g with heldUntil := 0 } ∧ Quiet s t ∧ t.agenda = s.agenda) ∧
    exec .stippleRekey s = .next { s with noise := s.noise + 1 } ∧ exec (.maskReseed p) s = .next { s with draws := s.draws + 1 }

/-- Rounds of an aggregation group, at their home and at a member. Choices of the model that it rests on: logs 11, 24, 36 and 44. -/
def Obligations.RoundEvents : Prop := Claim.RoundEvents ∧ Claim.MemberEvents

/-! ## Commands, launches, records, pages -/

namespace Sys2Proof.Claim

open Sys2Proof Sys2Proof.Machine

/-- Address of a byte of a partition's virtual memory, as its translation entry maps it (R236). -/
def virtAt (s : State) (n v : Nat) : Nat := frameBase (entryFrame ((s.partAt n).xlatEntry (v / 2 ^ 21))) + v % 2 ^ 21

/-- The pages of a virtual run are here: they live on this chip, and none of them moves (R244, R246). -/
def Here (s : State) (n v len : Nat) : Prop :=
  ∀ r ∈ s.vRuns n v len, ∀ f x, frameOf r.1 = some f → s.frame f = some x → x.moving = none ∧ x.far = none

/-- Queue q of partition n. -/
def queueAt (s : State) (n q : Nat) : Option Queue := (s.partAt n).queues[q]?

/-- The command of a queue is over: the queue may begin its next one, and the fence, where the command names one that is mapped for
writing, holds v (R324, R325). -/
def Ends (s t : State) (c : Cmd) (v : Word) : Prop :=
  (queueAt t c.part c.queue).map (·.active) = some none ∧
  (c.num 6 ≠ 0 → c.num 6 % 8 = 0 → Here s c.part (c.num 6) 8 → s.vFault c.part true (c.num 6) 8 = none → readLe t.mem (virtAt s c.part (c.num 6)) 8 = v.toNat)

/-- The command has completed. -/
def Completed (s t : State) (c : Cmd) : Prop := Ends s t c (c.word 7)

/-- The command has failed: bit 63 in its fence, and a record of the code. -/
def Failed (s t : State) (c : Cmd) (code : Nat) : Prop :=
  Ends s t c (c.word 7 ||| BitVec.ofNat 64 (2 ^ 63)) ∧ (t.hub.log.head?).map (·.code) = some code

/-- The partition and the queue of a command are parts of the machine, and it has its eight words. -/
def RealCmd (c : Cmd) : Prop := c.part < 16 ∧ c.queue < 8 ∧ c.words.length = 8

/-- A write is refused: ADMSTAT names its offset, nothing else of the hub changes (R322). -/
def Refused (s t : State) (offset : Nat) : Prop :=
  (∃ w : Word, w.getLsbD 0 = true ∧ w.toNat / 2 ^ 16 % 2 ^ 16 = offset % 2 ^ 16 ∧ t.hub = { s.hub with admstat := w }) ∧ Quiet s t ∧ t.agenda = s.agenda

/-- The CAUSE field of the reset-cause register has gained a bit (R337). -/
def CauseBit (s t : State) (k : Nat) : Prop := t.hub.resetCause.toNat % 256 = (s.hub.resetCause.toNat % 256) ||| 2 ^ k

/-- Every byte of the package's memory is as reset leaves it, every partition has no launch and no context is bound. -/
def Blank (t : State) : Prop :=
  t.mem = [] ∧ t.bad = [] ∧ (∀ n, n < 16 → (t.partAt n).launches = []) ∧ ∀ c ∈ t.allCores, ∀ x ∈ c.ctxs, x.st = .empty

end Sys2Proof.Claim

/-- Queues (R321, R323, R324, R325, R327): a poll takes the entry at HEAD; a TAIL write too far ahead is ignored, with its record; an
invalid command fails with CMD_INVALID; WAIT completes from its value on, fails on a fence with bit 63, and else, or while
the fence's page moves (R246), is looked at again in its queue's next slot. Choices of the model that it rests on: logs 22, 40 and 44. -/
def Obligations.QueueEvents : Prop :=
  ∀ (s : State) (n q : Nat) (v : Word) (c : Cmd) (u : Queue), n < 16 → q < 8 → RealCmd c → queueAt s n q = some u →
    let live := s.up && (s.partAt n).ctl.getLsbD 16
    let noPoll := ∀ d ∈ s.agenda, isPoll n q d.ev = false
    let noneDue := ∀ d ∈ s.agenda, isPoll n q d.ev = true → s.now < d.cyc
    (live = true → u.active = none → u.enabled = true → u.head ≠ u.tail → (u.base.toNat % 4 ≠ 0 → s.vMoves n u.headAt 64 = false) → Leads (.queuePoll n q) s fun t =>
      (queueAt t n q).map (·.head) = some (u.head + 1) ∧
      (∀ c : Cmd, u.base.toNat % 4 = 0 → c = { part := n, queue := q, words := s.entryWords n u, begun := false, mark := 0 } → c.valid = false → Failed s t c 0x0D06)) ∧
    (live = true → u.active = none → u.head = u.tail → exec (.queuePoll n q) s = .next s) ∧
    (live = false → exec (.queuePoll n q) s = .next s ∧ (noneDue → exec (.queueTailWrite n q v) s = .next s)) ∧
    (live = true → noneDue → ((v.setWidth 16 - u.head : BitVec 16)).toNat ≤ 2 ^ u.log2n.toNat → Leads (.queueTailWrite n q v) s fun t =>
      queueAt t n q = some { u with tail := v.setWidth 16 } ∧ Quiet s t ∧ (noPoll → Coming t (nextSlot s.now (pollSlot q)) (.queuePoll n q))) ∧
    (live = true → noneDue → 2 ^ u.log2n.toNat < ((v.setWidth 16 - u.head : BitVec 16)).toNat → Leads (.queueTailWrite n q v) s fun t =>
      queueAt t n q = some u ∧ Quiet s t ∧ (t.hub.log.head?).map (·.code) = some 0x0D08) ∧
    (Leads (.cmdInvalid c) s fun t => Failed s t c 0x0D06) ∧
    (s.vFault c.part false (c.num 1) 8 = none →
      let w := leVal (s.vRead c.part (c.num 1) 8)
      let here := Here s c.part (c.num 1) 8
      (here → 2 ^ 63 ≤ w → Leads (.wait c) s fun t => Failed s t c 0x0D07) ∧
      (here → c.num 2 ≤ w → w < 2 ^ 63 → Leads (.wait c) s fun t => Completed s t c) ∧
      (here ∧ w < c.num 2 ∧ w < 2 ^ 63 ∨ c.num 1 % 8 = 0 ∧ s.vMoves c.part (c.num 1) 8 = true → Leads (.wait c) s fun t => Quiet s t ∧ t.hub = s.hub ∧
        ((∀ d ∈ s.agenda, isPoll c.part c.queue d.ev = false) → Coming t (nextSlot s.now (pollSlot c.queue)) (.queuePoll c.part c.queue))))

/-- Commands that read or write memory (R17, R180, R291, R313, R315, R323, R325, R348): SIGNAL, BUDGET_READ, SCRUB, the quote and
TROWEL_RECLAIM put what they deliver in place, and complete. COPY_IN and COPY_OUT wait for a cycle of host DMA that the partition owns,
move their bytes with the last cycle they take, or once no page of theirs moves, and complete in their queue's next slot; a copy out over a sector that fails its check
delivers it as stored, and fails then. Choices of the model that it rests on: logs 4, 10, 11, 22, 40 and 49. -/
def Obligations.MemoryCommands : Prop :=
  ∀ (s : State) (c : Cmd), RealCmd c →
    let n := c.part
    let lone := c.num 6 = 0
    let wr := s.vFault n true (c.num 1) 8 = none
    (wr → Leads (.signal c) s fun t => Completed s t c ∧ (lone → c.num 1 % 8 = 0 → Here s n (c.num 1) 8 → readLe t.mem (virtAt s n (c.num 1)) 8 = c.num 2)) ∧
    (wr → Leads (.budgetRead c) s fun t => Completed s t c ∧ (lone → c.num 1 % 8 = 0 → Here s n (c.num 1) 8 → readLe t.mem (virtAt s n (c.num 1)) 8 =
      match (s.partAt n).owner with
      | none => 0
      | some o => (s.budget o).toNat)) ∧
    (let mask := s.dmaMask n
     let slot := nextSlot s.now (pollSlot c.queue)
     let own := ownedAt mask s.now 1
     let waits := fun (i : Instr) (cyc : Nat) (j : Instr) => Leads i s fun t => OnlyAgenda s t ∧ Coming t cyc j
     (c.mark = 0 → mask = 0 → waits (.copyIn c) slot (.copyIn { c with begun := false }) ∧ waits (.copyOut c) slot (.copyOut { c with begun := false })) ∧
     (c.mark = 0 → mask ≠ 0 →
       (s.vFault n true (c.num 2) (c.num 3) = none → (vPages (c.num 2) (c.num 3)).any (fun x => s.pageHeld n x.1) = false →
         (c.begun = false → waits (.copyIn c) (ownedAt mask s.now (max 1 ((c.num 3 + 255) / 256))) (.copyIn { c with begun := true })) ∧
         (c.begun = true → own ≠ s.now → waits (.copyIn c) own (.copyIn c)) ∧
         (c.begun = true → own = s.now → s.vMoves n (c.num 2) (c.num 3) = true → waits (.copyIn c) (ownedAt mask (s.now + 1) 1) (.copyIn c)) ∧
         (c.begun = true → own = s.now → Here s n (c.num 2) (c.num 3) → Leads (.copyIn c) s fun t => t.hostMem = s.hostMem ∧ Coming t slot (.copyIn { c with mark := 1 }) ∧
           (0 < c.num 3 → c.num 2 % 2 ^ 21 + c.num 3 ≤ 2 ^ 21 →
             readRun t.mem (virtAt s n (c.num 2)) (c.num 3) = readRun s.hostMem (c.num 1) (c.num 3)))) ∧
       (s.vFault n false (c.num 1) (c.num 3) = none → (vPages (c.num 1) (c.num 3)).any (fun x => s.pageHeld n x.1) = false →
         (c.begun = false → waits (.copyOut c) (ownedAt mask s.now (max 1 ((c.num 3 + 255) / 256))) (.copyOut { c with begun := true })) ∧
         (c.begun = true → own ≠ s.now → waits (.copyOut c) own (.copyOut c)) ∧
         (c.begun = true → own = s.now → s.vMoves n (c.num 1) (c.num 3) = true → waits (.copyOut c) (ownedAt mask (s.now + 1) 1) (.copyOut c)) ∧
         (c.begun = true → own = s.now → Here s n (c.num 1) (c.num 3) → Leads (.copyOut c) s fun t => t.mem = s.mem ∧
           t.hostMem = writeRun s.hostMem (c.num 2) (s.vRead n (c.num 1) (c.num 3)) ∧
           ((∀ r ∈ s.vRuns n (c.num 1) (c.num 3), s.failing (s.entryKey r.1) r.1 r.2 = []) → Coming t slot (.copyOut { c with mark := 1 })) ∧
           (∀ r a l, s.vRuns n (c.num 1) (c.num 3) = [r] → s.failing (s.entryKey r.1) r.1 r.2 = a :: l →
             Coming t slot (.copyOut { c with mark := a + 2 }))))) ∧
     (c.mark = 1 → (Leads (.copyIn c) s fun t => Completed s t c ∧ t.hostMem = s.hostMem) ∧
       (Leads (.copyOut c) s fun t => Completed s t c ∧ t.hostMem = s.hostMem)) ∧
     (1 < c.mark → (Leads (.copyIn c) s fun t => Failed s t c 0x0C01) ∧ (Leads (.copyOut c) s fun t => Failed s t c 0x0C01))) ∧
    (Leads (.scrub c) s fun t => Completed s t c ∧ (lone → ∀ k, c.num 1 ≤ k → k < c.num 1 + c.num 2 → ((s.partAt n).xlatEntry k).getLsbD 0 = true →
      (∀ x, s.frame (entryFrame ((s.partAt n).xlatEntry k)) = some x → x.moving = none) → ((t.partAt n).xlatEntry k).getLsbD 28 = false ∧ ∀ i, i < 2 ^ 21 → byteAt t (frameBase (entryFrame ((s.partAt n).xlatEntry k)) + i) = 0)) ∧
    (let quote := s.quote n (c.num 3) (s.vRead n (c.num 1) 48)
     Here s n (c.num 1) 48 → Here s n (c.num 2) quote.length → s.vFault n false (c.num 1) 48 = none → s.vFault n true (c.num 2) quote.length = none → Leads (.attestQuote c) s fun t => Completed s t c ∧
      (lone → c.num 2 % 2 ^ 21 + quote.length ≤ 2 ^ 21 → readRun t.mem (virtAt s n (c.num 2)) quote.length = quote)) ∧
    (∀ r : TRec, (s.partAt n).trowels[c.num 1]? = some r → r.count ≠ 0 → (∀ i, i < c.num 1 → (s.partAt n).trowels[i]? ≠ some r) →
      Leads (.trowelReclaim c) s fun t => Completed s t c ∧ (t.partAt n).trowels[c.num 1]? = some { r with gen := (r.gen + 1) % 256, holder := .home })

/-- A launch (R219, R328, R330): it fails with the code of the step that fails; else everything it binds is LOADED and starts at S,
20,000 cycles on, rounded up to a multiple of 64; a launch that finds a context not ready then is to end, with its record; one whose
contexts have all halted completes in the first harvest slot that finds all they started landed. Choices of the model that it rests on: logs 22, 24 and 41. -/
def Obligations.LaunchEvents : Prop :=
  ∀ (s : State) (c : Cmd) (im : Image) (l : Launch) (n tag : Nat), RealCmd c → n < 16 →
    let k := c.part
    let held := (s.partAt k).launches.any fun l => l.tag == c.num 2
    let live := fun (t : State) => ((t.partAt n).launches.find? fun l => l.tag == tag).map (·.running)
    let fails := fun (img : Option Image) (code : Nat) => Leads (.launch c img) s fun t => Failed s t c code
    fails none 0x0D05 ∧ (im.wf = false → fails (some im) 0x0D05) ∧ (im.wf = true → held = true → fails (some im) 0x0D06) ∧
    (∀ b, im.wf = true → held = false → (c.queue < 4 → s.yielding k (c.num 2) = []) → s.bindWith k im s.ctxEmpty true = some b →
      (s.saved = [] → s.reserveFor k im b = none → fails (some im) 0x0D03) ∧
      (∀ lines, s.saved = [] → s.reserveFor k im b = some lines → s.matched k im = false → fails (some im) 0x0D04) ∧
      (∀ lines, s.reserveFor k im b = some lines → s.matched k im = true → Leads (.launch c (some im)) s fun t =>
        ∃ S, s.now + 20000 ≤ S ∧ S < s.now + 20064 ∧ S % 64 = 0 ∧ Coming t S (.launchStart k (c.num 2)) ∧ t.hostMem = s.hostMem ∧
          ((t.partAt k).launches.find? fun l => l.tag == c.num 2).map (·.running) = some false)) ∧
    ((s.partAt n).launches.find? (fun l => l.tag == tag) = some l →
      (l.running = false → l.members.all s.readyAtStart = true → Leads (.launchStart n tag) s fun t => live t = some true ∧ Quiet s t ∧
        (∀ m ∈ l.members, Coming t s.now (.freeContextStart m.1)) ∧
        ∀ m ∈ l.members, (s.ctxAt m.1 m.2.1).cfg.free = false → Coming t s.now (.timetableStart m.1 m.2.1)) ∧
      (RealCmd l.cmd → l.running = false → l.members.all s.readyAtStart = false → Leads (.launchStart n tag) s fun t => Quiet s t ∧
        ((t.partAt n).launches.find? fun l => l.tag == tag).map (·.ending) = some true ∧ (t.hub.log.head?).map (·.code) = some 0x0D01 ∧
        ∃ cyc, Coming t cyc (.recordHarvest l.cmd.part)) ∧
      (l.running = true → exec (.launchStart n tag) s = .next s) ∧
      (RealCmd l.cmd → l.ending = false → (∀ m ∈ l.members, (s.ctxAt m.1 m.2.1).st = .halted ∧ (s.ctxAt m.1 m.2.1).cfg.launch = tag) →
        (l.members.any (fun m => s.unlanded m.1 m.2.1) = false → s.saved = [] → Leads (.launchRetire n tag) s fun t =>
          Completed s t l.cmd ∧ live t = none) ∧
        (l.members.any (fun m => s.unlanded m.1 m.2.1) = true → Leads (.launchRetire n tag) s fun t => OnlyAgenda s t ∧
          Coming t (nextSlot s.now harvestSlot) (.launchRetire n tag))))

/-- PREEMPT (R224, R226, R228, R231, R326): a stop and a hand-over fix P, a resume fixes Q, an eviction saves; each command goes on in
the next binding slot until all contexts it names are where it wants them; the successor's contexts start at S, or once no timetable context has their cores. Choices of the model that it rests on: logs 21, 22 and 39. -/
def Obligations.PreemptEvents : Prop :=
  ∀ (s : State) (c : Cmd) (l : Launch) (p k : Nat) (ms : List (Nat × Nat)), RealCmd c → s.named c = some ms →
    let later := { c with begun := true }
    (c.begun = false → plainPreempt c = true →
      (Leads (.preemptStop c) s fun t => Quiet s t ∧ Coming t (nextSlot s.now bindSlot) (.preemptStop later)) ∧
      (Present s p k → ms = [(p, k)] → (s.ctxAt p k).st = .running → (s.ctxAt p k).flow.stopAt = none → (s.ctxAt p k).flow.evict = none →
        Leads (.preemptStop c) s fun t => (t.ctxAt p k).flow.stopAt = some (s.now + c.offA)) ∧
      (s.namesSaved c = false → ms.all (fun m => s.stAt m == .stopped) = true → (∀ m ∈ ms, (s.ctxAt m.1 m.2).cfg.free = true ∨ (s.coreAt m.1).taken m.2 = false) →
        Leads (.preemptResume c) s fun t => Quiet s t ∧ Coming t (nextSlot s.now bindSlot) (.preemptResume later) ∧ ∀ m ∈ ms, Coming t (s.now + c.offA) (.contextResume m.1 m.2 (s.now + c.offA))) ∧
      ((s.evictStep c.part (c.num 1) (s.now + c.offA) ms none).2 = false → Leads (.preemptEvict c) s fun t =>
        Coming t (nextSlot s.now bindSlot) (.preemptEvict later))) ∧
    (c.begun = true →
      (ms.all (fun m => (s.stAt m).still) = true → Leads (.preemptStop c) s fun t => Completed s t c) ∧
      (ms.all (fun m => (s.stAt m).still) = false → Leads (.preemptStop c) s fun t => OnlyAgenda s t ∧
        Coming t (nextSlot s.now bindSlot) (.preemptStop c)) ∧
      (ms.any (fun m => s.stAt m == .stopped) = false → Leads (.preemptResume c) s fun t => Completed s t c) ∧
      ((s.evictStep c.part (c.num 1) (s.now + c.offA) ms none).2 = true → Leads (.preemptEvict c) s fun t => Completed s t c)) ∧
    (c.begun = false → plainPreempt c = false → (Leads (.preemptStop c) s fun t => Failed s t c 0x0D06) ∧
      (Leads (.preemptResume c) s fun t => Failed s t c 0x0D06) ∧ (Leads (.preemptEvict c) s fun t => Failed s t c 0x0D06)) ∧
    ((s.partAt c.part).launches.find? (fun l => l.tag == c.num 5) = some l →
      let busy := (s.successor c.part (c.num 5)).any s.coreBusy
      (c.begun = false → 16 ≤ c.offA → c.offA + 1200 ≤ c.offB → s.mayFollow ms l = true → Leads (.preemptSwitch c) s fun t => Quiet s t ∧
        Coming t (s.now + c.offA) (.preemptSwitch { later with mark := s.now })) ∧
      (c.begun = true → c.mark ≠ 0 → ms.all (fun m => (s.stAt m).still) = true → busy = false → Leads (.preemptSwitch c) s fun t => OnlyAgenda s t ∧
        ∃ S, S % 64 = 0 ∧ s.now + 64 ≤ S ∧ c.mark + c.offB ≤ S ∧ S < max (c.mark + c.offB) (s.now + 64) + 64 ∧
          Coming t S (.successorStart c.part l.tag S)) ∧
      (c.begun = true → c.mark ≠ 0 → (ms.all (fun m => (s.stAt m).still) = false ∨ busy = true) → Leads (.preemptSwitch c) s fun t => OnlyAgenda s t ∧
        Coming t (s.now + 1) (.preemptSwitch c)) ∧
      (c.begun = true → c.mark = 0 → Leads (.preemptSwitch c) s fun t => Completed s t c) ∧
      (l.ending = false → s.coreBusy l = true → Leads (.successorStart c.part (c.num 5) s.now) s fun t => OnlyAgenda s t ∧
        Coming t (s.now + 64) (.successorStart c.part (c.num 5) (s.now + 64))) ∧
      (∀ j, l.ending = false → s.coreBusy l = false → Present s p k → l.members = [(p, k, j)] → (s.ctxAt p k).st = .loaded → (s.ctxAt p k).cfg.free = false →
        Leads (.successorStart c.part (c.num 5) s.now) s fun t => (t.ctxAt p k).st = .running ∧
          (t.ctxAt p k).cfg.ttb = BitVec.ofNat 64 s.now ∧ (t.coreAt p).ctx.id = k))

/-- Records, mirrors and the profile page (R310, R323, R334, R342, R345): the harvest slot writes a record behind the ring's header and
raises W; a launch that is to end does so in the harvest slot that finds all its contexts stopped; a mirror takes its mask; an entry, which names the partition it was taken for, drains to its slice there, whose header counts it, or is lost. Choices of the model that it rests on: logs 11, 22, 24 and 37. -/
def Obligations.RecordEvents : Prop :=
  ∀ (s : State) (n p turn kind : Nat) (r : ErrRecord) (e tagged : List Byte) (rest : List (List Byte)), n < 16 → (s.coreAt p).phys = p →
    let w := (s.partAt n).ringW
    let f := (s.coreAt p).profile
    let part := leVal (tagged.take 1)
    let x := s.ctxAt p (leVal ((e.drop 2).take 1) % 4)
    let calm := (s.partAt n).launches = [] ∧ (s.partAt n).torn = false
    ((s.partAt n).pend = [r] → calm → r.sev ≠ 3 → (s.partAt n).pageFault true 0 = none → Here s n 0 64 → Leads (.recordHarvest n) s fun t =>
      (t.partAt n).ringW = w + 1 ∧ readLe t.mem (virtAt s n 0) 8 = (w + 1).toNat ∧
      readRun t.mem (virtAt s n (64 + 64 * (w.toNat % 32767))) 64 = recordBytes r ∧ Writes s t (virtAt s n 0) (2 ^ 21)) ∧
    ((s.partAt n).pend = [] → calm → Leads (.recordHarvest n) s fun t => Quiet s t ∧ t.agenda = s.agenda) ∧
    (∀ l, (s.partAt n).pend = [] → (s.partAt n).torn = false → (s.partAt n).launches = [l] → (s.partAt n).trowels = [] → l.ending = true →
      s.allStill l = true → RealCmd l.cmd → Leads (.recordHarvest n) s fun t => (t.partAt n).launches = [] ∧
        Ends s t l.cmd (l.cmd.word 7 ||| BitVec.ofNat 64 (2 ^ 63))) ∧
    (Leads (.capMirrorUpdate p) s fun t => t.coreAt p = { s.coreAt p with capm := (s.coreAt p).cap.capm.setWidth 64 } ∧ Quiet s t ∧ t.hub = s.hub) ∧
    (f.nextKind turn = none → exec (.profileDrain p turn) s = .next s) ∧
    (f.nextKind turn = some kind → f.buf[kind]? = some (tagged :: rest) → tagged.drop 1 = e →
      (part < 16 → (s.partAt part).pageFault true 1 = none → Here s part (2 ^ 21) 64 → p < 64 → e.length = (if kind ≤ 1 then 32 else 8) → Leads (.profileDrain p turn) s fun t =>
        let at_ := (f.written[kind]?).getD 0
        readRun t.mem (virtAt s part (sliceBase kind p + sliceEntry kind at_)) e.length = e ∧
        readLe t.mem (virtAt s part (sliceBase kind p)) 8 = (at_ + 1) % 2 ^ 64 ∧ (t.coreAt p).profile.buf[kind]? = some rest) ∧
      ((s.partAt part).pageFault true 1 ≠ none → Leads (.profileDrain p turn) s fun t => Quiet s t ∧
        (t.coreAt p).profile.buf[kind]? = some rest ∧ (t.coreAt p).profile.lost[kind]? = (f.lost[kind]?).map (· + 1))) ∧
    (x.st = .running → (f.buf[1]?.getD []).length < 64 → Leads (.sampleEntryWrite p e) s fun t =>
      (t.coreAt p).profile.buf[1]? = some (f.buf[1]?.getD [] ++ [(s.coreAt p).part.setWidth 8 :: e]) ∧ Quiet s t) ∧
    (x.st = .stopped → Leads (.sampleEntryWrite p e) s fun t => OnlyAgenda s t ∧ Coming t (s.now + 64) (.sampleEntryWrite p e))

/-- The translation table (R236, R241, R315, R321): a TENTRY write is applied in the next frame's harvest slot; an entry that breaks a
rule changes nothing; a changed valid entry is broadcast within 64 cycles, after which no register of the partition's contexts holds
a valid handle of the old frame; a teardown stops every launch of the partition, and the harvest slot that finds nothing of it
under way ends them, with every trowel at home. -/
def Sys2Proof.Claim.TranslationEvents : Prop :=
  ∀ (s : State) (n k : Nat) (v : Word), n < 16 → k < 2 ^ 18 →
    let p := s.partAt n
    let old := p.xlatEntry k
    let noHandle := fun (t : State) => ∀ c ∈ t.allCores, c.partNo = n → ∀ x ∈ c.ctxs, ∀ i : Fin 32,
      handleValid (x.regs.h[i]) = true → handleFrame (x.regs.h[i]) ≠ entryFrame v
    (s.up = true → p.ctl.getLsbD 16 = true → p.tstat ≠ 1 → Leads (.tentryWrite n v) s fun t => (t.partAt n).tstat = 1 ∧ Quiet s t ∧
      Coming t (nextFrame s.now harvestSlot) (.translationUpdate n p.tidx.toNat v)) ∧
    (p.tstat = 1 → exec (.tentryWrite n v) s = .next s) ∧
    (s.entryOk n k v = true → p.notice = [] → Leads (.translationUpdate n k v) s fun t => (t.partAt n).tstat = 0 ∧ Quiet s t ∧
      (t.partAt n).xlatEntry k = v ||| (old &&& BitVec.ofNat 64 (2 ^ 28)) ∧
      (old.getLsbD 0 = true → v ||| (old &&& BitVec.ofNat 64 (2 ^ 28)) ≠ old →
        ∃ c, s.now ≤ c ∧ c ≤ s.now + 64 ∧ Coming t c (.translationUpdate n broadcastIdx old))) ∧
    (s.entryOk n k v = false → Leads (.translationUpdate n k v) s fun t => (t.partAt n).tstat = 2 ∧ (t.partAt n).xlat = p.xlat ∧ Quiet s t) ∧
    (Leads (.translationUpdate n broadcastIdx v) s fun t => noHandle t ∧ Quiet s t ∧ t.hub = s.hub) ∧
    (∀ engine what, Leads (.spaceTeardown n engine what) s fun t => (t.partAt n).torn = true ∧ Quiet s t ∧
      (∃ q ∈ (t.partAt n).pend, q.code = 0x0C03 ∧ q.sev = 4) ∧ (∃ c, Coming t c (.recordHarvest n)) ∧
      ∀ l, p.launches = [l] → (t.partAt n).launches = [{ l with ending := true }]) ∧
    (p.torn = true → p.pend = [] → p.launches.all (fun l => s.allStill l && l.members.all fun m => !s.unlanded m.1 m.2.1) = true →
      (∀ c ∈ s.allCores, c.partNo = n → c.link.cmds = []) → (∀ c ∈ p.chans, c.pumping = false) → Leads (.recordHarvest n) s fun t =>
        (t.partAt n).launches = [] ∧ (t.partAt n).torn = false ∧ (∀ r ∈ (t.partAt n).trowels, r.count ≠ 0 → r.holder = .home) ∧
        t.hostMem = s.hostMem)

/-- Frames (R236, R242, R246, R247, R322): a run is given to its partition, or to the incoming pool, or taken back, or the whole write is
refused, for want of room on the partition's own clusters as well; a move changes a frame's home when it completes; the fourth within
a millisecond settles the frame for 100 ms; a page leaves by flits that wait for port cycles of its partition, and is there once the last has come;
writes that waited for the move perform then; sectors of a moving frame land in the frame they name. -/
def Sys2Proof.Claim.FrameEvents : Prop :=
  ∀ (s : State) (v : Word) (f chip far : Nat) (x : Frame) (g : Flit), s.up = true →
    let n := winPart v
    let fits := decide (winFirst v + winCount v ≤ 2 ^ 17)
    let dest := if chip = s.chip then none else some (chip, far)
    let settles := x.moves.length == 3 && x.moves.all fun m => decide (s.ticks < m + Config.moveTime * Config.tick)
    let given := fun (t : State) => Quiet s t ∧ t.agenda = s.agenda ∧
      ∀ f ∈ winRun v, ∃ y, t.frame f = some y ∧ if winPool v then y.pool = true else y.part = some n
    ((fits && (winRun v).all (s.frameFree n (winPool v))) = true → Leads (.framewinAssign v) s fun t => given t ∨ Refused s t 0x0300) ∧
    (winCount v = 1 → fits = true → s.frameFree n (winPool v) (winFirst v) = true → (s.frame (winFirst v)).isNone = true →
      (let room := (s.frameClusters n (winPool v)).filter fun k => decide (s.framesOn k < Config.clusterFrames)
       (room ≠ [] → Leads (.framewinAssign v) s fun t => given t ∧ ∃ y, t.frame (winFirst v) = some y ∧ y.home ∈ room) ∧
       (room = [] → Leads (.framewinAssign v) s fun t => Refused s t 0x0300))) ∧
    ((fits && (winRun v).all (s.frameFree n (winPool v))) = false → Leads (.framewinAssign v) s fun t => Refused s t 0x0300) ∧
    ((fits && (winRun v).all (s.frameReturnable n (winPool v))) = true → Leads (.framewinReturn v) s fun t => Quiet s t ∧ t.agenda = s.agenda ∧
      ∀ f ∈ winRun v, ∃ y, t.frame f = some y ∧ y.part = none ∧ y.pool = false) ∧
    ((fits && (winRun v).all (s.frameReturnable n (winPool v))) = false → Leads (.framewinReturn v) s fun t => Refused s t 0x0300) ∧
    (s.frame f = some x →
      (x.moving = none → x.settled = none → x.far ≠ dest → (dest.isSome = true → s.movable chip x.part = true) → Leads (.pageMigration f chip far) s fun t =>
        t.frame f = some { x with moving := some dest, came := 0 } ∧ Quiet s t ∧
        (dest.isSome = true → ∃ p q y, s.portFor (routeTo chip) = some p ∧ t.hub.ports[p]? = some q ∧ y ∈ q.wait ∧ y.1 = x.part ∧
          lastOfPage y.2 = true ∧ y.2.desc = f)) ∧
      (x.moving.isSome = true ∨ x.settled.isSome = true ∨ (dest.isSome = true ∧ s.movable chip x.part = false) → exec (.pageMigration f chip far) s = .next s) ∧
      (∀ d, x.moving = some d →
        let until_ := s.ticks + Config.settleTime * Config.tick
        (x.held = [] → Leads (.moveComplete f) s fun t => Quiet s t ∧ t.frame f =
          some { x with far := if x.pool then none else d, moving := none, held := [], guest := if d.isSome then none else x.guest
                        moves := (s.ticks :: x.moves).take 3, settled := if settles then some until_ else x.settled } ∧
          (settles = true → x.settled ≠ some until_ → Coming t (s.now + s.us Config.settleTime) (.settlementEnd f))) ∧
        (∀ key r, x.held = [(key, r, [])] → Leads (.moveComplete f) s fun t => readRun t.mem r.addr r.bytes.length = r.bytes ∧
          Writes s t r.addr r.bytes.length)) ∧
      (x.moving = none → exec (.moveComplete f) s = .next s) ∧
      (Leads (.settlementEnd f) s fun t => t.frame f = some { x with settled := none, moves := [] } ∧ Quiet s t ∧ t.agenda = s.agenda)) ∧
    (∀ p q y r, s.hub.ports[p]? = some q → q.retraining = false → q.txAt ≤ s.now → q.wait = y :: r → s.waitTurn p s.now y = some s.now →
      Leads (.linkLocalComplete 0 p portTurn) s fun t => Quiet s t ∧ (t.hub.ports[p]?).map (·.wait) = some r ∧
        (lastOfPage y.2 = true → ∃ c, s.now < c ∧ Coming t c (.moveComplete y.2.desc))) ∧
    ((∃ p, Taken s g p) → ageOf s g ≤ 64 → g.dst = s.chip → ((s.frame (g.offset / 2 ^ 21)).map fun x => x.takes g.src) = some true →
      (∀ d ∈ g.data.take g.nsec, d.1.length = 64) → Leads (.migrationFlit g) s fun t => Writes s t (2 ^ 40 + g.offset) (64 * g.nsec) ∧
        ∀ i d, i < g.nsec → g.data[i]? = some d → readRun t.mem (2 ^ 40 + g.offset + 64 * i) 64 = d.1)

/-- The translation table and the frames behind it. Choices of the model that it rests on: logs 11, 22, 39, 44, 47, 54 and 55. -/
def Obligations.PageEvents : Prop := Claim.TranslationEvents ∧ Claim.FrameEvents

/-! ## The host's writes and the platform -/

/-- Writes of the physical and virtual functions (R212, R289, R290, R291, R308, R321, R322): each accepted write takes effect in its own
register and nowhere in memory; one that breaks its register's rule is refused; nothing is written while the firmware is down. Choices of the model that it rests on: logs 10, 11, 23, 44 and 54. -/
def Obligations.AdminWrites : Prop :=
  ∀ (s : State) (n p i off : Nat) (v : Word) (b : Byte), n < 16 → (s.coreAt p).phys = p →
    let e := (s.group i).staged v
    (s.up = true →
      (s.ctlOk n v = true → Leads (.partitionControlWrite n v) s fun t => (t.partAt n).ctl = v ∧ Quiet s t ∧
        (if v.getLsbD 16 && !(s.partAt n).ctl.getLsbD 16 then (t.partAt n).owing = [] else t.agenda = s.agenda) ∧
        ∀ c ∈ t.allCores, v.getLsbD (clusterOf c.phys) = true → c.part.toNat = n) ∧
      (s.ctlOk n v = false → Leads (.partitionControlWrite n v) s fun t => Refused s t (0x200 + 8 * n)) ∧
      (i < 19 → off < 64 →
        (s.slotInUse i off = false → Leads (.slotTableWrite i off b) s fun t => Quiet s t ∧ t.agenda = s.agenda ∧
          (t.hub.slots[i]?).map (fun x => x[off]?) = some (some (b &&& 0x8F)) ∧ ∀ j, j ≠ i → t.hub.slots[j]? = s.hub.slots[j]?) ∧
        (s.slotInUse i off = true → Leads (.slotTableWrite i off b) s fun t => Refused s t (0x2000 + 0x40 * i + off))) ∧
      (Leads (.capabilityEntryWrite p 0 v) s fun t => Quiet s t ∧ (∃ c, c ≤ s.now + 64 ∧ Coming t c (.capMirrorUpdate p)) ∧
        (t.coreAt p).cap.capm = v.setWidth 32 ∧ (t.coreAt p).cap.inService = v.getLsbD 40 ∧ (t.coreAt p).cap.ft = (v >>> 32).setWidth 8) ∧
      (v.toNat % 256 = 0 → Leads (.capabilityEntryWrite p 40 v) s fun t => Quiet s t ∧ t.coreAt p =
        { s.coreAt p with cap := { (s.coreAt p).cap with coreCnt := 0 } }) ∧
      (i < 64 →
        (s.groupOk i e = true → Leads (.groupEntryWrite i v) s fun t => Quiet s t ∧ (t.group i).gen = ((s.group i).gen + 1) % 64 ∧
          (t.group i).w1 = (s.group i).stage1 ∧ (t.group i).mem = (s.group i).stageMem ∧
          ((s.group i).valid = true → v.getLsbD 0 = false → Coming t (s.now + s.us Config.reuseTime) (.groupReuseHoldEnd i))) ∧
        (s.groupOk i e = false → Leads (.groupEntryWrite i v) s fun t => Refused s t (0x4000 + 0x200 * i))) ∧
      (i < 256 → Leads (.budgetWrite i v) s fun t => t.budget i = v ∧ (∀ j, j ≠ i → t.budget j = s.budget j) ∧ Quiet s t) ∧
      (i < 512 → Leads (.registerWrite none (0xD000 + 8 * i) v) s fun t => t.hub = { s.hub with route := s.hub.route.setIfInBounds i (v.setWidth 5) } ∧ Quiet s t) ∧
      (∀ q u, q < 8 → (s.partAt n).ctl.getLsbD 16 = true → queueAt s n q = some u →
        (u.head = u.tail → Leads (.registerWrite (some n) (0x20 * q) v) s fun t => queueAt t n q = some { u with base := v &&& ~~~(0x3C#64) } ∧ Quiet s t) ∧
        (u.head ≠ u.tail → Leads (.registerWrite (some n) (0x20 * q) v) s fun t => queueAt t n q = some u ∧ Quiet s t))) ∧
    (s.up = false → exec (.partitionControlWrite n v) s = .next s ∧ exec (.slotTableWrite i off b) s = .next s ∧
      exec (.capabilityEntryWrite p off v) s = .next s ∧ exec (.groupEntryWrite i v) s = .next s ∧ exec (.budgetWrite i v) s = .next s ∧
      (∀ f, exec (.registerWrite f off v) s = .next s) ∧ exec (.framewinAssign v) s = .next s ∧ exec (.framewinReturn v) s = .next s)

/-- Resets (R337, R338, R346, R349, R350, R351): power-on runs the images in their order while each is accepted, and else waits in ROM recovery for
the one it lacks; each sets its bit of CAUSE; those of the package leave nothing in memory and no context
bound, those of a partition leave memory as it is, no launch of the partition and a notice for it; the management log outlives a PCIe reset; a thermal trip
leaves the package off; a security violation leaves no key bound. Choices of the model that it rests on: logs 4, 10, 39 and 42. -/
def Obligations.ResetEvents : Prop :=
  ∀ (s : State) (n rail : Nat) (a b c : FwImage), n < 16 →
    let package := fun (i : Instr) (k : Nat) (P : State → Prop) => Leads i s fun t => CauseBit s t k ∧ Blank t ∧ t.hostMem = s.hostMem ∧ P t
    let part := fun (i : Instr) (k : Nat) => Leads i s fun t => CauseBit s t k ∧ (t.partAt n).launches = [] ∧
      (t.partAt n).ctl = (s.partAt n).ctl ∧ ((s.partAt n).ctl.getLsbD 16 = true → ∃ r ∈ (t.partAt n).pend, r.code = 0x0D09) ∧ t.mem = s.mem ∧ t.hostMem = s.hostMem
    let good := accepted 0 a && accepted 1 b && accepted 2 c
    (Leads (.powerOn a [b, c]) s fun t => Blank t ∧ t.hub.power.recovery = !good ∧
      if good then t.hub.resetCause.toNat % 2 ^ 12 = 1 ∧ t.hub.power.booted = 3 else t.hub.resetCause.toNat % 256 = 0x41) ∧
    package .pcieFundamentalReset 1 (fun t => t.hub.log = s.hub.log) ∧
    part (.functionLevelReset (some n)) 2 ∧ part (.partitionReset n) 3 ∧ part (.firmwareWatchdog (some n)) 4 ∧
    (Leads (.functionLevelReset none) s fun t => CauseBit s t 2 ∧ ∀ n, n < 16 → (t.partAt n).launches = []) ∧
    package (.firmwareWatchdog none) 4 (fun _ => True) ∧ package .thermalTrip 5 (fun t => t.hub.power.off = true) ∧
    package .securityViolation 6 (fun t => t.hub.keys = []) ∧ package .fabricError 7 (fun _ => True) ∧ package (.railOutOfRange rail) 7 (fun _ => True) ∧
    (s.hub.power.recovery = true → s.hub.power.booted = 2 → s.hub.power.flash.length = 3 →
      Leads (.recoveryImage 2 c) s fun t => t.hub.power.recovery = !accepted 2 c ∧ Quiet s t) ∧
    (s.hub.power.recovery = false ∨ s.hub.power.booted ≠ 2 → exec (.recoveryImage 2 c) s = .next s)

/-- Clock, temperature and management (R4, R350, R352): a droop lowers the clock a step at once and it rises a step each 100 µs; what
the reference timer times comes at its moment of that timer; a throttled clock stays at 640 MHz; a tripped package is released; a request is answered. Choices of the model that it rests on: logs 43 and 54. -/
def Obligations.ClockEvents : Prop :=
  ∀ (s : State) (die req : Nat),
    let q := s.hub.power
    let power := fun (t : State) (w : Power) => t.hub = { s.hub with power := w } ∧ Quiet s t
    let at_ := fun (k : Nat) => ({ q with step := k, stepAt := s.now, refAt := s.ticks } : Power)
    let kept := fun (t : State) (k : Nat) => t.ticks = s.ticks ∧ ∀ d ∈ s.agenda, onReference d.ev = true → d.ev ≠ .clockStepUp →
      ∃ e ∈ t.agenda, e.ev = d.ev ∧ e.cyc = s.now + ((d.cyc - s.now) * mhz k + mhz q.step - 1) / mhz q.step
    (let k := min 4 (q.step + 1)
     Leads (.droopDetect die) s fun t => power t (at_ k) ∧ kept t k ∧ Coming t (s.now + t.us 100) .clockStepUp) ∧
    (q.throttled = true ∨ q.step = 0 → exec .clockStepUp s = .next s) ∧
    (q.throttled = false → 0 < q.step → Leads .clockStepUp s fun t => power t (at_ (q.step - 1)) ∧ kept t (q.step - 1) ∧
      (1 < q.step → Coming t (s.now + t.us 100) .clockStepUp)) ∧
    (Leads .thermalThrottle s fun t => power t { at_ 4 with throttled := true } ∧ kept t 4 ∧ ∀ d ∈ t.agenda, d.ev ≠ .clockStepUp) ∧
    (Leads .thermalThrottleEnd s fun t => power t { q with throttled := false } ∧ Coming t (s.now + s.us 100) .clockStepUp) ∧
    (q.tripped = true → Leads .thermalTripRelease s fun t => power t { q with off := false, tripped := false } ∧ t.agenda = s.agenda) ∧
    (q.tripped = false → exec .thermalTripRelease s = .next s) ∧
    (Leads (.managementRequest req) s fun t => ∃ a, t.hub = { s.hub with answers := s.hub.answers ++ [(req, a)] } ∧ Quiet s t ∧ t.agenda = s.agenda ∧
      (req = 1 → a = s.hub.resetCause))

/-! ## The step, the group and its end -/

namespace Sys2Proof.Claim

open Sys2Proof Sys2Proof.Machine

/-- The core in front is due to try a group in this cycle: no event comes before it, the package is on, no stop of the core's
contexts is due, and the context that holds the core runs and waits for nothing. An iteration of the roller that begins here has read
its skim bit. -/
def Turn (s : State) : Prop :=
  let x := s.core.ctx
  (∀ d r, s.agenda = d :: r → s.now < d.cyc) ∧ s.hub.power.off = false ∧
  (∀ y ∈ s.core.ctxs, y.stopDue s.now = false) ∧ s.core.switch.chooseAt = none ∧ x.latchSkim = x ∧ x.overrun = false ∧
  x.st = .running ∧ x.flow.sync = none ∧ x.flow.nextAt ≤ s.now ∧ x.flow.doomed = none ∧
  (∀ y ∈ s.core.ctxs, ∀ r, y.flow.doomed = some r → r.code ≠ 0x0901) ∧ s.core.breaks x = none ∧
  x.flow.roll.map Roll.suppresses ≠ some true ∧ x.flow.flush = []

/-- The next group of the context is the one slot word w, which ends it. -/
def LoneSlot (s : State) (i : Instr) : Prop :=
  let x := s.core.ctx
  let w := slotWord x.istore x.flow.bundle x.flow.pos
  x.flow.bundle < Config.bundles ∧ x.flow.pos < 4 ∧ stopBit w = true ∧
  decodeSlot w (lendOf x.istore x.flow.bundle x.flow.pos) = .ok i ∧ (frameForm i = true → x.cfg.free = true)

/-- The state in which the slot of a lone group executes. -/
def entered (s : State) : State :=
  let x := s.core.ctx
  let fs := x.group x.flow.bundle x.flow.pos
  match fs with
  | [] => s
  | f :: _ => (s.enterGroup fs).enterSlot f 0 0

/-- The context runs outside loops, transfers and the roller. -/
def Straight (x : Ctx) : Prop :=
  x.st = .running ∧ x.flow.roll = none ∧ x.flow.xfer = none ∧ x.regs.loops = [] ∧ x.flow.evict = none

/-- The end of a group whose slots left the given effects. -/
def ended (s : State) (ps : List Post) : State := (s.onCtx fun x => { x with post := ps }).endGroup

/-- A context behind a plain group. -/
def behind (s : State) (x : Ctx) : Ctx :=
  { x with
    post := []
    flow := { x.flow with
      bundle := if x.endPos = 3 then x.endBundle + 1 else x.endBundle, pos := if x.endPos = 3 then 0 else x.endPos + 1
      needMark := false, ilkExit := none, flush := [], held := none, heldFrom := none, nextAt := s.now + 1, hold := holdAfter x.flow.hold none
      last := x.flow.bundle, resumed := false }
    bay := { x.bay with groups := x.bay.groups + 1, first := x.bay.first.orElse fun _ => some s.now } }

end Sys2Proof.Claim

/-- A step takes the first event that is due, else gives the core in front its turn: a group of one slot that decodes to i runs exec
of i, and then the group issues, waits, traps or rolls back; a group that R43 rejects traps. The turn passes on (R43, R250,
R251, R353). Choices of the model that it rests on: logs 1, 3, 9, 16, 18, 20 and 37. -/
def Obligations.StepRuns : Prop :=
  (∀ (s : State) (d : Due) (r : List Due), s.agenda = d :: r → d.cyc ≤ s.now → step s = exec d.ev { s with agenda := r }) ∧
  ∀ (s t : State) (i : Instr) (h : Hold) (r : ErrRecord) (reason pos : Nat), Turn s →
    let x := s.core.ctx
    let fs := x.group x.flow.bundle x.flow.pos
    (rejected x.cfg.free fs = some (reason, pos) → step s = .next (s.hotIdle.takeTrap (s.illegal reason pos)).rotate) ∧
    (LoneSlot s i → (x.flow.needMark = true → markSlot i = true) → (s.enterGroup fs).core.ctx.pastBody = false →
      ((s.enterGroup fs).interlock [i] = some h → step s = .next (s.withheld h).rotate) ∧
      ((s.enterGroup fs).interlock [i] = none → (s.enterGroup fs).writeWait exec (numbered [] fs) = some h →
        step s = .next (s.withheld h).rotate)) ∧
    (LoneSlot s i → (x.flow.needMark = true → markSlot i = true) → (s.enterGroup fs).core.ctx.pastBody = false →
      (s.enterGroup fs).interlock [i] = none → (s.enterGroup fs).writeWait exec (numbered [] fs) = none → exec i (entered s) = .next t →
      (t.core.ctx.status = .running → t.core.ctx.tooLate = false → step s = .next (t.issued s.issueSeq).rotate) ∧
      (t.core.ctx.status = .held h → step s = .next (s.withheld h).rotate) ∧
      (t.core.ctx.status = .trapped r → step s = .next (s.hotIdle.takeTrap r).rotate) ∧
      (t.core.ctx.status = .recover r → step s = .next (((s.hotFocus 5).enterGroup fs).recoverable r).rotate)) ∧
    (LoneSlot s i → x.flow.needMark = true → markSlot i = false → ∃ u : State, step s = .next u.rotate ∧ u.core.ctx.st = .trapped ∧ u.mem = s.mem)

/-- What the end of a group does with its slots' effects, in a context outside loops and transfers: the stream goes on in order in the
next cycle (R39, R48); gated bytes wait for a commit (R148, R149) and registers count from the next group on (R79, R84, R85); a mark
commits: the gated bytes perform two cycles on and a new bay opens over the registers as they stand (R56, R57, R58). Choices of the model that it rests on: logs 9 and 13. -/
def Obligations.GroupEnds : Prop :=
  ∀ (s : State), Straight s.core.ctx →
    let x := s.core.ctx
    let with_ := fun (y : Ctx) => ({ s with core := { s.core with ctx := behind s y } } : State)
    ended s [] = with_ x ∧
    (∀ cs ns, ended s [.gate cs ns] = with_ { x with
      gate := gatePut x.gate cs, gateNotes := (x.gateNotes.filter fun o => !ns.any fun n => n.sector == o.sector) ++ ns }) ∧
    (∀ d v, ended s [.gm d v] = with_ { x with regs := { x.regs with gm := x.regs.gm.setIfInBounds d v } }) ∧
    (∀ e v, ended s [.stg e v] = with_ { x with staging := vmod x.staging (stgSet e) fun w => w.setIfInBounds e.word.val v }) ∧
    (∀ n v, ended s [.sreg n v] = with_ { x with regs := x.regs.writeSpecial n v }) ∧
    (∀ v, x.gate ≠ [] → x.enq = [] → x.bay.publish = [] → s.core.link.cmds = [] → v = ended s [.mark] →
      v.core.ctx.gate = [] ∧ v.core.ctx.bay.serial = x.bay.serial + 1 ∧ v.core.ctx.bay.groups = 0 ∧
      v.core.ctx.shadow.regs = x.regs ∧ v.core.ctx.regs = x.regs ∧ Quiet s v ∧
      Coming v (s.now + 2) (.gatedCommitPerform { core := s.core.phys, ctx := x.id, bytes := x.gate, notes := x.gateNotes })) ∧
    (∀ c : Xfer, c.left ≠ 0 → ended s [.xfer c] = with_ { x with flow := { x.flow with xfer := some c } }) ∧
    (∀ r, (ended s [.trapAfter r]).core.ctx.st = .trapped ∧ (ended s [.trapAfter r]).mem = s.mem)

/-- Zero-overhead loops and transfers at the end of a group (R62, R64, R66, R67, R68): the end of the body wraps while the count lasts; a
rotating loop turns its registers at each end of the body; the last delay group hands the stream to the target. Choices of the model that it rests on: logs 9 and 20. -/
def Obligations.LoopsTurn : Prop :=
  ∀ (s : State) (l : Loop) (c : Xfer) (n : Word),
    let x := s.core.ctx
    let t := ended s []
    (x.st = .running → x.flow.roll = none → x.flow.evict = none → x.flow.xfer = none → x.regs.loops = [l] → l.last = x.endBundle → x.endPos = 3 → l.ilk = false → x.regs.lc[0] = n →
      (1 < n.toNat → t.core.ctx.flow.bundle = (x.regs.lsa[0]).toNat ∧ t.core.ctx.flow.pos = 0 ∧ t.core.ctx.regs.lc[0] = n - 1) ∧
      (n.toNat ≤ 1 → t.core.ctx.flow.bundle = x.endBundle + 1 ∧ t.core.ctx.flow.pos = 0 ∧ t.core.ctx.regs.loops = [] ∧ t.core.ctx.regs.lc[0] = 0) ∧
      (l.rot = true → t.core.ctx.regs.rrb = x.regs.rrb - 1 ∧ t.core.ctx.rp 16 = BitVec.allOnes 128) ∧
      (l.rot = false → t.core.ctx.regs.rrb = x.regs.rrb ∧ t.core.ctx.regs.p = x.regs.p) ∧ t.core.ctx.regs.s = x.regs.s ∧ t.core.ctx.regs.v = x.regs.v) ∧
    (x.st = .running → x.flow.roll = none → x.flow.evict = none → x.regs.loops = [] → x.flow.xfer = some c → c.brk = none →
      (c.left = 1 → t.core.ctx.flow.bundle = c.target ∧ t.core.ctx.flow.pos = 0 ∧ t.core.ctx.flow.xfer = none ∧
        t.core.ctx.regs = if c.call then { x.regs with lnk := BitVec.ofNat 64 (x.endBundle + 1) } else x.regs) ∧
      (c.left = 2 → t.core.ctx.flow.xfer = some { c with left := 1 } ∧ t.core.ctx.regs = x.regs ∧
        t.core.ctx.flow.bundle = if x.endPos = 3 then x.endBundle + 1 else x.endBundle)) ∧
    (Straight x → l.ilk = false → ∀ (u : State), u = ended s [.loop l n] →
      (n ≠ 0 → u.core.ctx.flow.bundle = l.first ∧ u.core.ctx.flow.pos = 0 ∧ u.core.ctx.regs.lc[0] = n ∧ u.core.ctx.regs.loops.length = 1) ∧
      (n = 0 → u.core.ctx.flow.bundle = l.last + 1 ∧ u.core.ctx.flow.pos = 0 ∧ u.core.ctx.regs.loops = []))

/-! ## Traps, rollback, reset, the form of memory -/

/-- Taking a trap (R90, R219, R331, R335): the context is TRAPPED with its registers as they stood, its results in flight land at their own
cycles, a record of the fault goes to its partition's queue, and no byte of memory changes. Choices of the model that it rests on: logs 9 and 24. -/
def Obligations.TrapTaken : Prop :=
  ∀ (s : State) (r : ErrRecord) (n : Nat), r.part = some n → n < 16 →
    let t := s.takeTrap r
    let p := s.core.phys
    let k := s.core.ctx.id
    t.core.ctx.st = .trapped ∧ t.core.ctx.regs = s.core.ctx.regs ∧ t.mem = s.mem ∧ t.hostMem = s.hostMem ∧ t.bad = s.bad ∧
    (∃ q ∈ (t.partAt n).pend, q.code = r.code ∧ q.gcyc = r.gcyc) ∧
    ∀ d ∈ s.agenda, (isLanding p k d.ev = true ∨ isDrain p k d.ev = true) → s.now ≤ d.cyc → ∃ e ∈ t.agenda, e.cyc = d.cyc ∧ landingOf e.ev = landingOf d.ev

/-- A recoverable event (R59, R60, R169): at its first time in a bay the registers, the spill memory and the place in the stream are the
bay's entry's again, nothing gated is left, the entry group issues four cycles on, and memory is unchanged; the same event at the
same group, or one in the group of a commit point, is a fault. Choices of the model that it rests on: logs 13 and 26. -/
def Obligations.BayRolledBack : Prop :=
  ∀ (s : State) (r : ErrRecord),
    let x := s.core.ctx
    let y := (s.recoverable r).core.ctx
    (x.bay.again r.code = false → x.commitGroup = false →
      y.regs = x.shadow.regs ∧ y.spill = x.shadow.spill ∧ y.flow.bundle = x.shadow.bundle ∧ y.flow.pos = x.shadow.pos ∧
      y.flow.nextAt = s.now + 4 ∧ y.gate = [] ∧ y.enq = [] ∧ y.post = [] ∧ y.st = x.st ∧ (r.code, x.bay.groups) ∈ y.bay.seen ∧
      Quiet s (s.recoverable r) ∧ Coming (s.recoverable r) (s.now + 4) (.bayReexecute s.core.phys x.id)) ∧
    (x.bay.again r.code = true ∨ x.commitGroup = true → s.recoverable r = s.takeTrap r)

/-- After power-on reset (R219, R337): CAUSE holds the power-on bit alone, LAST is 0 and PARTS 0xFFFF; no context is bound; memory is in
its canonical form. Choices of the model that it rests on: logs 2 and 4. -/
def Obligations.ResetState : Prop :=
  State.reset.hub.resetCause.toNat = 1 + 0 * 2 ^ 8 + 0xFFFF * 2 ^ 12 ∧ Blank State.reset ∧ State.reset.allCores.length = 64 ∧
  Memory.wf State.reset.mem = true ∧ Memory.wf State.reset.hostMem = true

/-- Every step keeps the canonical form of the package's memory and of host memory: addresses strictly rising, nothing listed that
an unlisted address would read the same. Equal memories are then equal data. Choices of the model that it rests on: logs 4 and 12. -/
def Obligations.StepKeepsMemoryForm : Prop :=
  ∀ s t : State, Memory.wf s.mem = true → Memory.wf s.hostMem = true → step s = .next t →
    Memory.wf t.mem = true ∧ Memory.wf t.hostMem = true
end

