-- ==== Sys2Proof/Laws/State.lean ====
section
/-! SUPPORT. What the updates of State leave as it was, field by field, and what they make of the field they change. -/

namespace Sys2Proof.Machine

/-! ### updCore -/

@[simp] theorem State.updCore_now (s : State) (p : Nat) (f : Core → Core) : (s.updCore p f).now = s.now := by
  unfold State.updCore; split <;> rfl
@[simp] theorem State.updCore_agenda (s : State) (p : Nat) (f : Core → Core) : (s.updCore p f).agenda = s.agenda := by
  unfold State.updCore; split <;> rfl
@[simp] theorem State.updCore_turn (s : State) (p : Nat) (f : Core → Core) : (s.updCore p f).turn = s.turn := by
  unfold State.updCore; split <;> rfl
@[simp] theorem State.updCore_mem (s : State) (p : Nat) (f : Core → Core) : (s.updCore p f).mem = s.mem := by
  unfold State.updCore; split <;> rfl
@[simp] theorem State.updCore_bad (s : State) (p : Nat) (f : Core → Core) : (s.updCore p f).bad = s.bad := by
  unfold State.updCore; split <;> rfl
@[simp] theorem State.updCore_hostMem (s : State) (p : Nat) (f : Core → Core) : (s.updCore p f).hostMem = s.hostMem := by
  unfold State.updCore; split <;> rfl
@[simp] theorem State.updCore_hub (s : State) (p : Nat) (f : Core → Core) : (s.updCore p f).hub = s.hub := by
  unfold State.updCore; split <;> rfl
@[simp] theorem State.updCore_draws (s : State) (p : Nat) (f : Core → Core) : (s.updCore p f).draws = s.draws := by
  unfold State.updCore; split <;> rfl
@[simp] theorem State.updCore_noise (s : State) (p : Nat) (f : Core → Core) : (s.updCore p f).noise = s.noise := by
  unfold State.updCore; split <;> rfl
@[simp] theorem State.updCore_fetched (s : State) (p : Nat) (f : Core → Core) : (s.updCore p f).fetched = s.fetched := by
  unfold State.updCore; split <;> rfl
@[simp] theorem State.updCore_issueSeq (s : State) (p : Nat) (f : Core → Core) : (s.updCore p f).issueSeq = s.issueSeq := by
  unfold State.updCore; split <;> rfl
@[simp] theorem State.updCore_images (s : State) (p : Nat) (f : Core → Core) : (s.updCore p f).images = s.images := by
  unfold State.updCore; split <;> rfl
@[simp] theorem State.updCore_saved (s : State) (p : Nat) (f : Core → Core) : (s.updCore p f).saved = s.saved := by
  unfold State.updCore; split <;> rfl

/-! ### updCtx -/

@[simp] theorem State.updCtx_now (s : State) (p k : Nat) (f : Ctx → Ctx) : (s.updCtx p k f).now = s.now := by
  simp [State.updCtx]
@[simp] theorem State.updCtx_agenda (s : State) (p k : Nat) (f : Ctx → Ctx) : (s.updCtx p k f).agenda = s.agenda := by
  simp [State.updCtx]
@[simp] theorem State.updCtx_turn (s : State) (p k : Nat) (f : Ctx → Ctx) : (s.updCtx p k f).turn = s.turn := by
  simp [State.updCtx]
@[simp] theorem State.updCtx_mem (s : State) (p k : Nat) (f : Ctx → Ctx) : (s.updCtx p k f).mem = s.mem := by
  simp [State.updCtx]
@[simp] theorem State.updCtx_bad (s : State) (p k : Nat) (f : Ctx → Ctx) : (s.updCtx p k f).bad = s.bad := by
  simp [State.updCtx]
@[simp] theorem State.updCtx_hostMem (s : State) (p k : Nat) (f : Ctx → Ctx) : (s.updCtx p k f).hostMem = s.hostMem := by
  simp [State.updCtx]
@[simp] theorem State.updCtx_hub (s : State) (p k : Nat) (f : Ctx → Ctx) : (s.updCtx p k f).hub = s.hub := by
  simp [State.updCtx]
@[simp] theorem State.updCtx_draws (s : State) (p k : Nat) (f : Ctx → Ctx) : (s.updCtx p k f).draws = s.draws := by
  simp [State.updCtx]
@[simp] theorem State.updCtx_noise (s : State) (p k : Nat) (f : Ctx → Ctx) : (s.updCtx p k f).noise = s.noise := by
  simp [State.updCtx]
@[simp] theorem State.updCtx_fetched (s : State) (p k : Nat) (f : Ctx → Ctx) : (s.updCtx p k f).fetched = s.fetched := by
  simp [State.updCtx]
@[simp] theorem State.updCtx_issueSeq (s : State) (p k : Nat) (f : Ctx → Ctx) : (s.updCtx p k f).issueSeq = s.issueSeq := by
  simp [State.updCtx]
@[simp] theorem State.updCtx_images (s : State) (p k : Nat) (f : Ctx → Ctx) : (s.updCtx p k f).images = s.images := by
  simp [State.updCtx]
@[simp] theorem State.updCtx_saved (s : State) (p k : Nat) (f : Ctx → Ctx) : (s.updCtx p k f).saved = s.saved := by
  simp [State.updCtx]

/-! ### onCore -/

@[simp] theorem State.onCore_now (s : State) (f : Core → Core) : (s.onCore f).now = s.now := rfl
@[simp] theorem State.onCore_agenda (s : State) (f : Core → Core) : (s.onCore f).agenda = s.agenda := rfl
@[simp] theorem State.onCore_others (s : State) (f : Core → Core) : (s.onCore f).others = s.others := rfl
@[simp] theorem State.onCore_turn (s : State) (f : Core → Core) : (s.onCore f).turn = s.turn := rfl
@[simp] theorem State.onCore_mem (s : State) (f : Core → Core) : (s.onCore f).mem = s.mem := rfl
@[simp] theorem State.onCore_bad (s : State) (f : Core → Core) : (s.onCore f).bad = s.bad := rfl
@[simp] theorem State.onCore_hostMem (s : State) (f : Core → Core) : (s.onCore f).hostMem = s.hostMem := rfl
@[simp] theorem State.onCore_hub (s : State) (f : Core → Core) : (s.onCore f).hub = s.hub := rfl
@[simp] theorem State.onCore_draws (s : State) (f : Core → Core) : (s.onCore f).draws = s.draws := rfl
@[simp] theorem State.onCore_noise (s : State) (f : Core → Core) : (s.onCore f).noise = s.noise := rfl
@[simp] theorem State.onCore_fetched (s : State) (f : Core → Core) : (s.onCore f).fetched = s.fetched := rfl
@[simp] theorem State.onCore_issueSeq (s : State) (f : Core → Core) : (s.onCore f).issueSeq = s.issueSeq := rfl
@[simp] theorem State.onCore_images (s : State) (f : Core → Core) : (s.onCore f).images = s.images := rfl
@[simp] theorem State.onCore_saved (s : State) (f : Core → Core) : (s.onCore f).saved = s.saved := rfl

/-! ### onCtx -/

@[simp] theorem State.onCtx_now (s : State) (f : Ctx → Ctx) : (s.onCtx f).now = s.now := rfl
@[simp] theorem State.onCtx_agenda (s : State) (f : Ctx → Ctx) : (s.onCtx f).agenda = s.agenda := rfl
@[simp] theorem State.onCtx_others (s : State) (f : Ctx → Ctx) : (s.onCtx f).others = s.others := rfl
@[simp] theorem State.onCtx_turn (s : State) (f : Ctx → Ctx) : (s.onCtx f).turn = s.turn := rfl
@[simp] theorem State.onCtx_mem (s : State) (f : Ctx → Ctx) : (s.onCtx f).mem = s.mem := rfl
@[simp] theorem State.onCtx_bad (s : State) (f : Ctx → Ctx) : (s.onCtx f).bad = s.bad := rfl
@[simp] theorem State.onCtx_hostMem (s : State) (f : Ctx → Ctx) : (s.onCtx f).hostMem = s.hostMem := rfl
@[simp] theorem State.onCtx_hub (s : State) (f : Ctx → Ctx) : (s.onCtx f).hub = s.hub := rfl
@[simp] theorem State.onCtx_draws (s : State) (f : Ctx → Ctx) : (s.onCtx f).draws = s.draws := rfl
@[simp] theorem State.onCtx_noise (s : State) (f : Ctx → Ctx) : (s.onCtx f).noise = s.noise := rfl
@[simp] theorem State.onCtx_fetched (s : State) (f : Ctx → Ctx) : (s.onCtx f).fetched = s.fetched := rfl
@[simp] theorem State.onCtx_issueSeq (s : State) (f : Ctx → Ctx) : (s.onCtx f).issueSeq = s.issueSeq := rfl
@[simp] theorem State.onCtx_images (s : State) (f : Ctx → Ctx) : (s.onCtx f).images = s.images := rfl
@[simp] theorem State.onCtx_saved (s : State) (f : Ctx → Ctx) : (s.onCtx f).saved = s.saved := rfl

/-! ### onFlow -/

@[simp] theorem State.onFlow_now (s : State) (f : Flow → Flow) : (s.onFlow f).now = s.now := rfl
@[simp] theorem State.onFlow_agenda (s : State) (f : Flow → Flow) : (s.onFlow f).agenda = s.agenda := rfl
@[simp] theorem State.onFlow_others (s : State) (f : Flow → Flow) : (s.onFlow f).others = s.others := rfl
@[simp] theorem State.onFlow_turn (s : State) (f : Flow → Flow) : (s.onFlow f).turn = s.turn := rfl
@[simp] theorem State.onFlow_mem (s : State) (f : Flow → Flow) : (s.onFlow f).mem = s.mem := rfl
@[simp] theorem State.onFlow_bad (s : State) (f : Flow → Flow) : (s.onFlow f).bad = s.bad := rfl
@[simp] theorem State.onFlow_hostMem (s : State) (f : Flow → Flow) : (s.onFlow f).hostMem = s.hostMem := rfl
@[simp] theorem State.onFlow_hub (s : State) (f : Flow → Flow) : (s.onFlow f).hub = s.hub := rfl
@[simp] theorem State.onFlow_draws (s : State) (f : Flow → Flow) : (s.onFlow f).draws = s.draws := rfl
@[simp] theorem State.onFlow_noise (s : State) (f : Flow → Flow) : (s.onFlow f).noise = s.noise := rfl
@[simp] theorem State.onFlow_fetched (s : State) (f : Flow → Flow) : (s.onFlow f).fetched = s.fetched := rfl
@[simp] theorem State.onFlow_issueSeq (s : State) (f : Flow → Flow) : (s.onFlow f).issueSeq = s.issueSeq := rfl
@[simp] theorem State.onFlow_images (s : State) (f : Flow → Flow) : (s.onFlow f).images = s.images := rfl
@[simp] theorem State.onFlow_saved (s : State) (f : Flow → Flow) : (s.onFlow f).saved = s.saved := rfl

/-! ### onHub -/

@[simp] theorem State.onHub_now (s : State) (f : Hub → Hub) : (s.onHub f).now = s.now := rfl
@[simp] theorem State.onHub_agenda (s : State) (f : Hub → Hub) : (s.onHub f).agenda = s.agenda := rfl
@[simp] theorem State.onHub_core (s : State) (f : Hub → Hub) : (s.onHub f).core = s.core := rfl
@[simp] theorem State.onHub_others (s : State) (f : Hub → Hub) : (s.onHub f).others = s.others := rfl
@[simp] theorem State.onHub_turn (s : State) (f : Hub → Hub) : (s.onHub f).turn = s.turn := rfl
@[simp] theorem State.onHub_mem (s : State) (f : Hub → Hub) : (s.onHub f).mem = s.mem := rfl
@[simp] theorem State.onHub_bad (s : State) (f : Hub → Hub) : (s.onHub f).bad = s.bad := rfl
@[simp] theorem State.onHub_hostMem (s : State) (f : Hub → Hub) : (s.onHub f).hostMem = s.hostMem := rfl
@[simp] theorem State.onHub_draws (s : State) (f : Hub → Hub) : (s.onHub f).draws = s.draws := rfl
@[simp] theorem State.onHub_noise (s : State) (f : Hub → Hub) : (s.onHub f).noise = s.noise := rfl
@[simp] theorem State.onHub_fetched (s : State) (f : Hub → Hub) : (s.onHub f).fetched = s.fetched := rfl
@[simp] theorem State.onHub_issueSeq (s : State) (f : Hub → Hub) : (s.onHub f).issueSeq = s.issueSeq := rfl
@[simp] theorem State.onHub_images (s : State) (f : Hub → Hub) : (s.onHub f).images = s.images := rfl
@[simp] theorem State.onHub_saved (s : State) (f : Hub → Hub) : (s.onHub f).saved = s.saved := rfl

/-! ### onPart -/

@[simp] theorem State.onPart_now (s : State) (n : Nat) (f : Part → Part) : (s.onPart n f).now = s.now := rfl
@[simp] theorem State.onPart_agenda (s : State) (n : Nat) (f : Part → Part) : (s.onPart n f).agenda = s.agenda := rfl
@[simp] theorem State.onPart_core (s : State) (n : Nat) (f : Part → Part) : (s.onPart n f).core = s.core := rfl
@[simp] theorem State.onPart_others (s : State) (n : Nat) (f : Part → Part) : (s.onPart n f).others = s.others := rfl
@[simp] theorem State.onPart_turn (s : State) (n : Nat) (f : Part → Part) : (s.onPart n f).turn = s.turn := rfl
@[simp] theorem State.onPart_mem (s : State) (n : Nat) (f : Part → Part) : (s.onPart n f).mem = s.mem := rfl
@[simp] theorem State.onPart_bad (s : State) (n : Nat) (f : Part → Part) : (s.onPart n f).bad = s.bad := rfl
@[simp] theorem State.onPart_hostMem (s : State) (n : Nat) (f : Part → Part) : (s.onPart n f).hostMem = s.hostMem := rfl
@[simp] theorem State.onPart_draws (s : State) (n : Nat) (f : Part → Part) : (s.onPart n f).draws = s.draws := rfl
@[simp] theorem State.onPart_noise (s : State) (n : Nat) (f : Part → Part) : (s.onPart n f).noise = s.noise := rfl
@[simp] theorem State.onPart_fetched (s : State) (n : Nat) (f : Part → Part) : (s.onPart n f).fetched = s.fetched := rfl
@[simp] theorem State.onPart_issueSeq (s : State) (n : Nat) (f : Part → Part) : (s.onPart n f).issueSeq = s.issueSeq := rfl
@[simp] theorem State.onPart_images (s : State) (n : Nat) (f : Part → Part) : (s.onPart n f).images = s.images := rfl
@[simp] theorem State.onPart_saved (s : State) (n : Nat) (f : Part → Part) : (s.onPart n f).saved = s.saved := rfl

/-! ### mapCores -/

@[simp] theorem State.mapCores_now (s : State) (f : Core → Core) : (s.mapCores f).now = s.now := rfl
@[simp] theorem State.mapCores_agenda (s : State) (f : Core → Core) : (s.mapCores f).agenda = s.agenda := rfl
@[simp] theorem State.mapCores_turn (s : State) (f : Core → Core) : (s.mapCores f).turn = s.turn := rfl
@[simp] theorem State.mapCores_mem (s : State) (f : Core → Core) : (s.mapCores f).mem = s.mem := rfl
@[simp] theorem State.mapCores_bad (s : State) (f : Core → Core) : (s.mapCores f).bad = s.bad := rfl
@[simp] theorem State.mapCores_hostMem (s : State) (f : Core → Core) : (s.mapCores f).hostMem = s.hostMem := rfl
@[simp] theorem State.mapCores_hub (s : State) (f : Core → Core) : (s.mapCores f).hub = s.hub := rfl
@[simp] theorem State.mapCores_draws (s : State) (f : Core → Core) : (s.mapCores f).draws = s.draws := rfl
@[simp] theorem State.mapCores_noise (s : State) (f : Core → Core) : (s.mapCores f).noise = s.noise := rfl
@[simp] theorem State.mapCores_fetched (s : State) (f : Core → Core) : (s.mapCores f).fetched = s.fetched := rfl
@[simp] theorem State.mapCores_issueSeq (s : State) (f : Core → Core) : (s.mapCores f).issueSeq = s.issueSeq := rfl
@[simp] theorem State.mapCores_images (s : State) (f : Core → Core) : (s.mapCores f).images = s.images := rfl
@[simp] theorem State.mapCores_saved (s : State) (f : Core → Core) : (s.mapCores f).saved = s.saved := rfl

/-! ### scheduleAs -/

@[simp] theorem State.scheduleAs_now (s : State) (c p q : Nat) (e : Instr) : (s.scheduleAs c p q e).now = s.now := rfl
@[simp] theorem State.scheduleAs_core (s : State) (c p q : Nat) (e : Instr) : (s.scheduleAs c p q e).core = s.core := rfl
@[simp] theorem State.scheduleAs_others (s : State) (c p q : Nat) (e : Instr) : (s.scheduleAs c p q e).others = s.others := rfl
@[simp] theorem State.scheduleAs_turn (s : State) (c p q : Nat) (e : Instr) : (s.scheduleAs c p q e).turn = s.turn := rfl
@[simp] theorem State.scheduleAs_mem (s : State) (c p q : Nat) (e : Instr) : (s.scheduleAs c p q e).mem = s.mem := rfl
@[simp] theorem State.scheduleAs_bad (s : State) (c p q : Nat) (e : Instr) : (s.scheduleAs c p q e).bad = s.bad := rfl
@[simp] theorem State.scheduleAs_hostMem (s : State) (c p q : Nat) (e : Instr) : (s.scheduleAs c p q e).hostMem = s.hostMem := rfl
@[simp] theorem State.scheduleAs_hub (s : State) (c p q : Nat) (e : Instr) : (s.scheduleAs c p q e).hub = s.hub := rfl
@[simp] theorem State.scheduleAs_draws (s : State) (c p q : Nat) (e : Instr) : (s.scheduleAs c p q e).draws = s.draws := rfl
@[simp] theorem State.scheduleAs_noise (s : State) (c p q : Nat) (e : Instr) : (s.scheduleAs c p q e).noise = s.noise := rfl
@[simp] theorem State.scheduleAs_fetched (s : State) (c p q : Nat) (e : Instr) : (s.scheduleAs c p q e).fetched = s.fetched := rfl
@[simp] theorem State.scheduleAs_issueSeq (s : State) (c p q : Nat) (e : Instr) : (s.scheduleAs c p q e).issueSeq = s.issueSeq := rfl
@[simp] theorem State.scheduleAs_images (s : State) (c p q : Nat) (e : Instr) : (s.scheduleAs c p q e).images = s.images := rfl
@[simp] theorem State.scheduleAs_saved (s : State) (c p q : Nat) (e : Instr) : (s.scheduleAs c p q e).saved = s.saved := rfl

/-! ### schedule -/

@[simp] theorem State.schedule_now (s : State) (c p : Nat) (e : Instr) : (s.schedule c p e).now = s.now := rfl
@[simp] theorem State.schedule_core (s : State) (c p : Nat) (e : Instr) : (s.schedule c p e).core = s.core := rfl
@[simp] theorem State.schedule_others (s : State) (c p : Nat) (e : Instr) : (s.schedule c p e).others = s.others := rfl
@[simp] theorem State.schedule_turn (s : State) (c p : Nat) (e : Instr) : (s.schedule c p e).turn = s.turn := rfl
@[simp] theorem State.schedule_mem (s : State) (c p : Nat) (e : Instr) : (s.schedule c p e).mem = s.mem := rfl
@[simp] theorem State.schedule_bad (s : State) (c p : Nat) (e : Instr) : (s.schedule c p e).bad = s.bad := rfl
@[simp] theorem State.schedule_hostMem (s : State) (c p : Nat) (e : Instr) : (s.schedule c p e).hostMem = s.hostMem := rfl
@[simp] theorem State.schedule_hub (s : State) (c p : Nat) (e : Instr) : (s.schedule c p e).hub = s.hub := rfl
@[simp] theorem State.schedule_draws (s : State) (c p : Nat) (e : Instr) : (s.schedule c p e).draws = s.draws := rfl
@[simp] theorem State.schedule_noise (s : State) (c p : Nat) (e : Instr) : (s.schedule c p e).noise = s.noise := rfl
@[simp] theorem State.schedule_fetched (s : State) (c p : Nat) (e : Instr) : (s.schedule c p e).fetched = s.fetched := rfl
@[simp] theorem State.schedule_issueSeq (s : State) (c p : Nat) (e : Instr) : (s.schedule c p e).issueSeq = s.issueSeq := rfl
@[simp] theorem State.schedule_images (s : State) (c p : Nat) (e : Instr) : (s.schedule c p e).images = s.images := rfl
@[simp] theorem State.schedule_saved (s : State) (c p : Nat) (e : Instr) : (s.schedule c p e).saved = s.saved := rfl

/-! ### cancel -/

@[simp] theorem State.cancel_now (s : State) (f : Instr → Bool) : (s.cancel f).now = s.now := rfl
@[simp] theorem State.cancel_core (s : State) (f : Instr → Bool) : (s.cancel f).core = s.core := rfl
@[simp] theorem State.cancel_others (s : State) (f : Instr → Bool) : (s.cancel f).others = s.others := rfl
@[simp] theorem State.cancel_turn (s : State) (f : Instr → Bool) : (s.cancel f).turn = s.turn := rfl
@[simp] theorem State.cancel_mem (s : State) (f : Instr → Bool) : (s.cancel f).mem = s.mem := rfl
@[simp] theorem State.cancel_bad (s : State) (f : Instr → Bool) : (s.cancel f).bad = s.bad := rfl
@[simp] theorem State.cancel_hostMem (s : State) (f : Instr → Bool) : (s.cancel f).hostMem = s.hostMem := rfl
@[simp] theorem State.cancel_hub (s : State) (f : Instr → Bool) : (s.cancel f).hub = s.hub := rfl
@[simp] theorem State.cancel_draws (s : State) (f : Instr → Bool) : (s.cancel f).draws = s.draws := rfl
@[simp] theorem State.cancel_noise (s : State) (f : Instr → Bool) : (s.cancel f).noise = s.noise := rfl
@[simp] theorem State.cancel_fetched (s : State) (f : Instr → Bool) : (s.cancel f).fetched = s.fetched := rfl
@[simp] theorem State.cancel_issueSeq (s : State) (f : Instr → Bool) : (s.cancel f).issueSeq = s.issueSeq := rfl
@[simp] theorem State.cancel_images (s : State) (f : Instr → Bool) : (s.cancel f).images = s.images := rfl
@[simp] theorem State.cancel_saved (s : State) (f : Instr → Bool) : (s.cancel f).saved = s.saved := rfl

/-! ### post -/

@[simp] theorem State.post_now (s : State) (q : Post) : (s.post q).now = s.now := rfl
@[simp] theorem State.post_agenda (s : State) (q : Post) : (s.post q).agenda = s.agenda := rfl
@[simp] theorem State.post_others (s : State) (q : Post) : (s.post q).others = s.others := rfl
@[simp] theorem State.post_turn (s : State) (q : Post) : (s.post q).turn = s.turn := rfl
@[simp] theorem State.post_mem (s : State) (q : Post) : (s.post q).mem = s.mem := rfl
@[simp] theorem State.post_bad (s : State) (q : Post) : (s.post q).bad = s.bad := rfl
@[simp] theorem State.post_hostMem (s : State) (q : Post) : (s.post q).hostMem = s.hostMem := rfl
@[simp] theorem State.post_hub (s : State) (q : Post) : (s.post q).hub = s.hub := rfl
@[simp] theorem State.post_draws (s : State) (q : Post) : (s.post q).draws = s.draws := rfl
@[simp] theorem State.post_noise (s : State) (q : Post) : (s.post q).noise = s.noise := rfl
@[simp] theorem State.post_fetched (s : State) (q : Post) : (s.post q).fetched = s.fetched := rfl
@[simp] theorem State.post_issueSeq (s : State) (q : Post) : (s.post q).issueSeq = s.issueSeq := rfl
@[simp] theorem State.post_images (s : State) (q : Post) : (s.post q).images = s.images := rfl
@[simp] theorem State.post_saved (s : State) (q : Post) : (s.post q).saved = s.saved := rfl

/-! ### withhold -/

@[simp] theorem State.withhold_now (s : State) (h : Hold) : (s.withhold h).now = s.now := rfl
@[simp] theorem State.withhold_agenda (s : State) (h : Hold) : (s.withhold h).agenda = s.agenda := rfl
@[simp] theorem State.withhold_others (s : State) (h : Hold) : (s.withhold h).others = s.others := rfl
@[simp] theorem State.withhold_turn (s : State) (h : Hold) : (s.withhold h).turn = s.turn := rfl
@[simp] theorem State.withhold_mem (s : State) (h : Hold) : (s.withhold h).mem = s.mem := rfl
@[simp] theorem State.withhold_bad (s : State) (h : Hold) : (s.withhold h).bad = s.bad := rfl
@[simp] theorem State.withhold_hostMem (s : State) (h : Hold) : (s.withhold h).hostMem = s.hostMem := rfl
@[simp] theorem State.withhold_hub (s : State) (h : Hold) : (s.withhold h).hub = s.hub := rfl
@[simp] theorem State.withhold_draws (s : State) (h : Hold) : (s.withhold h).draws = s.draws := rfl
@[simp] theorem State.withhold_noise (s : State) (h : Hold) : (s.withhold h).noise = s.noise := rfl
@[simp] theorem State.withhold_fetched (s : State) (h : Hold) : (s.withhold h).fetched = s.fetched := rfl
@[simp] theorem State.withhold_issueSeq (s : State) (h : Hold) : (s.withhold h).issueSeq = s.issueSeq := rfl
@[simp] theorem State.withhold_images (s : State) (h : Hold) : (s.withhold h).images = s.images := rfl
@[simp] theorem State.withhold_saved (s : State) (h : Hold) : (s.withhold h).saved = s.saved := rfl

/-! ### giveUp -/

@[simp] theorem State.giveUp_now (s : State) (p k h : Nat) : (s.giveUp p k h).now = s.now := by
  simp [State.giveUp]
@[simp] theorem State.giveUp_agenda (s : State) (p k h : Nat) : (s.giveUp p k h).agenda = s.agenda := by
  simp [State.giveUp]
@[simp] theorem State.giveUp_turn (s : State) (p k h : Nat) : (s.giveUp p k h).turn = s.turn := by
  simp [State.giveUp]
@[simp] theorem State.giveUp_mem (s : State) (p k h : Nat) : (s.giveUp p k h).mem = s.mem := by
  simp [State.giveUp]
@[simp] theorem State.giveUp_bad (s : State) (p k h : Nat) : (s.giveUp p k h).bad = s.bad := by
  simp [State.giveUp]
@[simp] theorem State.giveUp_hostMem (s : State) (p k h : Nat) : (s.giveUp p k h).hostMem = s.hostMem := by
  simp [State.giveUp]
@[simp] theorem State.giveUp_hub (s : State) (p k h : Nat) : (s.giveUp p k h).hub = s.hub := by
  simp [State.giveUp]
@[simp] theorem State.giveUp_draws (s : State) (p k h : Nat) : (s.giveUp p k h).draws = s.draws := by
  simp [State.giveUp]
@[simp] theorem State.giveUp_noise (s : State) (p k h : Nat) : (s.giveUp p k h).noise = s.noise := by
  simp [State.giveUp]
@[simp] theorem State.giveUp_fetched (s : State) (p k h : Nat) : (s.giveUp p k h).fetched = s.fetched := by
  simp [State.giveUp]
@[simp] theorem State.giveUp_issueSeq (s : State) (p k h : Nat) : (s.giveUp p k h).issueSeq = s.issueSeq := by
  simp [State.giveUp]
@[simp] theorem State.giveUp_images (s : State) (p k h : Nat) : (s.giveUp p k h).images = s.images := by
  simp [State.giveUp]
@[simp] theorem State.giveUp_saved (s : State) (p k h : Nat) : (s.giveUp p k h).saved = s.saved := by
  simp [State.giveUp]

/-! ### land -/

@[simp] theorem State.land_now (s : State) (L : Nat) (r : Res) (tag : Tag) : (s.land L r tag).now = s.now := rfl
@[simp] theorem State.land_core (s : State) (L : Nat) (r : Res) (tag : Tag) : (s.land L r tag).core = s.core := rfl
@[simp] theorem State.land_others (s : State) (L : Nat) (r : Res) (tag : Tag) : (s.land L r tag).others = s.others := rfl
@[simp] theorem State.land_turn (s : State) (L : Nat) (r : Res) (tag : Tag) : (s.land L r tag).turn = s.turn := rfl
@[simp] theorem State.land_mem (s : State) (L : Nat) (r : Res) (tag : Tag) : (s.land L r tag).mem = s.mem := rfl
@[simp] theorem State.land_bad (s : State) (L : Nat) (r : Res) (tag : Tag) : (s.land L r tag).bad = s.bad := rfl
@[simp] theorem State.land_hostMem (s : State) (L : Nat) (r : Res) (tag : Tag) : (s.land L r tag).hostMem = s.hostMem := rfl
@[simp] theorem State.land_hub (s : State) (L : Nat) (r : Res) (tag : Tag) : (s.land L r tag).hub = s.hub := rfl
@[simp] theorem State.land_draws (s : State) (L : Nat) (r : Res) (tag : Tag) : (s.land L r tag).draws = s.draws := rfl
@[simp] theorem State.land_noise (s : State) (L : Nat) (r : Res) (tag : Tag) : (s.land L r tag).noise = s.noise := rfl
@[simp] theorem State.land_fetched (s : State) (L : Nat) (r : Res) (tag : Tag) : (s.land L r tag).fetched = s.fetched := rfl
@[simp] theorem State.land_issueSeq (s : State) (L : Nat) (r : Res) (tag : Tag) : (s.land L r tag).issueSeq = s.issueSeq := rfl
@[simp] theorem State.land_images (s : State) (L : Nat) (r : Res) (tag : Tag) : (s.land L r tag).images = s.images := rfl
@[simp] theorem State.land_saved (s : State) (L : Nat) (r : Res) (tag : Tag) : (s.land L r tag).saved = s.saved := rfl

/-! ### The field that changes -/

@[simp] theorem State.onCore_core (s : State) (f : Core → Core) : (s.onCore f).core = f s.core := rfl
@[simp] theorem State.onCtx_core (s : State) (f : Ctx → Ctx) : (s.onCtx f).core = { s.core with ctx := f s.core.ctx } := rfl
@[simp] theorem State.onHub_hub (s : State) (f : Hub → Hub) : (s.onHub f).hub = f s.hub := rfl
@[simp] theorem State.scheduleAs_agenda (s : State) (c p q : Nat) (e : Instr) :
    (s.scheduleAs c p q e).agenda = insertDue { cyc := c, phase := p, seq := q, ev := e } s.agenda := rfl
@[simp] theorem State.schedule_agenda (s : State) (c p : Nat) (e : Instr) :
    (s.schedule c p e).agenda = insertDue { cyc := c, phase := p, seq := s.issueSeq, ev := e } s.agenda := rfl
@[simp] theorem State.cancel_agenda (s : State) (f : Instr → Bool) : (s.cancel f).agenda = s.agenda.filter fun d => !f d.ev := rfl

/-- What an insertion into the agenda holds. -/
theorem mem_insertDue (d e : Due) (l : List Due) : e ∈ insertDue d l ↔ e = d ∨ e ∈ l := by
  induction l with
  | nil => simp [insertDue]
  | cons x r ih =>
    simp only [insertDue]
    split
    · simp
    · simp only [List.mem_cons, ih]
      constructor
      · rintro (h | h | h)
        · exact .inr (.inl h)
        · exact .inl h
        · exact .inr (.inr h)
      · rintro (h | h | h)
        · exact .inr (.inl h)
        · exact .inl h
        · exact .inr (.inr h)

/-! ### Folds -/

/-- A field that no step of a fold changes. -/
theorem foldl_same {α β : Type} (p : State → α) (g : State → β → State) (h : ∀ t b, p (g t b) = p t) (l : List β) (s : State) :
    p (l.foldl g s) = p s := by
  induction l generalizing s with
  | nil => rfl
  | cons b r ih => rw [List.foldl_cons, ih, h]

/-- A property that every step of a fold keeps. -/
theorem foldl_keeps {β : Type} (p : State → Prop) (g : State → β → State) (h : ∀ t b, p t → p (g t b)) (l : List β) (s : State)
    (hs : p s) : p (l.foldl g s) := by
  induction l generalizing s with
  | nil => exact hs
  | cons b r ih => exact ih _ (h s b hs)

/-! ### Cores and contexts by number -/

theorem State.updCore_eq (s : State) (p : Nat) (f : Core → Core) (h : s.core.phys = p) : s.updCore p f = { s with core := f s.core } := by
  simp [State.updCore, h]

/-- The core in front is found under its own number. -/
@[simp] theorem State.coreAt_self (s : State) : s.coreAt s.core.phys = s.core := by simp [State.coreAt]

@[simp] theorem Core.ctxAt_self (c : Core) : c.ctxAt c.ctx.id = c.ctx := by simp [Core.ctxAt]

theorem find?_map_if {α : Type} (q : α → Nat) (p : Nat) (f : α → α) (hf : ∀ x, q x = p → q (f x) = p) (l : List α) :
    (l.map fun x => if q x = p then f x else x).find? (fun x => q x == p) = (l.find? fun x => q x == p).map f := by
  induction l with
  | nil => rfl
  | cons x r ih =>
    by_cases h : q x = p
    · simp [h, hf x h]
    · simp [h, ih]

theorem find?_map_other {α : Type} (q : α → Nat) (p j : Nat) (f : α → α) (hf : ∀ x, q x = p → q (f x) = p) (hj : j ≠ p) (l : List α) :
    (l.map fun x => if q x = p then f x else x).find? (fun x => q x == j) = l.find? fun x => q x == j := by
  induction l with
  | nil => rfl
  | cons x r ih =>
    by_cases h : q x = p
    · have h1 : q (f x) ≠ j := by rw [hf x h]; exact fun e => hj e.symm
      have h2 : q x ≠ j := by rw [h]; exact fun e => hj e.symm
      simp only [List.map_cons, h, if_true]
      rw [List.find?_cons_of_neg (by simpa using h1), List.find?_cons_of_neg (by simpa using h2), ih]
    · simp only [List.map_cons, h, if_false, List.find?_cons, ih]

/-- A core of the machine, changed, as it is found afterwards. -/
theorem State.coreAt_updCore (s : State) (p : Nat) (f : Core → Core) (hp : (s.coreAt p).phys = p) (hf : ∀ c, c.phys = p → (f c).phys = p) :
    (s.updCore p f).coreAt p = f (s.coreAt p) := by
  by_cases h : s.core.phys = p
  · simp [State.updCore, State.coreAt, h, hf _ h]
  · have hs : (s.others.find? fun c => c.phys == p).isSome := by
      cases hq : s.others.find? fun c => c.phys == p with
      | none => simp [State.coreAt, h, hq] at hp
      | some c => rfl
    obtain ⟨c, hc⟩ := Option.isSome_iff_exists.mp hs
    simp only [State.updCore, State.coreAt, h, if_false, find?_map_if Core.phys p f hf, hc, Option.map_some, Option.getD_some]

/-- Another core is found as before. -/
theorem State.coreAt_updCore_ne (s : State) (p q : Nat) (f : Core → Core) (hq : q ≠ p) (hf : ∀ c, c.phys = p → (f c).phys = p)
    (hs : (s.coreAt q).phys = q) : (s.updCore p f).coreAt q = s.coreAt q := by
  by_cases h : s.core.phys = p
  · have h1 : (f s.core).phys ≠ q := by rw [hf _ h]; exact fun e => hq e.symm
    have h2 : s.core.phys ≠ q := by rw [h]; exact fun e => hq e.symm
    have h3 : (s.others.find? fun c => c.phys == q).isSome := by
      cases hz : s.others.find? fun c => c.phys == q with
      | none => simp [State.coreAt, h2, hz] at hs
      | some c => rfl
    obtain ⟨c, hc⟩ := Option.isSome_iff_exists.mp h3
    simp [State.updCore, State.coreAt, h, h1, hc]
    exact fun e => absurd e.symm hq
  · simp only [State.updCore, h, if_false, State.coreAt, find?_map_other Core.phys p q f hf hq]

/-- A context of a core, changed, as it is found afterwards. -/
theorem Core.ctxAt_updCtx (c : Core) (k : Nat) (f : Ctx → Ctx) (hk : (c.ctxAt k).id = k) (hf : ∀ x, x.id = k → (f x).id = k) :
    (c.updCtx k f).ctxAt k = f (c.ctxAt k) := by
  by_cases h : c.ctx.id = k
  · simp [Core.updCtx, Core.ctxAt, h, hf _ h]
  · have hs : (c.rest.find? fun x => x.id == k).isSome := by
      cases hq : c.rest.find? fun x => x.id == k with
      | none => simp [Core.ctxAt, h, hq] at hk
      | some x => rfl
    obtain ⟨x, hx⟩ := Option.isSome_iff_exists.mp hs
    simp only [Core.updCtx, Core.ctxAt, h, if_false, find?_map_if Ctx.id k f hf, hx, Option.map_some, Option.getD_some]

/-- Another context is found as before. -/
theorem Core.ctxAt_updCtx_ne (c : Core) (k j : Nat) (f : Ctx → Ctx) (hj : j ≠ k) (hf : ∀ x, x.id = k → (f x).id = k)
    (hs : (c.ctxAt j).id = j) : (c.updCtx k f).ctxAt j = c.ctxAt j := by
  by_cases h : c.ctx.id = k
  · have h1 : (f c.ctx).id ≠ j := by rw [hf _ h]; exact fun e => hj e.symm
    have h2 : c.ctx.id ≠ j := by rw [h]; exact fun e => hj e.symm
    have h3 : (c.rest.find? fun x => x.id == j).isSome := by
      cases hz : c.rest.find? fun x => x.id == j with
      | none => simp [Core.ctxAt, h2, hz] at hs
      | some x => rfl
    obtain ⟨x, hx⟩ := Option.isSome_iff_exists.mp h3
    simp [Core.updCtx, Core.ctxAt, h, h1, hx]
    exact fun e => absurd e.symm hj
  · simp only [Core.updCtx, h, if_false, Core.ctxAt, find?_map_other Ctx.id k j f hf hj]

@[simp] theorem Core.updCtx_phys (c : Core) (k : Nat) (f : Ctx → Ctx) : (c.updCtx k f).phys = c.phys := by
  unfold Core.updCtx; split <;> rfl

theorem State.ctxAt_updCtx (s : State) (p k : Nat) (f : Ctx → Ctx) (hp : (s.coreAt p).phys = p) (hk : (s.ctxAt p k).id = k)
    (hf : ∀ x, x.id = k → (f x).id = k) : (s.updCtx p k f).ctxAt p k = f (s.ctxAt p k) := by
  unfold State.ctxAt State.updCtx
  rw [State.coreAt_updCore s p _ hp fun c h => by simpa using h]
  exact Core.ctxAt_updCtx _ k f hk hf

end Sys2Proof.Machine
end

