-- ==== Sys2Proof/Laws/At.lean ====
section
/-! SUPPORT. Reading one core, one context or one partition after a change of the same or of another one; the agenda after an event
is entered. -/

namespace Sys2Proof.Machine

/-- What is entered stands in the agenda. -/
theorem State.mem_scheduleAs (s : State) (c p q : Nat) (e : Instr) :
    { cyc := c, phase := p, seq := q, ev := e } ∈ (s.scheduleAs c p q e).agenda := (mem_insertDue _ _ _).mpr (.inl rfl)

theorem State.mem_schedule (s : State) (c p : Nat) (e : Instr) :
    { cyc := c, phase := p, seq := s.issueSeq, ev := e } ∈ (s.schedule c p e).agenda := (mem_insertDue _ _ _).mpr (.inl rfl)

theorem State.scheduleAs_keeps {s : State} {c p q : Nat} {e : Instr} {d : Due} (h : d ∈ s.agenda) : d ∈ (s.scheduleAs c p q e).agenda :=
  (mem_insertDue _ _ _).mpr (.inr h)

theorem State.schedule_keeps {s : State} {c p : Nat} {e : Instr} {d : Due} (h : d ∈ s.agenda) : d ∈ (s.schedule c p e).agenda :=
  (mem_insertDue _ _ _).mpr (.inr h)

/-! ## Contexts of a core -/

theorem Core.ctxAt_find (c : Core) (k : Nat) : c.ctxAt k = (c.ctxs.find? fun x => x.id == k).getD c.ctx := by
  simp only [Core.ctxAt, Core.ctxs, List.find?_cons]
  by_cases h : c.ctx.id = k
  · simp [h]
  · have : (c.ctx.id == k) = false := by simpa using h
    simp [h, this]

theorem Core.ctxAt_mem (c : Core) (k : Nat) : c.ctxAt k ∈ c.ctxs := by
  rw [Core.ctxAt_find]; cases h : c.ctxs.find? (fun x => x.id == k) with
  | none => simp [Core.ctxs]
  | some x => exact List.mem_of_find?_eq_some h

theorem Core.ctxAt_mapCtx {c : Core} {k : Nat} {f : Ctx → Ctx} (hf : ∀ x, (f x).id = x.id) : (c.mapCtx f).ctxAt k = f (c.ctxAt k) := by
  simp only [Core.ctxAt, Core.mapCtx, hf]
  split
  · rfl
  · rw [List.find?_map]
    have : ((fun x : Ctx => x.id == k) ∘ f) = fun x => x.id == k := by funext x; simp [hf]
    rw [this]; cases h : c.rest.find? (fun x => x.id == k) <;> simp

theorem Core.ctxAt_focus {c : Core} {j k : Nat} (hj : (c.ctxAt j).id = j) (hk : (c.ctxAt k).id = k) : (c.focus j).ctxAt k = c.ctxAt k := by
  by_cases e : j = k
  · subst e; simp [Core.focus, Core.ctxAt] at hj ⊢; simp only [hj]; simp
  · have h1 : (c.focus j).ctx.id ≠ k := by simp only [Core.focus]; rw [hj]; exact e
    rw [ctxAt_find, ctxAt_find]
    have h2 : (c.focus j).ctxs.find? (fun x => x.id == k) = c.ctxs.find? (fun x => x.id == k) := by
      simp only [Core.ctxs, Core.focus]
      rw [List.find?_cons_of_neg (by simpa [hj] using e), List.find?_filter]
      congr 1; funext x; by_cases hx : x.id = k <;> simp [hx]; exact fun h => e h.symm
    rw [h2]
    have h3 := hk; rw [ctxAt_find] at h3
    cases hq : c.ctxs.find? (fun x => x.id == k) with
    | some x => rfl
    | none =>
      exfalso; rw [hq] at h3; simp at h3
      have := List.find?_eq_none.mp hq c.ctx (by simp [Core.ctxs])
      simp [h3] at this

/-! ## Cores of the package -/

@[simp] theorem Core.updCtx_part (c : Core) (k : Nat) (f : Ctx → Ctx) : (c.updCtx k f).part = c.part := by
  simp only [Core.updCtx]; split <;> rfl
@[simp] theorem Core.mapCtx_phys (c : Core) (f : Ctx → Ctx) : (c.mapCtx f).phys = c.phys := rfl
@[simp] theorem Core.focus_phys (c : Core) (k : Nat) : (c.focus k).phys = c.phys := rfl
@[simp] theorem Core.focus_ctx (c : Core) (k : Nat) : (c.focus k).ctx = c.ctxAt k := rfl

theorem State.coreAt_updCtx {s : State} {p k : Nat} {f : Ctx → Ctx} (h : (s.coreAt p).phys = p) :
    (s.updCtx p k f).coreAt p = (s.coreAt p).updCtx k f := State.coreAt_updCore s p _ h (by simp)

/-- What does not change the cores does not change one of them. -/
theorem State.coreAt_of {s t : State} (h1 : t.core = s.core) (h2 : t.others = s.others) (p : Nat) : t.coreAt p = s.coreAt p := by
  simp [State.coreAt, h1, h2]

@[simp] theorem State.coreAt_scheduleAs (s : State) (c p x : Nat) (e : Instr) (q : Nat) : (s.scheduleAs c p x e).coreAt q = s.coreAt q := rfl
@[simp] theorem State.coreAt_schedule (s : State) (c p : Nat) (e : Instr) (q : Nat) : (s.schedule c p e).coreAt q = s.coreAt q := rfl
@[simp] theorem State.coreAt_cancel (s : State) (f : Instr → Bool) (q : Nat) : (s.cancel f).coreAt q = s.coreAt q := rfl
@[simp] theorem State.coreAt_onHub (s : State) (f : Hub → Hub) (q : Nat) : (s.onHub f).coreAt q = s.coreAt q := rfl
@[simp] theorem State.coreAt_onPart (s : State) (n : Nat) (f : Part → Part) (q : Nat) : (s.onPart n f).coreAt q = s.coreAt q := rfl
@[simp] theorem State.ctxAt_scheduleAs (s : State) (c p x : Nat) (e : Instr) (q k : Nat) : (s.scheduleAs c p x e).ctxAt q k = s.ctxAt q k := rfl
@[simp] theorem State.ctxAt_schedule (s : State) (c p : Nat) (e : Instr) (q k : Nat) : (s.schedule c p e).ctxAt q k = s.ctxAt q k := rfl
@[simp] theorem State.ctxAt_cancel (s : State) (f : Instr → Bool) (q k : Nat) : (s.cancel f).ctxAt q k = s.ctxAt q k := rfl
@[simp] theorem State.ctxAt_onHub (s : State) (f : Hub → Hub) (q k : Nat) : (s.onHub f).ctxAt q k = s.ctxAt q k := rfl
@[simp] theorem State.ctxAt_onPart (s : State) (n : Nat) (f : Part → Part) (q k : Nat) : (s.onPart n f).ctxAt q k = s.ctxAt q k := rfl

/-! ## Partitions -/

@[simp] theorem State.partAt_scheduleAs (s : State) (c p x : Nat) (e : Instr) (n : Nat) : (s.scheduleAs c p x e).partAt n = s.partAt n := rfl
@[simp] theorem State.partAt_schedule (s : State) (c p : Nat) (e : Instr) (n : Nat) : (s.schedule c p e).partAt n = s.partAt n := rfl
@[simp] theorem State.partAt_cancel (s : State) (f : Instr → Bool) (n : Nat) : (s.cancel f).partAt n = s.partAt n := rfl
@[simp] theorem State.partAt_updCore (s : State) (p : Nat) (f : Core → Core) (n : Nat) : (s.updCore p f).partAt n = s.partAt n := by
  simp [State.partAt]
@[simp] theorem State.partAt_updCtx (s : State) (p k : Nat) (f : Ctx → Ctx) (n : Nat) : (s.updCtx p k f).partAt n = s.partAt n := by
  simp [State.partAt]

/-- Partition n after a change of partition n. -/
theorem State.partAt_onPart {s : State} {n : Nat} {f : Part → Part} (h : n < 16) : (s.onPart n f).partAt n = f (s.partAt n) := by
  simp [State.onPart, State.onHub, State.partAt, vmod, h]

/-- Another partition is as it was. -/
theorem State.partAt_onPart_ne {s : State} {n m : Nat} {f : Part → Part} (h : m ≠ n) : (s.onPart n f).partAt m = s.partAt m := by
  simp only [State.onPart, State.onHub, State.partAt, vmod]; split
  · by_cases hm : m < 16
    · simp [Ne.symm h]
    · simp [hm]
  · rfl

end Sys2Proof.Machine
end

