-- ==== Sys2Proof/Laws/Frame.lean ====
section
/-! SUPPORT. Frames: the operations that leave memory as it was, and those that leave host memory as it was. -/

namespace Sys2Proof.Machine

/-! ## Memory -/

@[simp] theorem foldl_mem {β : Type} (g : State → β → State) (l : List β) (s : State) (h : ∀ t b, (g t b).mem = t.mem) :
    (l.foldl g s).mem = s.mem := foldl_same State.mem g h l s

theorem State.onChain_mem (p : Nat) (f : Chain → State → State) (s : State) (h : ∀ c t, (f c t).mem = t.mem) :
    (s.onChain p f).mem = s.mem := by
  unfold State.onChain; split
  · rfl
  · exact h _ _

@[simp] theorem State.shift_mem (f : Instr → Bool) (n : Nat) (s : State) : (State.shift f n s).mem = s.mem := by
  unfold State.shift
  rw [foldl_mem _ _ _ fun t b => by simp]
  simp
@[simp] theorem State.landS_mem (L : Nat) (d : Fin 64) (v : Word) (tag : Tag) (s : State) : (State.landS L d v tag s).mem = s.mem := by
  unfold State.landS
  split <;> simp
@[simp] theorem State.landP_mem (L : Nat) (d : Fin 32) (m v : LaneMask) (tag : Tag) (s : State) : (State.landP L d m v tag s).mem = s.mem := by
  unfold State.landP
  split <;> simp
@[simp] theorem State.landV_mem (L : Nat) (d : Nat) (m : LaneMask) (x : Lanes) (tag : Tag) (s : State) : (State.landV L d m x tag s).mem = s.mem := by
  simp [State.landV]
@[simp] theorem State.wakeHarvest_mem (n : Nat) (s : State) : (State.wakeHarvest n s).mem = s.mem := by
  unfold State.wakeHarvest
  split <;> simp
@[simp] theorem State.addRecord_mem (r : ErrRecord) (s : State) : (State.addRecord r s).mem = s.mem := by
  unfold State.addRecord
  split <;> simp
@[simp] theorem State.capture_mem (p k e : Nat) (s : State) : (State.capture p k e s).mem = s.mem := by
  simp [State.capture]
@[simp] theorem State.landResult_mem (l : Landing) (s : State) : (State.landResult l s).mem = s.mem := by
  simp [State.landResult]
@[simp] theorem State.landDrain_mem (r : DrainLand) (l : Landing) (s : State) : (State.landDrain r l s).mem = s.mem := by
  simp [State.landDrain]
@[simp] theorem State.releaseDust_mem (p k d : Nat) (s : State) : (State.releaseDust p k d s).mem = s.mem := by
  unfold State.releaseDust
  dsimp only
  rw [State.updCtx_mem, foldl_mem _ _ _ fun t x => by simp, foldl_mem _ _ _ fun t x => by simp]
@[simp] theorem State.profile_mem (p kind : Nat) (e : List Byte) (s : State) : (State.profile p kind e s).mem = s.mem := by
  simp only [State.profile]
  (repeat' split) <;> simp
@[simp] theorem State.snag_mem (p k cause lost bundle : Nat) (s : State) : (State.snag p k cause lost bundle s).mem = s.mem := by
  simp only [State.snag]
  (repeat' split) <;> simp
@[simp] theorem State.endSnag_mem (p k : Nat) (s : State) : (State.endSnag p k s).mem = s.mem := by
  unfold State.endSnag
  split <;> simp
@[simp] theorem State.trapStop_mem (p k b : Nat) (r : ErrRecord) (s : State) : (State.trapStop p k b r s).mem = s.mem := by
  simp only [State.trapStop]
  (repeat' split) <;> simp
@[simp] theorem State.trapAt_mem (p k b : Nat) (r : ErrRecord) (s : State) : (State.trapAt p k b r s).mem = s.mem := by
  simp [State.trapAt]
@[simp] theorem State.takeTrap_mem (r : ErrRecord) (s : State) : (State.takeTrap r s).mem = s.mem := by
  simp [State.takeTrap]
@[simp] theorem State.rollback_mem (r : ErrRecord) (s : State) : (State.rollback r s).mem = s.mem := by
  simp [State.rollback]
@[simp] theorem State.recoverable_mem (r : ErrRecord) (s : State) : (State.recoverable r s).mem = s.mem := by
  unfold State.recoverable
  split <;> simp
@[simp] theorem State.spillCount_mem (off n : Nat) (s : State) : (State.spillCount off n s).mem = s.mem := by
  simp [State.spillCount]
@[simp] theorem State.storeCells_mem (sp idx : Nat) (cs : List Host.Cell) (s : State) : (State.storeCells sp idx cs s).mem = s.mem := by
  simp [State.storeCells]
@[simp] theorem State.spillCounts_mem (a : AddrReg) (ps : List (Int × Nat)) (s : State) : (State.spillCounts a ps s).mem = s.mem := by
  unfold State.spillCounts
  split <;> simp
@[simp] theorem State.engineStart_mem (s : State) : (State.engineStart s).mem = s.mem := by
  unfold State.engineStart
  split <;> simp
@[simp] theorem State.touch_mem (key : Nat → CipherKey) (addrs : List Nat) (s : State) : (State.touch key addrs s).mem = s.mem := by
  simp only [State.touch]
  (repeat' split) <;> simp
@[simp] theorem State.rekeyWhole_mem (fs : List Nat) (s : State) : (State.rekeyWhole fs s).mem = s.mem := by
  simp [State.rekeyWhole]
@[simp] theorem State.doom_mem (p k : Nat) (r : ErrRecord) (s : State) : (State.doom p k r s).mem = s.mem := by
  simp [State.doom]
@[simp] theorem State.doomOf_mem (p k tag : Nat) (r : ErrRecord) (s : State) : (State.doomOf p k tag r s).mem = s.mem := by
  simp [State.doomOf]
@[simp] theorem State.trapNow_mem (p k : Nat) (r : ErrRecord) (s : State) : (State.trapNow p k r s).mem = s.mem := by
  unfold State.trapNow
  split <;> simp
@[simp] theorem State.startCopy_mem (c : CopyCmd) (start : Nat) (s : State) : (State.startCopy c start s).mem = s.mem := by
  simp [State.startCopy]
@[simp] theorem State.startChain_mem (p : Nat) (h : Chain) (s : State) : (State.startChain p h s).mem = s.mem := by
  simp [State.startChain]
@[simp] theorem State.kickCopy_mem (p : Nat) (s : State) : (State.kickCopy p s).mem = s.mem := by
  simp only [State.kickCopy]
  (repeat' split) <;> simp
@[simp] theorem State.enqueueCopy_mem (p : Nat) (q : CopyCmd ⊕ Chain) (s : State) : (State.enqueueCopy p q s).mem = s.mem := by
  simp [State.enqueueCopy]
@[simp] theorem State.endChain_mem (p t : Nat) (s : State) : (State.endChain p t s).mem = s.mem := by
  simp [State.endChain]
@[simp] theorem State.chainFault_mem (p : Nat) (h : Chain) (r : ErrRecord) (s : State) : (State.chainFault p h r s).mem = s.mem := by
  simp [State.chainFault]
@[simp] theorem State.chainTo_mem (p : Nat) (h : Chain) (pos : Nat) (s : State) : (State.chainTo p h pos s).mem = s.mem := by
  simp [State.chainTo]
@[simp] theorem State.chainBad_mem (p : Nat) (h : Chain) (s : State) : (State.chainBad p h s).mem = s.mem := by
  simp [State.chainBad]
@[simp] theorem State.chainEnd_mem (p : Nat) (s : State) : (State.chainEnd p s).mem = s.mem := by
  unfold State.chainEnd
  exact State.onChain_mem _ _ _ fun h t => by dsimp only; split <;> simp
@[simp] theorem State.chainCopy_mem (p : Nat) (s : State) : (State.chainCopy p s).mem = s.mem := by
  unfold State.chainCopy
  refine State.onChain_mem _ _ _ fun h t => ?_
  dsimp only
  (repeat' split) <;> simp
@[simp] theorem State.chainLoop_mem (p : Nat) (s : State) : (State.chainLoop p s).mem = s.mem := by
  unfold State.chainLoop
  refine State.onChain_mem _ _ _ fun h t => ?_
  dsimp only
  (repeat' split) <;> simp
@[simp] theorem State.chainSkipp_mem (p : Nat) (s : State) : (State.chainSkipp p s).mem = s.mem := by
  unfold State.chainSkipp
  refine State.onChain_mem _ _ _ fun h t => ?_
  dsimp only
  (repeat' split) <;> simp
@[simp] theorem State.chainSkipf_mem (p : Nat) (s : State) : (State.chainSkipf p s).mem = s.mem := by
  unfold State.chainSkipf
  refine State.onChain_mem _ _ _ fun h t => ?_
  dsimp only
  (repeat' split) <;> simp
@[simp] theorem State.chainReserved_mem (p : Nat) (s : State) : (State.chainReserved p s).mem = s.mem := by
  unfold State.chainReserved
  exact State.onChain_mem _ _ _ fun h t => by simp
@[simp] theorem State.chainEntry_mem (p : Nat) (h : Chain) (s : State) : (State.chainEntry p h s).mem = s.mem := by
  simp only [State.chainEntry]
  (repeat' split) <;> simp
@[simp] theorem State.drew_mem (am : LaneMask) (s : State) : (State.drew am s).mem = s.mem := by
  simp [State.drew]
@[simp] theorem State.mapEntries_mem (n : Nat) (p : TEntry → Bool) (f : TEntry → TEntry) (s : State) : (State.mapEntries n p f s).mem = s.mem := by
  simp [State.mapEntries]
@[simp] theorem State.regen_mem (n : Nat) (e : TEntry) (old gen : Nat) (taint : Bool) (s : State) : (State.regen n e old gen taint s).mem = s.mem := by
  simp [State.regen]
@[simp] theorem State.updRec_mem (n : Nat) (e : TEntry) (f : TRec → TRec) (s : State) : (State.updRec n e f s).mem = s.mem := by
  simp [State.updRec]
@[simp] theorem State.dropSwatch_mem (n : Nat) (e : TEntry) (s : State) : (State.dropSwatch n e s).mem = s.mem := by
  simp [State.dropSwatch]
@[simp] theorem State.setEntry_mem (p t : Nat) (e : TEntry) (s : State) : (State.setEntry p t e s).mem = s.mem := by
  simp [State.setEntry]
@[simp] theorem State.modEntry_mem (p t : Nat) (f : TEntry → TEntry) (s : State) : (State.modEntry p t f s).mem = s.mem := by
  simp [State.modEntry]
@[simp] theorem State.giveEntry_mem (p k t : Nat) (e : TEntry) (s : State) : (State.giveEntry p k t e s).mem = s.mem := by
  unfold State.giveEntry
  split <;> simp
@[simp] theorem State.beginLend_mem (m : TrowelMove) (s : State) : (State.beginLend m s).mem = s.mem := by
  simp only [State.beginLend]
  (repeat' split) <;> simp
@[simp] theorem State.beginRemote_mem (t grant flag : Nat) (s : State) : (State.beginRemote t grant flag s).mem = s.mem := by
  simp [State.beginRemote]
@[simp] theorem State.finishLend_mem (m : TrowelMove) (s : State) : (State.finishLend m s).mem = s.mem := by
  simp only [State.finishLend]
  (repeat' split) <;> simp
@[simp] theorem State.mayMigrate_mem (n grant : Nat) (out : Bool) (space loc count : Nat) (s : State) : (State.mayMigrate n grant out space loc count s).mem = s.mem := by
  simp only [State.mayMigrate]
  (repeat' split) <;> simp [apply_ite]
@[simp] theorem State.beginReturn_mem (p key : Nat) (s : State) : (State.beginReturn p key s).mem = s.mem := by
  simp only [State.beginReturn]
  (repeat' split) <;> simp
@[simp] theorem State.reachHome_mem (p key : Nat) (s : State) : (State.reachHome p key s).mem = s.mem := by
  simp only [State.reachHome]
  (repeat' split) <;> simp
@[simp] theorem State.beginShare_mem (p k t : Nat) (e : TEntry) (s : State) : (State.beginShare p k t e s).mem = s.mem := by
  simp [State.beginShare]
@[simp] theorem State.beginUnshare_mem (e : TEntry) (p t : Nat) (s : State) : (State.beginUnshare e p t s).mem = s.mem := by
  simp [State.beginUnshare]
@[simp] theorem State.beginUnswatch_mem (e : TEntry) (s : State) : (State.beginUnswatch e s).mem = s.mem := by
  simp [State.beginUnswatch]
@[simp] theorem State.beginClean_mem (e : TEntry) (zero : Bool) (s : State) : (State.beginClean e zero s).mem = s.mem := by
  unfold State.beginClean
  split <;> simp
@[simp] theorem State.updGroup_mem (g : Nat) (f : Group → Group) (s : State) : (State.updGroup g f s).mem = s.mem := by
  simp [State.updGroup]
@[simp] theorem State.onIssuer_mem (a : AggWork) (f : Ctx → Ctx) (s : State) : (State.onIssuer a f s).mem = s.mem := by
  simp [State.onIssuer]
@[simp] theorem State.aggTrap_mem (a : AggWork) (code : Nat) (a0 a1 : Word) (addr : Option (Nat × Nat × Nat)) (s : State) : (State.aggTrap a code a0 a1 addr s).mem = s.mem := by
  simp only [State.aggTrap]
  (repeat' split) <;> simp
@[simp] theorem State.takeShares_mem (custody swatches : List TEntry) (s : State) : (State.takeShares custody swatches s).mem = s.mem := by
  simp [State.takeShares]
@[simp] theorem State.returnShares_mem (a : AggWork) (s : State) : (State.returnShares a s).mem = s.mem := by
  simp [State.returnShares]
@[simp] theorem State.updRound_mem (g key : Nat) (f : Round → Round) (s : State) : (State.updRound g key f s).mem = s.mem := by
  simp [State.updRound]
@[simp] theorem State.endAgg_mem (a : AggWork) (s : State) : (State.endAgg a s).mem = s.mem := by
  simp [State.endAgg]
@[simp] theorem State.lateAgg_mem (a : AggWork) (s : State) : (State.lateAgg a s).mem = s.mem := by
  unfold State.lateAgg
  split <;> simp
@[simp] theorem State.closeNext_mem (g : Nat) (s : State) : (State.closeNext g s).mem = s.mem := by
  unfold State.closeNext
  split <;> simp
@[simp] theorem State.decideMember_mem (e : Group) (a : AggWork) (s : State) : (State.decideMember e a s).1.mem = s.mem := by
  simp only [State.decideMember]
  (repeat' split) <;> simp
@[simp] theorem State.timeoutNotice_mem (e : Group) (g k absent : Nat) (inc : List AggWork) (s : State) : (State.timeoutNotice e g k absent inc s).mem = s.mem := by
  simp only [State.timeoutNotice]
  (repeat' split) <;> simp [apply_ite]
@[simp] theorem State.closeRound_mem (g key : Nat) (s : State) : (State.closeRound g key s).mem = s.mem := by
  have hd : ∀ (e : Group) (l : List AggWork) (u : State × List AggWork), (l.foldl (fun (t : State × List AggWork) a =>
      ((t.1.decideMember e a).1, if (t.1.decideMember e a).2 then t.2 ++ [a] else t.2)) u).1.mem = u.1.mem := by
    intro e l
    induction l with
    | nil => intro u; rfl
    | cons a r ih => intro u; rw [List.foldl_cons, ih]; simp
  unfold State.closeRound
  split
  · rfl
  · extract_lets e order s1 d inc s2 absent audit s3 s4 s5
    have h2 : s2.mem = s.mem := hd _ _ _
    have h4 : s4.mem = s.mem := by simp [s4, s3, h2]
    have h5 : s5.mem = s.mem := by simp only [s5]; split <;> simp [h4]
    simp [h5]
@[simp] theorem State.openRound_mem (e : Group) (w : AggWork) (s : State) : (State.openRound e w s).mem = s.mem := by
  simp only [State.openRound]
  (repeat' split) <;> simp
@[simp] theorem State.staleAgg_mem (e : Group) (w : AggWork) (s : State) : (State.staleAgg e w s).mem = s.mem := by
  unfold State.staleAgg
  split <;> simp
@[simp] theorem State.leaveRounds_mem (n : Nat) (s : State) : (State.leaveRounds n s).mem = s.mem := by
  simp [State.leaveRounds]
@[simp] theorem State.leaveRound_mem (g key member : Nat) (s : State) : (State.leaveRound g key member s).mem = s.mem := by
  simp [State.leaveRound]
@[simp] theorem State.updChan_mem (n ch : Nat) (f : ChanRec → ChanRec) (s : State) : (State.updChan n ch f s).mem = s.mem := by
  simp [State.updChan]
@[simp] theorem State.updLink_mem (p id : Nat) (f : LinkCmd → LinkCmd) (s : State) : (State.updLink p id f s).mem = s.mem := by
  simp [State.updLink]
@[simp] theorem State.reserveTiles_mem (l : LinkCmd) (q total n : Nat) (s : State) : (s.reserveTiles l q total n).mem = s.mem := by
  induction n with
  | zero => rfl
  | succ n ih =>
    unfold State.reserveTiles
    dsimp only
    split
    · rw [State.updLink_mem, State.updCore_mem, ih]
    · exact ih

@[simp] theorem State.reap_mem (p : Nat) (s : State) : (State.reap p s).mem = s.mem := by
  simp [State.reap]
@[simp] theorem State.updPort_mem (p : Nat) (f : Port → Port) (s : State) : (State.updPort p f s).mem = s.mem := by
  simp [State.updPort]
@[simp] theorem State.sendBy_mem (p : Nat) (f : Flit) (s : State) : (State.sendBy p f s).mem = s.mem := by
  simp [State.sendBy]
@[simp] theorem State.sendFlit_mem (f : Flit) (s : State) : (State.sendFlit f s).mem = s.mem := by
  unfold State.sendFlit
  split <;> simp
@[simp] theorem State.turnAt_mem (n ch t : Nat) (s : State) : (State.turnAt n ch t s).mem = s.mem := by
  simp [State.turnAt]
@[simp] theorem State.push_mem (n ch : Nat) (fs : List OutFlit) (s : State) : (State.push n ch fs s).mem = s.mem := by
  simp only [State.push]
  (repeat' split) <;> simp
@[simp] theorem State.pushOne_mem (n ch : Nat) (f : Flit) (s : State) : (State.pushOne n ch f s).mem = s.mem := by
  simp [State.pushOne]
@[simp] theorem State.startTimer_mem (ch : Nat) (t : Option (Nat × Nat × Nat)) (s : State) : (State.startTimer ch t s).mem = s.mem := by
  unfold State.startTimer
  split <;> simp
@[simp] theorem State.popOut_mem (n ch : Nat) (o : OutFlit) (r : List OutFlit) (s : State) : (State.popOut n ch o r s).mem = s.mem := by
  unfold State.popOut
  split <;> simp
@[simp] theorem State.pump_mem (n ch : Nat) (s : State) : (State.pump n ch s).mem = s.mem := by
  simp only [State.pump]
  (repeat' split) <;> simp
@[simp] theorem State.turnPort_mem (p : Nat) (s : State) : (State.turnPort p s).mem = s.mem := by
  simp only [State.turnPort]
  (repeat' split) <;> simp
@[simp] theorem State.queueFlit_mem (who : Option Nat) (f : Flit) (s : State) : (State.queueFlit who f s).mem = s.mem := by
  simp only [State.queueFlit]
  (repeat' split) <;> simp
@[simp] theorem State.pumpPort_mem (p : Nat) (s : State) : (State.pumpPort p s).mem = s.mem := by
  simp only [State.pumpPort]
  (repeat' split) <;> simp
@[simp] theorem State.replayFrom_mem (p : Nat) (seq : BitVec 16) (s : State) : (State.replayFrom p seq s).mem = s.mem := by
  simp [State.replayFrom]
@[simp] theorem State.transmit_mem (l : LinkCmd) (s : State) : (State.transmit l s).mem = s.mem := by
  simp only [State.transmit]
  (repeat' split) <;> simp
@[simp] theorem State.tryTransmit_mem (p id : Nat) (s : State) : (State.tryTransmit p id s).mem = s.mem := by
  simp only [State.tryTransmit]
  (repeat' split) <;> simp
@[simp] theorem State.linkTrap_mem (l : LinkCmd) (code : Nat) (s : State) : (State.linkTrap l code s).mem = s.mem := by
  simp [State.linkTrap]
@[simp] theorem State.dropAcks_mem (p k id : Nat) (f : Nat → Bool) (s : State) : (State.dropAcks p k id f s).mem = s.mem := by
  simp [State.dropAcks]
@[simp] theorem State.matchSend_mem (p ch : Nat) (s : State) : (State.matchSend p ch s).mem = s.mem := by
  simp only [State.matchSend]
  (repeat' split) <;> simp
@[simp] theorem State.enqueueLink_mem (l : LinkCmd) (c : ChanRec) (s : State) : (State.enqueueLink l c s).mem = s.mem := by
  unfold State.enqueueLink
  extract_lets s1 s2 s3
  have h3 : s3.mem = s.mem := by simp only [s3]; split <;> simp [s2, s1]
  split <;> simp [h3]
@[simp] theorem State.sent_mem (l : LinkCmd) (s : State) : (State.sent l s).mem = s.mem := by
  unfold State.sent
  split <;> simp
@[simp] theorem State.flagLater_mem (l : LinkCmd) (chunk : Nat) (s : State) : (State.flagLater l chunk s).mem = s.mem := by
  simp [State.flagLater]
@[simp] theorem State.tileLands_mem (l : LinkCmd) (q t : Nat) (s : State) : (State.tileLands l q t s).mem = s.mem := by
  simp [State.tileLands]
@[simp] theorem State.landTile_mem (l : LinkCmd) (t : Nat) (s : State) : (State.landTile l t s).mem = s.mem := by
  simp only [State.landTile]
  (repeat' split) <;> simp
@[simp] theorem State.sendOn_mem (l : LinkCmd) (c : ChanRec) (tag chunk : Nat) (secs : List (List Byte × W32)) (s : State) : (State.sendOn l c tag chunk secs s).mem = s.mem := by
  simp [State.sendOn]
@[simp] theorem State.allredTry_mem (p id : Nat) (s : State) : (State.allredTry p id s).mem = s.mem := by
  unfold State.allredTry
  (repeat' split) <;> first | rfl | (refine foldl_same State.mem _ (fun t x => ?_) _ _; (repeat' split) <;> simp)
@[simp] theorem State.chunkLanded_mem (l : LinkCmd) (parts first q origin chunk : Nat) (s : State) : (State.chunkLanded l parts first q origin chunk s).mem = s.mem := by
  simp only [State.chunkLanded]
  (repeat' split) <;> simp
@[simp] theorem State.startCollective_mem (p id : Nat) (s : State) : (State.startCollective p id s).mem = s.mem := by
  unfold State.startCollective
  split
  · rfl
  · split
    · rfl
    · split
      · rfl
      · extract_lets n s1
        have h1 : s1.mem = s.mem := foldl_mem _ _ _ fun t i => by simp
        split
        · simp [h1]
        · rw [foldl_mem _ _ _ fun t i => by simp, h1]
        · exact h1
@[simp] theorem State.giveUpChunk_mem (l : LinkCmd) (chunk : Nat) (s : State) : (State.giveUpChunk l chunk s).mem = s.mem := by
  simp only [State.giveUpChunk]
  (repeat' split) <;> simp
@[simp] theorem State.retrain_mem (p : Nat) (s : State) : (State.retrain p s).mem = s.mem := by
  simp only [State.retrain]
  (repeat' split) <;> simp
@[simp] theorem State.resumePumps_mem (s : State) : (State.resumePumps s).mem = s.mem := by
  simp [State.resumePumps]
@[simp] theorem State.askReplay_mem (p : Nat) (seq : BitVec 16) (s : State) : (State.askReplay p seq s).mem = s.mem := by
  simp [State.askReplay]
@[simp] theorem State.dropFaulty_mem (f : Flit) (s : State) : (State.dropFaulty f s).mem = s.mem := by
  simp only [State.dropFaulty]
  (repeat' split) <;> simp
@[simp] theorem State.agfwdFlit_mem (l : LinkCmd) (origin : Nat) (f : Flit) (s : State) : (State.agfwdFlit l origin f s).mem = s.mem := by
  simp only [State.agfwdFlit]
  (repeat' split) <;> simp
@[simp] theorem State.updPut_mem (n ch cmd : Nat) (f : PutIn → PutIn) (s : State) : (State.updPut n ch cmd f s).mem = s.mem := by
  simp [State.updPut]
@[simp] theorem State.openPut_mem (n : Nat) (f : Flit) (s : State) : (State.openPut n f s).mem = s.mem := by
  unfold State.openPut
  split <;> simp
@[simp] theorem State.settleChunk_mem (p : Nat) (l : LinkCmd) (chunk : Nat) (s : State) : (State.settleChunk p l chunk s).mem = s.mem := by
  simp [State.settleChunk]
@[simp] theorem State.abortPut_mem (n : Nat) (f : Flit) (s : State) : (State.abortPut n f s).mem = s.mem := by
  simp only [State.abortPut]
  (repeat' split) <;> simp
@[simp] theorem State.endHold_mem (n ch : Nat) (s : State) : (State.endHold n ch s).mem = s.mem := by
  simp [State.endHold]
@[simp] theorem State.landSample_mem (o : PortOp) (dst : Nat) (s : State) : (State.landSample o dst s).mem = s.mem := by
  simp only [State.landSample]
  (repeat' split) <;> simp
@[simp] theorem State.scaleLater_mem (part : Nat) (bytes : List Byte) (s : State) : (State.scaleLater part bytes s).mem = s.mem := by
  simp [State.scaleLater]
@[simp] theorem State.beginSwap_mem (s : State) : (State.beginSwap s).mem = s.mem := by
  simp only [State.beginSwap]
  (repeat' split) <;> simp
@[simp] theorem State.startArray_mem (qa : Nat) (s : State) : (State.startArray qa s).mem = s.mem := by
  simp [State.startArray]
@[simp] theorem State.rowPerform_mem (r : RowLand) (s : State) : (State.rowPerform r s).mem = s.mem := by
  simp [State.rowPerform]
@[simp] theorem State.retireAt_mem (p t issue : Nat) (e : SaEntry) (s : State) : (State.retireAt p t issue e s).mem = s.mem := by
  simp [State.retireAt]
@[simp] theorem State.retireFrom_mem (p t issue : Nat) (es : List SaEntry) (s : State) : (State.retireFrom p t issue es s).mem = s.mem := by
  unfold State.retireFrom
  exact foldl_same State.mem _ (fun t x => by simp) _ _
@[simp] theorem State.saArrive_mem (p : Nat) (e : SaEntry) (s : State) : (State.saArrive p e s).mem = s.mem := by
  simp only [State.saArrive]
  (repeat' split) <;> simp
@[simp] theorem State.startSa_mem (c : SaCmd) (s : State) : (State.startSa c s).mem = s.mem := by
  simp only [State.startSa]
  (repeat' split) <;> simp [apply_ite]
@[simp] theorem State.kickSa_mem (p : Nat) (s : State) : (State.kickSa p s).mem = s.mem := by
  simp only [State.kickSa]
  (repeat' split) <;> simp
@[simp] theorem State.enqueueSa_mem (c : SaCmd) (s : State) : (State.enqueueSa c s).mem = s.mem := by
  simp [State.enqueueSa]
@[simp] theorem State.commitGate_mem (s : State) : (State.commitGate s).mem = s.mem := by
  simp only [State.commitGate]
  (repeat' split) <;> simp
@[simp] theorem State.commitEnq_mem (s : State) : (State.commitEnq s).mem = s.mem := by
  simp only [State.commitEnq]
  (repeat' split) <;> simp
@[simp] theorem State.finjOff_mem (p k : Nat) (v : Word) (s : State) : (State.finjOff p k v s).mem = s.mem := by
  simp [State.finjOff]
@[simp] theorem State.finjArray_mem (p k : Nat) (v : Word) (s : State) : (State.finjArray p k v s).mem = s.mem := by
  simp [State.finjArray]
@[simp] theorem State.finjSector_mem (p k : Nat) (v : Word) (s : State) : (State.finjSector p k v s).mem = s.mem := by
  simp [State.finjSector]
@[simp] theorem State.applyPost_mem (q : Post) (s : State) : (State.applyPost q s).mem = s.mem := by
  simp only [State.applyPost]
  (repeat' split) <;> simp
@[simp] theorem State.leaveIlk_mem (p k : Nat) (s : State) : (State.leaveIlk p k s).mem = s.mem := by
  simp only [State.leaveIlk]
  (repeat' split) <;> simp
@[simp] theorem State.branchTransfer_mem (p k target : Nat) (brk : Option Nat) (s : State) : (State.branchTransfer p k target brk s).mem = s.mem := by
  simp [State.branchTransfer]
@[simp] theorem State.readyFree_mem (p k h : Nat) (s : State) : (State.readyFree p k h s).mem = s.mem := by
  simp [State.readyFree]
@[simp] theorem State.debugAt_mem (p k b : Nat) (r : Option ErrRecord) (s : State) : (State.debugAt p k b r s).mem = s.mem := by
  unfold State.debugAt
  split <;> simp
@[simp] theorem State.departs_mem (q : Post) (s : State) : (State.departs q s).mem = s.mem := by
  unfold State.departs
  split <;> simp
@[simp] theorem State.stopsAgain_mem (s : State) : (State.stopsAgain s).mem = s.mem := by
  simp [State.stopsAgain]
@[simp] theorem State.transfers_mem (s : State) : (State.transfers s).mem = s.mem := by
  simp only [State.transfers]
  (repeat' split) <;> simp
@[simp] theorem State.retireCheck_mem (p k : Nat) (s : State) : (State.retireCheck p k s).mem = s.mem := by
  simp only [State.retireCheck]
  (repeat' split) <;> simp
@[simp] theorem State.turnEnd_mem (ps : List Post) (s : State) : (State.turnEnd ps s).mem = s.mem := by
  simp only [State.turnEnd]
  (repeat' split) <;> simp
@[simp] theorem State.slipAt_mem (p k : Nat) (s : State) : (State.slipAt p k s).mem = s.mem := by
  unfold State.slipAt
  split <;> simp
@[simp] theorem State.slipAll_mem (ws : List (Nat × Ctx × SyncWait)) (s : State) : (State.slipAll ws s).mem = s.mem := by
  simp [State.slipAll]
@[simp] theorem State.plumbCheck_mem (n line scope : Nat) (s : State) : (State.plumbCheck n line scope s).mem = s.mem := by
  simp only [State.plumbCheck]
  (repeat' split) <;> simp
@[simp] theorem State.plumbCheckAll_mem (n : Nat) (s : State) : (State.plumbCheckAll n s).mem = s.mem := by
  simp [State.plumbCheckAll]
@[simp] theorem State.armLimit_mem (p k : Nat) (s : State) : (State.armLimit p k s).mem = s.mem := by
  simp only [State.armLimit]
  (repeat' split) <;> simp
@[simp] theorem State.resumeMember_mem (p k : Nat) (w : SyncWait) (s : State) : (State.resumeMember p k w s).mem = s.mem := by
  simp only [State.resumeMember]
  (repeat' split) <;> simp
@[simp] theorem State.takeCore_mem (p k : Nat) (s : State) : (State.takeCore p k s).mem = s.mem := by
  simp [State.takeCore]
@[simp] theorem State.pauseChained_mem (p k b : Nat) (s : State) : (State.pauseChained p k b s).mem = s.mem := by
  simp only [State.pauseChained]
  (repeat' split) <;> simp
@[simp] theorem State.restartChained_mem (p k : Nat) (s : State) : (State.restartChained p k s).mem = s.mem := by
  unfold State.restartChained
  extract_lets mine qs s1
  rw [foldl_mem _ _ _ fun t q => by split <;> simp]
  simp [s1]
@[simp] theorem State.planStarts_mem (p k : Nat) (s : State) : (State.planStarts p k s).mem = s.mem := by
  simp [State.planStarts]
@[simp] theorem State.rekick_mem (p : Nat) (s : State) : (State.rekick p s).mem = s.mem := by
  unfold State.rekick
  split <;> simp
@[simp] theorem State.stopBoundary_mem (p k : Nat) (s : State) : (State.stopBoundary p k s).mem = s.mem := by
  simp only [State.stopBoundary]
  (repeat' split) <;> simp
@[simp] theorem State.laterReads_mem (p k n : Nat) (s : State) : (State.laterReads p k n s).mem = s.mem := by
  simp [State.laterReads]
@[simp] theorem State.laterSamples_mem (p k e d : Nat) (s : State) : (State.laterSamples p k e d s).mem = s.mem := by
  unfold State.laterSamples
  simp only
  rw [foldl_mem _ _ _ fun t b => by simp]
  simp
@[simp] theorem State.rejoin_mem (p k : Nat) (s : State) : (State.rejoin p k s).mem = s.mem := by
  simp only [State.rejoin]
  (repeat' split) <;> simp
@[simp] theorem State.resumeCtx_mem (p k : Nat) (engines : Bool) (s : State) : (State.resumeCtx p k engines s).mem = s.mem := by
  unfold State.resumeCtx
  extract_lets x b n s1 s2 s3 x2 s4 s5 c s6
  have h3 : s3.mem = s.mem := by simp [s3, s2, s1]
  have h4 : s4.mem = s.mem := by simp only [s4]; split <;> simp [h3]
  have h5 : s5.mem = s.mem := by simp only [s5]; split <;> simp [h4]
  have h6 : s6.mem = s.mem := by simp only [s6]; (repeat' split) <;> simp [h5]
  (repeat' split) <;> simp [h6]
@[simp] theorem State.debugStop_mem (p k n : Nat) (s : State) : (State.debugStop p k n s).mem = s.mem := by
  simp [State.debugStop]
@[simp] theorem State.debugGo_mem (p k : Nat) (step : Bool) (s : State) : (State.debugGo p k step s).mem = s.mem := by
  simp only [State.debugGo]
  (repeat' split) <;> simp
@[simp] theorem State.updQueue_mem (n q : Nat) (f : Queue → Queue) (s : State) : (State.updQueue n q f s).mem = s.mem := by
  simp [State.updQueue]
@[simp] theorem State.pollAt_mem (n q t : Nat) (s : State) : (State.pollAt n q t s).mem = s.mem := by
  simp [State.pollAt]
@[simp] theorem State.pollNext_mem (n q : Nat) (s : State) : (State.pollNext n q s).mem = s.mem := by
  unfold State.pollNext
  split <;> simp
@[simp] theorem State.freeQueue_mem (c : Cmd) (s : State) : (State.freeQueue c s).mem = s.mem := by
  simp only [State.freeQueue]
  (repeat' split) <;> simp
@[simp] theorem State.again_mem (slot : Nat) (ev : Instr) (s : State) : (State.again slot ev s).mem = s.mem := by
  simp [State.again]
@[simp] theorem State.reclaim_mem (n : Nat) (r : TRec) (taint : Bool) (s : State) : (State.reclaim n r taint s).mem = s.mem := by
  simp [State.reclaim]
@[simp] theorem State.hot_mem (bundle reason ctx : Nat) (s : State) : (State.hot bundle reason ctx s).mem = s.mem := by
  simp only [State.hot]
  (repeat' split) <;> simp
@[simp] theorem State.hotFocus_mem (reason : Nat) (s : State) : (State.hotFocus reason s).mem = s.mem := by
  simp [State.hotFocus]
@[simp] theorem State.sample_mem (bundle wait seq : Nat) (s : State) : (State.sample bundle wait seq s).mem = s.mem := by
  simp only [State.sample]
  (repeat' split) <;> simp
@[simp] theorem State.enterSlot_mem (f : FSlot) (pos unit : Nat) (s : State) : (State.enterSlot f pos unit s).mem = s.mem := by
  simp [State.enterSlot]
@[simp] theorem State.enabled_mem (s : State) : (State.enabled s).mem = s.mem := by
  simp [State.enabled]
@[simp] theorem State.enterGroup_mem (fs : List FSlot) (s : State) : (State.enterGroup fs s).mem = s.mem := by
  simp [State.enterGroup]
@[simp] theorem State.withheld_mem (h : Hold) (s : State) : (State.withheld h s).mem = s.mem := by
  simp only [State.withheld]
  (repeat' split) <;> simp
@[simp] theorem State.stepEnd_mem (s : State) : (State.stepEnd s).mem = s.mem := by
  unfold State.stepEnd
  split <;> simp
@[simp] theorem State.suppressed_mem (s : State) : (State.suppressed s).mem = s.mem := by
  simp [State.suppressed]
@[simp] theorem State.hotIdle_mem (s : State) : (State.hotIdle s).mem = s.mem := by
  simp [State.hotIdle]
@[simp] theorem State.switchTo_mem (k : Nat) (s : State) : (State.switchTo k s).mem = s.mem := by
  simp [State.switchTo]
@[simp] theorem State.stopsDue_mem (s : State) : (State.stopsDue s).mem = s.mem := by
  simp [State.stopsDue]
@[simp] theorem State.trapsDue_mem (s : State) : (State.trapsDue s).mem = s.mem := by
  unfold State.trapsDue
  refine foldl_mem _ _ _ fun t x => ?_
  split
  · split <;> simp
  · rfl
@[simp] theorem State.idleTurn_mem (s : State) : (State.idleTurn s).mem = s.mem := by
  simp only [State.idleTurn]
  (repeat' split) <;> simp
@[simp] theorem State.switchTurn_mem (run : Run) (t : Nat) (s : State) : (State.switchTurn run t s).mem = s.mem := by
  simp only [State.switchTurn]
  (repeat' split) <;> simp
@[simp] theorem State.rotate_mem (s : State) : (State.rotate s).mem = s.mem := by
  simp only [State.rotate]
  (repeat' split) <;> simp
@[simp] theorem State.vacate_mem (p k : Nat) (s : State) : (State.vacate p k s).mem = s.mem := by
  simp [State.vacate]
@[simp] theorem State.emptyCtx_mem (p k : Nat) (s : State) : (State.emptyCtx p k s).mem = s.mem := by
  simp [State.emptyCtx]
@[simp] theorem State.moveOut_mem (p : Nat) (s : State) : (State.moveOut p s).mem = s.mem := by
  simp [State.moveOut]
@[simp] theorem State.request_mem (P : Nat) (ms : List (Nat × Nat)) (s : State) : (State.request P ms s).mem = s.mem := by
  simp [State.request]
@[simp] theorem State.spillHot_mem (p : Nat) (s : State) : (State.spillHot p s).mem = s.mem := by
  simp only [State.spillHot]
  (repeat' split) <;> simp [apply_ite]
@[simp] theorem State.loadCore_mem (n tag start : Nat) (im : Image) (lines : List (Nat × Nat)) (l p : Nat) (s : State) : (State.loadCore n tag start im lines l p s).mem = s.mem := by
  unfold State.loadCore
  split <;> simp
@[simp] theorem State.loadTrowels_mem (n tag : Nat) (im : Image) (b : Binding) (s : State) : (State.loadTrowels n tag im b s).mem = s.mem := by
  simp [State.loadTrowels]
@[simp] theorem State.loadChannel_mem (n : Nat) (d : ChanDecl) (s : State) : (State.loadChannel n d s).mem = s.mem := by
  unfold State.loadChannel
  split <;> simp
@[simp] theorem State.bindKey_mem (n i : Nat) (s : State) : (State.bindKey n i s).mem = s.mem := by
  unfold State.bindKey
  split <;> simp
@[simp] theorem State.loadGrants_mem (n : Nat) (im : Image) (b : Binding) (s : State) : (State.loadGrants n im b s).mem = s.mem := by
  simp only [State.loadGrants]
  (repeat' split) <;> simp [apply_ite]
@[simp] theorem State.homeTrowels_mem (n : Nat) (mine : TRec → Bool) (taint : Bool) (s : State) : (State.homeTrowels n mine taint s).mem = s.mem := by
  simp [State.homeTrowels]
@[simp] theorem State.holdChannels_mem (n : Nat) (chs : List Nat) (s : State) : (State.holdChannels n chs s).mem = s.mem := by
  simp [State.holdChannels]
@[simp] theorem State.passOn_mem (before : State) (p k : Nat) (s : State) : (State.passOn before p k s).mem = s.mem := by
  simp only [State.passOn]
  (repeat' split) <;> simp
@[simp] theorem State.dropLaunch_mem (n : Nat) (l : Launch) (taint : Bool) (s : State) : (State.dropLaunch n l taint s).mem = s.mem := by
  simp [State.dropLaunch]
@[simp] theorem State.restoreLater_mem (n : Nat) (s : State) : (State.restoreLater n s).mem = s.mem := by
  unfold State.restoreLater
  split <;> simp
@[simp] theorem State.markEnding_mem (n tag : Nat) (s : State) : (State.markEnding n tag s).mem = s.mem := by
  simp [State.markEnding]
@[simp] theorem State.requestFast_mem (P : Nat) (ms : List (Nat × Nat)) (s : State) : (State.requestFast P ms s).mem = s.mem := by
  simp [State.requestFast]
@[simp] theorem State.readyNow_mem (p : Nat) (s : State) : (State.readyNow p s).mem = s.mem := by
  simp [State.readyNow]
@[simp] theorem State.succeed_mem (S : Nat) (m : Nat × Nat × Nat) (s : State) : (State.succeed S m s).mem = s.mem := by
  simp only [State.succeed]
  (repeat' split) <;> simp
@[simp] theorem State.revoke_mem (n : Nat) (f : Option Nat) (s : State) : (State.revoke n f s).mem = s.mem := by
  simp [State.revoke]
@[simp] theorem State.cutChunks_mem (n : Nat) (l : LinkCmd) (cut : List Nat) (s : State) : (State.cutChunks n l cut s).mem = s.mem := by
  unfold State.cutChunks
  split <;> simp
@[simp] theorem State.cutLink_mem (n : Nat) (l : LinkCmd) (s : State) : (State.cutLink n l s).mem = s.mem := by
  simp only [State.cutLink]
  (repeat' split) <;> simp
@[simp] theorem State.cancelCommands_mem (n : Nat) (s : State) : (State.cancelCommands n s).mem = s.mem := by
  simp [State.cancelCommands]
@[simp] theorem State.quarantine_mem (n : Nat) (s : State) : (State.quarantine n s).mem = s.mem := by
  simp [State.quarantine]
@[simp] theorem State.loseSwatch_mem (n : Nat) (e : TEntry) (s : State) : (State.loseSwatch n e s).mem = s.mem := by
  unfold State.loseSwatch
  split <;> simp
@[simp] theorem State.loseTrowel_mem (n : Nat) (e : TEntry) (s : State) : (State.loseTrowel n e s).mem = s.mem := by
  simp only [State.loseTrowel]
  (repeat' split) <;> simp
@[simp] theorem State.removeCore_mem (n p : Nat) (s : State) : (State.removeCore n p s).mem = s.mem := by
  unfold State.removeCore
  dsimp only
  rw [State.updCore_mem, foldl_mem _ _ _ fun t e => by simp, foldl_mem _ _ _ fun t e => by simp]
@[simp] theorem State.mirrorLater_mem (p : Nat) (s : State) : (State.mirrorLater p s).mem = s.mem := by
  simp [State.mirrorLater]
@[simp] theorem State.applyCounter_mem (n p : Nat) (x : Option Nat) (s : State) : (State.applyCounter n p x s).mem = s.mem := by
  simp only [State.applyCounter]
  (repeat' split) <;> simp
@[simp] theorem State.countMismatch_mem (n : Nat) (r : ErrRecord) (s : State) : (State.countMismatch n r s).mem = s.mem := by
  simp only [State.countMismatch]
  (repeat' split) <;> simp
@[simp] theorem State.beginEnd_mem (n : Nat) (l : Launch) (s : State) : (State.beginEnd n l s).mem = s.mem := by
  unfold State.beginEnd
  split <;> simp
@[simp] theorem State.endTrapped_mem (n : Nat) (r : ErrRecord) (s : State) : (State.endTrapped n r s).mem = s.mem := by
  simp only [State.endTrapped]
  (repeat' split) <;> simp
@[simp] theorem State.assignOne_mem (n : Nat) (r : TRec) (s : State) : (State.assignOne n r s).mem = s.mem := by
  simp only [State.assignOne]
  (repeat' split) <;> simp
@[simp] theorem State.assignHome_mem (n : Nat) (s : State) : (State.assignHome n s).mem = s.mem := by
  simp [State.assignHome]
@[simp] theorem State.refuse_mem (offset : Nat) (s : State) : (State.refuse offset s).mem = s.mem := by
  simp [State.refuse]
@[simp] theorem State.broadcast_mem (n : Nat) (old : Word) (s : State) : (State.broadcast n old s).mem = s.mem := by
  simp [State.broadcast]
@[simp] theorem State.firstKey_mem (f : Nat) (v : Nat × Nat) (s : State) : (State.firstKey f v s).mem = s.mem := by
  simp [State.firstKey]
@[simp] theorem State.unnamed_mem (f : Nat) (s : State) : (State.unnamed f s).mem = s.mem := by
  simp [State.unnamed]
@[simp] theorem State.setFrame_mem (f : Nat) (g : Frame → Frame) (s : State) : (State.setFrame f g s).mem = s.mem := by
  simp [State.setFrame]
@[simp] theorem State.sendFrame_mem (frame chip far : Nat) (who : Option Nat) (s : State) : (State.sendFrame frame chip far who s).mem = s.mem := by
  simp [State.sendFrame]
@[simp] theorem State.settledNotice_mem (f : Nat) (x : Frame) (t : Nat) (s : State) : (State.settledNotice f x t s).mem = s.mem := by
  unfold State.settledNotice
  dsimp only
  split
  · simp
  · split <;> simp
  · rfl
@[simp] theorem State.countMoved_mem (f : Flit) (s : State) : (State.countMoved f s).mem = s.mem := by
  simp only [State.countMoved]
  (repeat' split) <;> simp
@[simp] theorem State.teardown_mem (n engine what : Nat) (s : State) : (State.teardown n engine what s).mem = s.mem := by
  simp [State.teardown]
@[simp] theorem State.extend_mem (i : Nat) (digest : BitVec 384) (s : State) : (State.extend i digest s).mem = s.mem := by
  simp [State.extend]
@[simp] theorem State.createPart_mem (n : Nat) (s : State) : (State.createPart n s).mem = s.mem := by
  simp [State.createPart]
@[simp] theorem State.notify_mem (n : Nat) (cause : Word) (s : State) : (State.notify n cause s).mem = s.mem := by
  simp [State.notify]
@[simp] theorem State.tellOwed_mem (n : Nat) (s : State) : (State.tellOwed n s).mem = s.mem := by
  simp [State.tellOwed]
@[simp] theorem State.setCtl_mem (n : Nat) (v : Word) (s : State) : (State.setCtl n v s).mem = s.mem := by
  simp only [State.setCtl]
  (repeat' split) <;> simp
@[simp] theorem State.capWrite_mem (p off : Nat) (v : Word) (s : State) : (State.capWrite p off v s).mem = s.mem := by
  simp only [State.capWrite]
  (repeat' split) <;> simp
@[simp] theorem State.setGroup_mem (g : Nat) (e : Group) (s : State) : (State.setGroup g e s).mem = s.mem := by
  simp only [State.setGroup]
  (repeat' split) <;> simp
@[simp] theorem State.vfWrite_mem (n off : Nat) (v : Word) (s : State) : (State.vfWrite n off v s).mem = s.mem := by
  simp only [State.vfWrite]
  (repeat' split) <;> simp
@[simp] theorem State.debugWrite_mem (p off : Nat) (v : Word) (s : State) : (State.debugWrite p off v s).mem = s.mem := by
  simp only [State.debugWrite]
  (repeat' split) <;> simp [apply_ite]
@[simp] theorem State.stageWrite_mem (g off : Nat) (v : Word) (s : State) : (State.stageWrite g off v s).mem = s.mem := by
  simp only [State.stageWrite]
  (repeat' split) <;> simp
@[simp] theorem State.pfWrite_mem (off : Nat) (v : Word) (s : State) : (State.pfWrite off v s).mem = s.mem := by
  unfold State.pfWrite
  split
  · split
    · rfl
    · exact State.onHub_mem _ _
  split
  · exact State.onHub_mem _ _
  split
  · exact State.onHub_mem _ _
  split
  · exact State.debugWrite_mem _ _ _ _
  split
  · exact State.stageWrite_mem _ _ _ _
  split
  · exact State.onHub_mem _ _
  · rfl
@[simp] theorem State.setCause_mem (number scope parts : Nat) (s : State) : (State.setCause number scope parts s).mem = s.mem := by
  simp [State.setCause]
@[simp] theorem State.dropCommands_mem (n : Nat) (s : State) : (State.dropCommands n s).mem = s.mem := by
  simp [State.dropCommands]
@[simp] theorem State.resetPart_mem (n : Nat) (s : State) : (State.resetPart n s).mem = s.mem := by
  simp [State.resetPart]
@[simp] theorem State.tellReset_mem (ns : List Nat) (s : State) : (State.tellReset ns s).mem = s.mem := by
  simp only [State.tellReset]
  (repeat' split) <;> simp [apply_ite]
@[simp] theorem State.resetAll_mem (s : State) : (State.resetAll s).mem = s.mem := by
  simp [State.resetAll]
@[simp] theorem State.recover_mem (b : Bool) (s : State) : (State.recover b s).mem = s.mem := by
  simp [State.recover]
@[simp] theorem State.bootFrom_mem (kind : Nat) (ims : List FwImage) (s : State) : (State.bootFrom kind ims s).mem = s.mem := by
  induction ims generalizing kind s with
  | nil => unfold State.bootFrom; split <;> simp
  | cons im r ih => unfold State.bootFrom; split <;> simp [ih]
@[simp] theorem State.stepUpLater_mem (s : State) : (State.stepUpLater s).mem = s.mem := by
  simp [State.stepUpLater]
@[simp] theorem State.onPower_mem (f : Power → Power) (s : State) : (State.onPower f s).mem = s.mem := by
  simp [State.onPower]
@[simp] theorem State.setStep_mem (k : Nat) (s : State) : (State.setStep k s).mem = s.mem := by
  simp [State.setStep]

/-! ## Host memory -/

@[simp] theorem foldl_hostMem {β : Type} (g : State → β → State) (l : List β) (s : State) (h : ∀ t b, (g t b).hostMem = t.hostMem) :
    (l.foldl g s).hostMem = s.hostMem := foldl_same State.hostMem g h l s

theorem State.onChain_hostMem (p : Nat) (f : Chain → State → State) (s : State) (h : ∀ c t, (f c t).hostMem = t.hostMem) :
    (s.onChain p f).hostMem = s.hostMem := by
  unfold State.onChain; split
  · rfl
  · exact h _ _

@[simp] theorem State.shift_hostMem (f : Instr → Bool) (n : Nat) (s : State) : (State.shift f n s).hostMem = s.hostMem := by
  unfold State.shift
  rw [foldl_hostMem _ _ _ fun t b => by simp]
  simp
@[simp] theorem State.landS_hostMem (L : Nat) (d : Fin 64) (v : Word) (tag : Tag) (s : State) : (State.landS L d v tag s).hostMem = s.hostMem := by
  unfold State.landS
  split <;> simp
@[simp] theorem State.landP_hostMem (L : Nat) (d : Fin 32) (m v : LaneMask) (tag : Tag) (s : State) : (State.landP L d m v tag s).hostMem = s.hostMem := by
  unfold State.landP
  split <;> simp
@[simp] theorem State.landV_hostMem (L : Nat) (d : Nat) (m : LaneMask) (x : Lanes) (tag : Tag) (s : State) : (State.landV L d m x tag s).hostMem = s.hostMem := by
  simp [State.landV]
@[simp] theorem State.wakeHarvest_hostMem (n : Nat) (s : State) : (State.wakeHarvest n s).hostMem = s.hostMem := by
  unfold State.wakeHarvest
  split <;> simp
@[simp] theorem State.addRecord_hostMem (r : ErrRecord) (s : State) : (State.addRecord r s).hostMem = s.hostMem := by
  unfold State.addRecord
  split <;> simp
@[simp] theorem State.capture_hostMem (p k e : Nat) (s : State) : (State.capture p k e s).hostMem = s.hostMem := by
  simp [State.capture]
@[simp] theorem State.landResult_hostMem (l : Landing) (s : State) : (State.landResult l s).hostMem = s.hostMem := by
  simp [State.landResult]
@[simp] theorem State.landDrain_hostMem (r : DrainLand) (l : Landing) (s : State) : (State.landDrain r l s).hostMem = s.hostMem := by
  simp [State.landDrain]
@[simp] theorem State.releaseDust_hostMem (p k d : Nat) (s : State) : (State.releaseDust p k d s).hostMem = s.hostMem := by
  unfold State.releaseDust
  dsimp only
  rw [State.updCtx_hostMem, foldl_hostMem _ _ _ fun t x => by simp, foldl_hostMem _ _ _ fun t x => by simp]
@[simp] theorem State.profile_hostMem (p kind : Nat) (e : List Byte) (s : State) : (State.profile p kind e s).hostMem = s.hostMem := by
  simp only [State.profile]
  (repeat' split) <;> simp
@[simp] theorem State.snag_hostMem (p k cause lost bundle : Nat) (s : State) : (State.snag p k cause lost bundle s).hostMem = s.hostMem := by
  simp only [State.snag]
  (repeat' split) <;> simp
@[simp] theorem State.endSnag_hostMem (p k : Nat) (s : State) : (State.endSnag p k s).hostMem = s.hostMem := by
  unfold State.endSnag
  split <;> simp
@[simp] theorem State.trapStop_hostMem (p k b : Nat) (r : ErrRecord) (s : State) : (State.trapStop p k b r s).hostMem = s.hostMem := by
  simp only [State.trapStop]
  (repeat' split) <;> simp
@[simp] theorem State.trapAt_hostMem (p k b : Nat) (r : ErrRecord) (s : State) : (State.trapAt p k b r s).hostMem = s.hostMem := by
  simp [State.trapAt]
@[simp] theorem State.takeTrap_hostMem (r : ErrRecord) (s : State) : (State.takeTrap r s).hostMem = s.hostMem := by
  simp [State.takeTrap]
@[simp] theorem State.rollback_hostMem (r : ErrRecord) (s : State) : (State.rollback r s).hostMem = s.hostMem := by
  simp [State.rollback]
@[simp] theorem State.recoverable_hostMem (r : ErrRecord) (s : State) : (State.recoverable r s).hostMem = s.hostMem := by
  unfold State.recoverable
  split <;> simp
@[simp] theorem State.spillCount_hostMem (off n : Nat) (s : State) : (State.spillCount off n s).hostMem = s.hostMem := by
  simp [State.spillCount]
@[simp] theorem State.storeCells_hostMem (sp idx : Nat) (cs : List Host.Cell) (s : State) : (State.storeCells sp idx cs s).hostMem = s.hostMem := by
  simp [State.storeCells]
@[simp] theorem State.spillCounts_hostMem (a : AddrReg) (ps : List (Int × Nat)) (s : State) : (State.spillCounts a ps s).hostMem = s.hostMem := by
  unfold State.spillCounts
  split <;> simp
@[simp] theorem State.engineStart_hostMem (s : State) : (State.engineStart s).hostMem = s.hostMem := by
  unfold State.engineStart
  split <;> simp
@[simp] theorem State.touch_hostMem (key : Nat → CipherKey) (addrs : List Nat) (s : State) : (State.touch key addrs s).hostMem = s.hostMem := by
  simp only [State.touch]
  (repeat' split) <;> simp
@[simp] theorem State.rekeyWhole_hostMem (fs : List Nat) (s : State) : (State.rekeyWhole fs s).hostMem = s.hostMem := by
  simp [State.rekeyWhole]
@[simp] theorem State.landMarked_hostMem (key : CipherKey) (runs : List Sys2Proof.Run) (marks : List (Nat × W32)) (s : State) : (State.landMarked key runs marks s).hostMem = s.hostMem := by
  simp [State.landMarked]
@[simp] theorem State.landHeld_hostMem (key : CipherKey) (runs : List Sys2Proof.Run) (marks : List (Nat × W32)) (s : State) : (State.landHeld key runs marks s).hostMem = s.hostMem := by
  simp only [State.landHeld]
  (repeat' split) <;> simp
@[simp] theorem State.landRunsBy_hostMem (key : CipherKey) (runs : List Sys2Proof.Run) (poisoned : List Nat) (s : State) : (State.landRunsBy key runs poisoned s).hostMem = s.hostMem := by
  simp [State.landRunsBy]
@[simp] theorem State.landRuns_hostMem (runs : List Sys2Proof.Run) (poisoned : List Nat) (s : State) : (State.landRuns runs poisoned s).hostMem = s.hostMem := by
  simp [State.landRuns]
@[simp] theorem State.storeCellsBy_hostMem (key : Nat → CipherKey) (tell : Nat → Option ErrRecord) (cs : List Host.Cell) (s : State) : (State.storeCellsBy key tell cs s).hostMem = s.hostMem := by
  simp [State.storeCellsBy]
@[simp] theorem State.storeCellsAt_hostMem (p k engine : Nat) (note : Nat → GateNote) (cs : List Host.Cell) (s : State) : (State.storeCellsAt p k engine note cs s).hostMem = s.hostMem := by
  simp [State.storeCellsAt]
@[simp] theorem State.doom_hostMem (p k : Nat) (r : ErrRecord) (s : State) : (State.doom p k r s).hostMem = s.hostMem := by
  simp [State.doom]
@[simp] theorem State.doomOf_hostMem (p k tag : Nat) (r : ErrRecord) (s : State) : (State.doomOf p k tag r s).hostMem = s.hostMem := by
  simp [State.doomOf]
@[simp] theorem State.trapNow_hostMem (p k : Nat) (r : ErrRecord) (s : State) : (State.trapNow p k r s).hostMem = s.hostMem := by
  unfold State.trapNow
  split <;> simp
@[simp] theorem State.refreshFar_hostMem (fs : List Nat) (s : State) : (State.refreshFar fs s).hostMem = s.hostMem := by
  simp [State.refreshFar]
@[simp] theorem State.startCopy_hostMem (c : CopyCmd) (start : Nat) (s : State) : (State.startCopy c start s).hostMem = s.hostMem := by
  simp [State.startCopy]
@[simp] theorem State.startChain_hostMem (p : Nat) (h : Chain) (s : State) : (State.startChain p h s).hostMem = s.hostMem := by
  simp [State.startChain]
@[simp] theorem State.kickCopy_hostMem (p : Nat) (s : State) : (State.kickCopy p s).hostMem = s.hostMem := by
  simp only [State.kickCopy]
  (repeat' split) <;> simp
@[simp] theorem State.enqueueCopy_hostMem (p : Nat) (q : CopyCmd ⊕ Chain) (s : State) : (State.enqueueCopy p q s).hostMem = s.hostMem := by
  simp [State.enqueueCopy]
@[simp] theorem State.endChain_hostMem (p t : Nat) (s : State) : (State.endChain p t s).hostMem = s.hostMem := by
  simp [State.endChain]
@[simp] theorem State.chainFault_hostMem (p : Nat) (h : Chain) (r : ErrRecord) (s : State) : (State.chainFault p h r s).hostMem = s.hostMem := by
  simp [State.chainFault]
@[simp] theorem State.chainTo_hostMem (p : Nat) (h : Chain) (pos : Nat) (s : State) : (State.chainTo p h pos s).hostMem = s.hostMem := by
  simp [State.chainTo]
@[simp] theorem State.chainBad_hostMem (p : Nat) (h : Chain) (s : State) : (State.chainBad p h s).hostMem = s.hostMem := by
  simp [State.chainBad]
@[simp] theorem State.chainEnd_hostMem (p : Nat) (s : State) : (State.chainEnd p s).hostMem = s.hostMem := by
  unfold State.chainEnd
  exact State.onChain_hostMem _ _ _ fun h t => by dsimp only; split <;> simp
@[simp] theorem State.chainCopy_hostMem (p : Nat) (s : State) : (State.chainCopy p s).hostMem = s.hostMem := by
  unfold State.chainCopy
  refine State.onChain_hostMem _ _ _ fun h t => ?_
  dsimp only
  (repeat' split) <;> simp
@[simp] theorem State.chainLoop_hostMem (p : Nat) (s : State) : (State.chainLoop p s).hostMem = s.hostMem := by
  unfold State.chainLoop
  refine State.onChain_hostMem _ _ _ fun h t => ?_
  dsimp only
  (repeat' split) <;> simp
@[simp] theorem State.chainSkipp_hostMem (p : Nat) (s : State) : (State.chainSkipp p s).hostMem = s.hostMem := by
  unfold State.chainSkipp
  refine State.onChain_hostMem _ _ _ fun h t => ?_
  dsimp only
  (repeat' split) <;> simp
@[simp] theorem State.chainSkipf_hostMem (p : Nat) (s : State) : (State.chainSkipf p s).hostMem = s.hostMem := by
  unfold State.chainSkipf
  refine State.onChain_hostMem _ _ _ fun h t => ?_
  dsimp only
  (repeat' split) <;> simp
@[simp] theorem State.chainReserved_hostMem (p : Nat) (s : State) : (State.chainReserved p s).hostMem = s.hostMem := by
  unfold State.chainReserved
  exact State.onChain_hostMem _ _ _ fun h t => by simp
@[simp] theorem State.chainEntry_hostMem (p : Nat) (h : Chain) (s : State) : (State.chainEntry p h s).hostMem = s.hostMem := by
  simp only [State.chainEntry]
  (repeat' split) <;> simp
@[simp] theorem State.drew_hostMem (am : LaneMask) (s : State) : (State.drew am s).hostMem = s.hostMem := by
  simp [State.drew]
@[simp] theorem State.mapEntries_hostMem (n : Nat) (p : TEntry → Bool) (f : TEntry → TEntry) (s : State) : (State.mapEntries n p f s).hostMem = s.hostMem := by
  simp [State.mapEntries]
@[simp] theorem State.regen_hostMem (n : Nat) (e : TEntry) (old gen : Nat) (taint : Bool) (s : State) : (State.regen n e old gen taint s).hostMem = s.hostMem := by
  simp [State.regen]
@[simp] theorem State.updRec_hostMem (n : Nat) (e : TEntry) (f : TRec → TRec) (s : State) : (State.updRec n e f s).hostMem = s.hostMem := by
  simp [State.updRec]
@[simp] theorem State.dropSwatch_hostMem (n : Nat) (e : TEntry) (s : State) : (State.dropSwatch n e s).hostMem = s.hostMem := by
  simp [State.dropSwatch]
@[simp] theorem State.setEntry_hostMem (p t : Nat) (e : TEntry) (s : State) : (State.setEntry p t e s).hostMem = s.hostMem := by
  simp [State.setEntry]
@[simp] theorem State.modEntry_hostMem (p t : Nat) (f : TEntry → TEntry) (s : State) : (State.modEntry p t f s).hostMem = s.hostMem := by
  simp [State.modEntry]
@[simp] theorem State.giveEntry_hostMem (p k t : Nat) (e : TEntry) (s : State) : (State.giveEntry p k t e s).hostMem = s.hostMem := by
  unfold State.giveEntry
  split <;> simp
@[simp] theorem State.beginLend_hostMem (m : TrowelMove) (s : State) : (State.beginLend m s).hostMem = s.hostMem := by
  simp only [State.beginLend]
  (repeat' split) <;> simp
@[simp] theorem State.beginRemote_hostMem (t grant flag : Nat) (s : State) : (State.beginRemote t grant flag s).hostMem = s.hostMem := by
  simp [State.beginRemote]
@[simp] theorem State.finishLend_hostMem (m : TrowelMove) (s : State) : (State.finishLend m s).hostMem = s.hostMem := by
  simp only [State.finishLend]
  (repeat' split) <;> simp
@[simp] theorem State.mayMigrate_hostMem (n grant : Nat) (out : Bool) (space loc count : Nat) (s : State) : (State.mayMigrate n grant out space loc count s).hostMem = s.hostMem := by
  simp only [State.mayMigrate]
  (repeat' split) <;> simp [apply_ite]
@[simp] theorem State.writeLent_hostMem (core a : Nat) (bs : List Byte) (s : State) : (State.writeLent core a bs s).hostMem = s.hostMem := by
  simp only [State.writeLent]
  (repeat' split) <;> simp
@[simp] theorem State.beginReturn_hostMem (p key : Nat) (s : State) : (State.beginReturn p key s).hostMem = s.hostMem := by
  simp only [State.beginReturn]
  (repeat' split) <;> simp
@[simp] theorem State.reachHome_hostMem (p key : Nat) (s : State) : (State.reachHome p key s).hostMem = s.hostMem := by
  simp only [State.reachHome]
  (repeat' split) <;> simp
@[simp] theorem State.beginShare_hostMem (p k t : Nat) (e : TEntry) (s : State) : (State.beginShare p k t e s).hostMem = s.hostMem := by
  simp [State.beginShare]
@[simp] theorem State.beginUnshare_hostMem (e : TEntry) (p t : Nat) (s : State) : (State.beginUnshare e p t s).hostMem = s.hostMem := by
  simp [State.beginUnshare]
@[simp] theorem State.beginUnswatch_hostMem (e : TEntry) (s : State) : (State.beginUnswatch e s).hostMem = s.hostMem := by
  simp [State.beginUnswatch]
@[simp] theorem State.beginClean_hostMem (e : TEntry) (zero : Bool) (s : State) : (State.beginClean e zero s).hostMem = s.hostMem := by
  unfold State.beginClean
  split <;> simp
@[simp] theorem State.zeroRuns_hostMem (rs : List (Nat × Nat)) (s : State) : (State.zeroRuns rs s).hostMem = s.hostMem := by
  simp [State.zeroRuns]
@[simp] theorem State.updGroup_hostMem (g : Nat) (f : Group → Group) (s : State) : (State.updGroup g f s).hostMem = s.hostMem := by
  simp [State.updGroup]
@[simp] theorem State.onIssuer_hostMem (a : AggWork) (f : Ctx → Ctx) (s : State) : (State.onIssuer a f s).hostMem = s.hostMem := by
  simp [State.onIssuer]
@[simp] theorem State.aggTrap_hostMem (a : AggWork) (code : Nat) (a0 a1 : Word) (addr : Option (Nat × Nat × Nat)) (s : State) : (State.aggTrap a code a0 a1 addr s).hostMem = s.hostMem := by
  simp only [State.aggTrap]
  (repeat' split) <;> simp
@[simp] theorem State.takeShares_hostMem (custody swatches : List TEntry) (s : State) : (State.takeShares custody swatches s).hostMem = s.hostMem := by
  simp [State.takeShares]
@[simp] theorem State.returnShares_hostMem (a : AggWork) (s : State) : (State.returnShares a s).hostMem = s.hostMem := by
  simp [State.returnShares]
@[simp] theorem State.updRound_hostMem (g key : Nat) (f : Round → Round) (s : State) : (State.updRound g key f s).hostMem = s.hostMem := by
  simp [State.updRound]
@[simp] theorem State.endAgg_hostMem (a : AggWork) (s : State) : (State.endAgg a s).hostMem = s.hostMem := by
  simp [State.endAgg]
@[simp] theorem State.lateAgg_hostMem (a : AggWork) (s : State) : (State.lateAgg a s).hostMem = s.hostMem := by
  unfold State.lateAgg
  split <;> simp
@[simp] theorem State.closeNext_hostMem (g : Nat) (s : State) : (State.closeNext g s).hostMem = s.hostMem := by
  unfold State.closeNext
  split <;> simp
@[simp] theorem State.decideMember_hostMem (e : Group) (a : AggWork) (s : State) : (State.decideMember e a s).1.hostMem = s.hostMem := by
  simp only [State.decideMember]
  (repeat' split) <;> simp
@[simp] theorem State.timeoutNotice_hostMem (e : Group) (g k absent : Nat) (inc : List AggWork) (s : State) : (State.timeoutNotice e g k absent inc s).hostMem = s.hostMem := by
  simp only [State.timeoutNotice]
  (repeat' split) <;> simp [apply_ite]
@[simp] theorem State.closeRound_hostMem (g key : Nat) (s : State) : (State.closeRound g key s).hostMem = s.hostMem := by
  have hd : ∀ (e : Group) (l : List AggWork) (u : State × List AggWork), (l.foldl (fun (t : State × List AggWork) a =>
      ((t.1.decideMember e a).1, if (t.1.decideMember e a).2 then t.2 ++ [a] else t.2)) u).1.hostMem = u.1.hostMem := by
    intro e l
    induction l with
    | nil => intro u; rfl
    | cons a r ih => intro u; rw [List.foldl_cons, ih]; simp
  unfold State.closeRound
  split
  · rfl
  · extract_lets e order s1 d inc s2 absent audit s3 s4 s5
    have h2 : s2.hostMem = s.hostMem := hd _ _ _
    have h4 : s4.hostMem = s.hostMem := by simp [s4, s3, h2]
    have h5 : s5.hostMem = s.hostMem := by simp only [s5]; split <;> simp [h4]
    simp [h5]
@[simp] theorem State.openRound_hostMem (e : Group) (w : AggWork) (s : State) : (State.openRound e w s).hostMem = s.hostMem := by
  simp only [State.openRound]
  (repeat' split) <;> simp
@[simp] theorem State.staleAgg_hostMem (e : Group) (w : AggWork) (s : State) : (State.staleAgg e w s).hostMem = s.hostMem := by
  unfold State.staleAgg
  split <;> simp
@[simp] theorem State.leaveRounds_hostMem (n : Nat) (s : State) : (State.leaveRounds n s).hostMem = s.hostMem := by
  simp [State.leaveRounds]
@[simp] theorem State.leaveRound_hostMem (g key member : Nat) (s : State) : (State.leaveRound g key member s).hostMem = s.hostMem := by
  simp [State.leaveRound]
@[simp] theorem State.aggStore_hostMem (a : AggWork) (cs : List Host.Cell) (s : State) : (State.aggStore a cs s).hostMem = s.hostMem := by
  simp [State.aggStore]
@[simp] theorem State.updChan_hostMem (n ch : Nat) (f : ChanRec → ChanRec) (s : State) : (State.updChan n ch f s).hostMem = s.hostMem := by
  simp [State.updChan]
@[simp] theorem State.updLink_hostMem (p id : Nat) (f : LinkCmd → LinkCmd) (s : State) : (State.updLink p id f s).hostMem = s.hostMem := by
  simp [State.updLink]
@[simp] theorem State.reserveTiles_hostMem (l : LinkCmd) (q total n : Nat) (s : State) : (s.reserveTiles l q total n).hostMem = s.hostMem := by
  induction n with
  | zero => rfl
  | succ n ih =>
    unfold State.reserveTiles
    dsimp only
    split
    · rw [State.updLink_hostMem, State.updCore_hostMem, ih]
    · exact ih

@[simp] theorem State.reap_hostMem (p : Nat) (s : State) : (State.reap p s).hostMem = s.hostMem := by
  simp [State.reap]
@[simp] theorem State.updPort_hostMem (p : Nat) (f : Port → Port) (s : State) : (State.updPort p f s).hostMem = s.hostMem := by
  simp [State.updPort]
@[simp] theorem State.sendBy_hostMem (p : Nat) (f : Flit) (s : State) : (State.sendBy p f s).hostMem = s.hostMem := by
  simp [State.sendBy]
@[simp] theorem State.sendFlit_hostMem (f : Flit) (s : State) : (State.sendFlit f s).hostMem = s.hostMem := by
  unfold State.sendFlit
  split <;> simp
@[simp] theorem State.turnAt_hostMem (n ch t : Nat) (s : State) : (State.turnAt n ch t s).hostMem = s.hostMem := by
  simp [State.turnAt]
@[simp] theorem State.push_hostMem (n ch : Nat) (fs : List OutFlit) (s : State) : (State.push n ch fs s).hostMem = s.hostMem := by
  simp only [State.push]
  (repeat' split) <;> simp
@[simp] theorem State.pushOne_hostMem (n ch : Nat) (f : Flit) (s : State) : (State.pushOne n ch f s).hostMem = s.hostMem := by
  simp [State.pushOne]
@[simp] theorem State.startTimer_hostMem (ch : Nat) (t : Option (Nat × Nat × Nat)) (s : State) : (State.startTimer ch t s).hostMem = s.hostMem := by
  unfold State.startTimer
  split <;> simp
@[simp] theorem State.popOut_hostMem (n ch : Nat) (o : OutFlit) (r : List OutFlit) (s : State) : (State.popOut n ch o r s).hostMem = s.hostMem := by
  unfold State.popOut
  split <;> simp
@[simp] theorem State.pump_hostMem (n ch : Nat) (s : State) : (State.pump n ch s).hostMem = s.hostMem := by
  simp only [State.pump]
  (repeat' split) <;> simp
@[simp] theorem State.turnPort_hostMem (p : Nat) (s : State) : (State.turnPort p s).hostMem = s.hostMem := by
  simp only [State.turnPort]
  (repeat' split) <;> simp
@[simp] theorem State.queueFlit_hostMem (who : Option Nat) (f : Flit) (s : State) : (State.queueFlit who f s).hostMem = s.hostMem := by
  simp only [State.queueFlit]
  (repeat' split) <;> simp
@[simp] theorem State.pumpPort_hostMem (p : Nat) (s : State) : (State.pumpPort p s).hostMem = s.hostMem := by
  simp only [State.pumpPort]
  (repeat' split) <;> simp
@[simp] theorem State.replayFrom_hostMem (p : Nat) (seq : BitVec 16) (s : State) : (State.replayFrom p seq s).hostMem = s.hostMem := by
  simp [State.replayFrom]
@[simp] theorem State.transmit_hostMem (l : LinkCmd) (s : State) : (State.transmit l s).hostMem = s.hostMem := by
  simp only [State.transmit]
  (repeat' split) <;> simp
@[simp] theorem State.tryTransmit_hostMem (p id : Nat) (s : State) : (State.tryTransmit p id s).hostMem = s.hostMem := by
  simp only [State.tryTransmit]
  (repeat' split) <;> simp
@[simp] theorem State.linkTrap_hostMem (l : LinkCmd) (code : Nat) (s : State) : (State.linkTrap l code s).hostMem = s.hostMem := by
  simp [State.linkTrap]
@[simp] theorem State.dropAcks_hostMem (p k id : Nat) (f : Nat → Bool) (s : State) : (State.dropAcks p k id f s).hostMem = s.hostMem := by
  simp [State.dropAcks]
@[simp] theorem State.matchSend_hostMem (p ch : Nat) (s : State) : (State.matchSend p ch s).hostMem = s.hostMem := by
  simp only [State.matchSend]
  (repeat' split) <;> simp
@[simp] theorem State.enqueueLink_hostMem (l : LinkCmd) (c : ChanRec) (s : State) : (State.enqueueLink l c s).hostMem = s.hostMem := by
  unfold State.enqueueLink
  extract_lets s1 s2 s3
  have h3 : s3.hostMem = s.hostMem := by simp only [s3]; split <;> simp [s2, s1]
  split <;> simp [h3]
@[simp] theorem State.sent_hostMem (l : LinkCmd) (s : State) : (State.sent l s).hostMem = s.hostMem := by
  unfold State.sent
  split <;> simp
@[simp] theorem State.flagLater_hostMem (l : LinkCmd) (chunk : Nat) (s : State) : (State.flagLater l chunk s).hostMem = s.hostMem := by
  simp [State.flagLater]
@[simp] theorem State.landSectors_hostMem (l : LinkCmd) (off : Nat) (secs : List (List Byte × W32)) (s : State) : (State.landSectors l off secs s).hostMem = s.hostMem := by
  unfold State.landSectors
  dsimp only
  (repeat' split) <;> simp
@[simp] theorem State.tileLands_hostMem (l : LinkCmd) (q t : Nat) (s : State) : (State.tileLands l q t s).hostMem = s.hostMem := by
  simp [State.tileLands]
@[simp] theorem State.landTile_hostMem (l : LinkCmd) (t : Nat) (s : State) : (State.landTile l t s).hostMem = s.hostMem := by
  simp only [State.landTile]
  (repeat' split) <;> simp
@[simp] theorem State.writeFlag_hostMem (l : LinkCmd) (chunk : Nat) (s : State) : (State.writeFlag l chunk s).hostMem = s.hostMem := by
  simp only [State.writeFlag]
  (repeat' split) <;> simp
@[simp] theorem State.sendOn_hostMem (l : LinkCmd) (c : ChanRec) (tag chunk : Nat) (secs : List (List Byte × W32)) (s : State) : (State.sendOn l c tag chunk secs s).hostMem = s.hostMem := by
  simp [State.sendOn]
@[simp] theorem State.allredTry_hostMem (p id : Nat) (s : State) : (State.allredTry p id s).hostMem = s.hostMem := by
  unfold State.allredTry
  (repeat' split) <;> first | rfl | (refine foldl_same State.hostMem _ (fun t x => ?_) _ _; (repeat' split) <;> simp)
@[simp] theorem State.combine_hostMem (l : LinkCmd) (c : ChanRec) (chunk : Nat) (acc : List (List Byte × W32)) (s : State) : (State.combine l c chunk acc s).hostMem = s.hostMem := by
  simp only [State.combine]
  (repeat' split) <;> simp
@[simp] theorem State.chunkLanded_hostMem (l : LinkCmd) (parts first q origin chunk : Nat) (s : State) : (State.chunkLanded l parts first q origin chunk s).hostMem = s.hostMem := by
  simp only [State.chunkLanded]
  (repeat' split) <;> simp
@[simp] theorem State.landChunk_hostMem (l : LinkCmd) (c : ChanRec) (origin chunk : Nat) (secs : List (List Byte × W32)) (s : State) : (State.landChunk l c origin chunk secs s).hostMem = s.hostMem := by
  simp only [State.landChunk]
  (repeat' split) <;> simp
@[simp] theorem State.landShards_hostMem (l : LinkCmd) (c : ChanRec) (s : State) : (State.landShards l c s).hostMem = s.hostMem := by
  unfold State.landShards
  dsimp only
  refine foldl_hostMem _ _ _ fun t k => ?_
  split
  · rfl
  · split <;> simp
@[simp] theorem State.fillRings_hostMem (p : Nat) (s : State) : (State.fillRings p s).hostMem = s.hostMem := by
  unfold State.fillRings
  refine foldl_hostMem _ _ _ fun t l => ?_
  split
  · dsimp only
    rw [State.landShards_hostMem]
    split <;> simp
  · rfl
@[simp] theorem State.startCollective_hostMem (p id : Nat) (s : State) : (State.startCollective p id s).hostMem = s.hostMem := by
  unfold State.startCollective
  split
  · rfl
  · split
    · rfl
    · split
      · rfl
      · extract_lets n s1
        have h1 : s1.hostMem = s.hostMem := foldl_hostMem _ _ _ fun t i => by simp
        split
        · simp [h1]
        · rw [foldl_hostMem _ _ _ fun t i => by simp, h1]
        · exact h1
@[simp] theorem State.giveUpChunk_hostMem (l : LinkCmd) (chunk : Nat) (s : State) : (State.giveUpChunk l chunk s).hostMem = s.hostMem := by
  simp only [State.giveUpChunk]
  (repeat' split) <;> simp
@[simp] theorem State.retrain_hostMem (p : Nat) (s : State) : (State.retrain p s).hostMem = s.hostMem := by
  simp only [State.retrain]
  (repeat' split) <;> simp
@[simp] theorem State.resumePumps_hostMem (s : State) : (State.resumePumps s).hostMem = s.hostMem := by
  simp [State.resumePumps]
@[simp] theorem State.askReplay_hostMem (p : Nat) (seq : BitVec 16) (s : State) : (State.askReplay p seq s).hostMem = s.hostMem := by
  simp [State.askReplay]
@[simp] theorem State.dropFaulty_hostMem (f : Flit) (s : State) : (State.dropFaulty f s).hostMem = s.hostMem := by
  simp only [State.dropFaulty]
  (repeat' split) <;> simp
@[simp] theorem State.recvFlit_hostMem (l : LinkCmd) (f : Flit) (s : State) : (State.recvFlit l f s).hostMem = s.hostMem := by
  simp only [State.recvFlit]
  (repeat' split) <;> simp
@[simp] theorem State.allredFlit_hostMem (l : LinkCmd) (c : ChanRec) (tag : Nat) (f : Flit) (s : State) : (State.allredFlit l c tag f s).hostMem = s.hostMem := by
  simp only [State.allredFlit]
  (repeat' split) <;> simp
@[simp] theorem State.agfwdFlit_hostMem (l : LinkCmd) (origin : Nat) (f : Flit) (s : State) : (State.agfwdFlit l origin f s).hostMem = s.hostMem := by
  simp only [State.agfwdFlit]
  (repeat' split) <;> simp
@[simp] theorem State.commandFlit_hostMem (l : LinkCmd) (c : ChanRec) (f : Flit) (s : State) : (State.commandFlit l c f s).hostMem = s.hostMem := by
  simp only [State.commandFlit]
  split
  · simp
  · split <;> simp
  · split <;> simp
  · rfl
@[simp] theorem State.updPut_hostMem (n ch cmd : Nat) (f : PutIn → PutIn) (s : State) : (State.updPut n ch cmd f s).hostMem = s.hostMem := by
  simp [State.updPut]
@[simp] theorem State.returnRemote_hostMem (n g off : Nat) (s : State) : (State.returnRemote n g off s).hostMem = s.hostMem := by
  simp only [State.returnRemote]
  (repeat' split) <;> simp
@[simp] theorem State.putFlag_hostMem (n : Nat) (c : ChanRec) (u : PutIn) (chunk : Nat) (s : State) : (State.putFlag n c u chunk s).hostMem = s.hostMem := by
  simp only [State.putFlag]
  (repeat' split) <;> simp
@[simp] theorem State.openPut_hostMem (n : Nat) (f : Flit) (s : State) : (State.openPut n f s).hostMem = s.hostMem := by
  unfold State.openPut
  split <;> simp
@[simp] theorem State.landPut_hostMem (n : Nat) (u : PutIn) (f : Flit) (s : State) : (State.landPut n u f s).hostMem = s.hostMem := by
  unfold State.landPut
  refine foldl_hostMem _ _ _ fun t x => ?_
  split <;> simp
@[simp] theorem State.putFlit_hostMem (n : Nat) (c : ChanRec) (f : Flit) (s : State) : (State.putFlit n c f s).hostMem = s.hostMem := by
  simp only [State.putFlit]
  (repeat' split) <;> simp
@[simp] theorem State.settleChunk_hostMem (p : Nat) (l : LinkCmd) (chunk : Nat) (s : State) : (State.settleChunk p l chunk s).hostMem = s.hostMem := by
  simp [State.settleChunk]
@[simp] theorem State.abortPut_hostMem (n : Nat) (f : Flit) (s : State) : (State.abortPut n f s).hostMem = s.hostMem := by
  simp only [State.abortPut]
  (repeat' split) <;> simp
@[simp] theorem State.arm_hostMem (l : LinkCmd) (s : State) : (State.arm l s).hostMem = s.hostMem := by
  unfold State.arm
  extract_lets p n
  split
  · rfl
  · extract_lets s1 s2 sp s3 s4
    have h3 : s3.hostMem = s.hostMem := by simp only [s3]; split <;> simp [s2, s1]
    have h4 : s4.hostMem = s.hostMem := (foldl_hostMem _ _ _ fun t f => by split <;> simp).trans h3
    simp [h4]
@[simp] theorem State.endHold_hostMem (n ch : Nat) (s : State) : (State.endHold n ch s).hostMem = s.hostMem := by
  simp [State.endHold]
@[simp] theorem State.landSample_hostMem (o : PortOp) (dst : Nat) (s : State) : (State.landSample o dst s).hostMem = s.hostMem := by
  simp only [State.landSample]
  (repeat' split) <;> simp
@[simp] theorem State.scaleLater_hostMem (part : Nat) (bytes : List Byte) (s : State) : (State.scaleLater part bytes s).hostMem = s.hostMem := by
  simp [State.scaleLater]
@[simp] theorem State.beginSwap_hostMem (s : State) : (State.beginSwap s).hostMem = s.hostMem := by
  simp only [State.beginSwap]
  (repeat' split) <;> simp
@[simp] theorem State.startArray_hostMem (qa : Nat) (s : State) : (State.startArray qa s).hostMem = s.hostMem := by
  simp [State.startArray]
@[simp] theorem State.rowPerform_hostMem (r : RowLand) (s : State) : (State.rowPerform r s).hostMem = s.hostMem := by
  simp [State.rowPerform]
@[simp] theorem State.retireAt_hostMem (p t issue : Nat) (e : SaEntry) (s : State) : (State.retireAt p t issue e s).hostMem = s.hostMem := by
  simp [State.retireAt]
@[simp] theorem State.retireFrom_hostMem (p t issue : Nat) (es : List SaEntry) (s : State) : (State.retireFrom p t issue es s).hostMem = s.hostMem := by
  unfold State.retireFrom
  exact foldl_same State.hostMem _ (fun t x => by simp) _ _
@[simp] theorem State.saArrive_hostMem (p : Nat) (e : SaEntry) (s : State) : (State.saArrive p e s).hostMem = s.hostMem := by
  simp only [State.saArrive]
  (repeat' split) <;> simp
@[simp] theorem State.startSa_hostMem (c : SaCmd) (s : State) : (State.startSa c s).hostMem = s.hostMem := by
  simp only [State.startSa]
  (repeat' split) <;> simp [apply_ite]
@[simp] theorem State.kickSa_hostMem (p : Nat) (s : State) : (State.kickSa p s).hostMem = s.hostMem := by
  simp only [State.kickSa]
  (repeat' split) <;> simp
@[simp] theorem State.enqueueSa_hostMem (c : SaCmd) (s : State) : (State.enqueueSa c s).hostMem = s.hostMem := by
  simp [State.enqueueSa]
@[simp] theorem State.publishOne_hostMem (q : Pub) (s : State) : (State.publishOne q s).hostMem = s.hostMem := by
  unfold State.publishOne
  split <;> simp
@[simp] theorem State.commitGate_hostMem (s : State) : (State.commitGate s).hostMem = s.hostMem := by
  simp only [State.commitGate]
  (repeat' split) <;> simp
@[simp] theorem State.commitEnq_hostMem (s : State) : (State.commitEnq s).hostMem = s.hostMem := by
  simp only [State.commitEnq]
  (repeat' split) <;> simp
@[simp] theorem State.commit_hostMem (s : State) : (State.commit s).hostMem = s.hostMem := by
  simp [State.commit]
@[simp] theorem State.finjOff_hostMem (p k : Nat) (v : Word) (s : State) : (State.finjOff p k v s).hostMem = s.hostMem := by
  simp [State.finjOff]
@[simp] theorem State.finjArray_hostMem (p k : Nat) (v : Word) (s : State) : (State.finjArray p k v s).hostMem = s.hostMem := by
  simp [State.finjArray]
@[simp] theorem State.finjSector_hostMem (p k : Nat) (v : Word) (s : State) : (State.finjSector p k v s).hostMem = s.hostMem := by
  simp [State.finjSector]
@[simp] theorem State.applyPost_hostMem (q : Post) (s : State) : (State.applyPost q s).hostMem = s.hostMem := by
  simp only [State.applyPost]
  (repeat' split) <;> simp
@[simp] theorem State.leaveIlk_hostMem (p k : Nat) (s : State) : (State.leaveIlk p k s).hostMem = s.hostMem := by
  simp only [State.leaveIlk]
  (repeat' split) <;> simp
@[simp] theorem State.branchTransfer_hostMem (p k target : Nat) (brk : Option Nat) (s : State) : (State.branchTransfer p k target brk s).hostMem = s.hostMem := by
  simp [State.branchTransfer]
@[simp] theorem State.readyFree_hostMem (p k h : Nat) (s : State) : (State.readyFree p k h s).hostMem = s.hostMem := by
  simp [State.readyFree]
@[simp] theorem State.debugAt_hostMem (p k b : Nat) (r : Option ErrRecord) (s : State) : (State.debugAt p k b r s).hostMem = s.hostMem := by
  unfold State.debugAt
  split <;> simp
@[simp] theorem State.departs_hostMem (q : Post) (s : State) : (State.departs q s).hostMem = s.hostMem := by
  unfold State.departs
  split <;> simp
@[simp] theorem State.stopsAgain_hostMem (s : State) : (State.stopsAgain s).hostMem = s.hostMem := by
  simp [State.stopsAgain]
@[simp] theorem State.commits_hostMem (ps : List Post) (s : State) : (State.commits ps s).hostMem = s.hostMem := by
  simp only [State.commits]
  (repeat' split) <;> simp
@[simp] theorem State.transfers_hostMem (s : State) : (State.transfers s).hostMem = s.hostMem := by
  simp only [State.transfers]
  (repeat' split) <;> simp
@[simp] theorem State.retireCheck_hostMem (p k : Nat) (s : State) : (State.retireCheck p k s).hostMem = s.hostMem := by
  simp only [State.retireCheck]
  (repeat' split) <;> simp
@[simp] theorem State.turnEnd_hostMem (ps : List Post) (s : State) : (State.turnEnd ps s).hostMem = s.hostMem := by
  simp only [State.turnEnd]
  (repeat' split) <;> simp
@[simp] theorem State.endGroup_hostMem (s : State) : (State.endGroup s).hostMem = s.hostMem := by
  simp only [State.endGroup]
  (repeat' split) <;> simp
@[simp] theorem State.slipAt_hostMem (p k : Nat) (s : State) : (State.slipAt p k s).hostMem = s.hostMem := by
  unfold State.slipAt
  split <;> simp
@[simp] theorem State.slipAll_hostMem (ws : List (Nat × Ctx × SyncWait)) (s : State) : (State.slipAll ws s).hostMem = s.hostMem := by
  simp [State.slipAll]
@[simp] theorem State.plumbCheck_hostMem (n line scope : Nat) (s : State) : (State.plumbCheck n line scope s).hostMem = s.hostMem := by
  simp only [State.plumbCheck]
  (repeat' split) <;> simp
@[simp] theorem State.plumbCheckAll_hostMem (n : Nat) (s : State) : (State.plumbCheckAll n s).hostMem = s.hostMem := by
  simp [State.plumbCheckAll]
@[simp] theorem State.armLimit_hostMem (p k : Nat) (s : State) : (State.armLimit p k s).hostMem = s.hostMem := by
  simp only [State.armLimit]
  (repeat' split) <;> simp
@[simp] theorem State.resumeMember_hostMem (p k : Nat) (w : SyncWait) (s : State) : (State.resumeMember p k w s).hostMem = s.hostMem := by
  simp only [State.resumeMember]
  (repeat' split) <;> simp
@[simp] theorem State.takeCore_hostMem (p k : Nat) (s : State) : (State.takeCore p k s).hostMem = s.hostMem := by
  simp [State.takeCore]
@[simp] theorem State.pauseChained_hostMem (p k b : Nat) (s : State) : (State.pauseChained p k b s).hostMem = s.hostMem := by
  simp only [State.pauseChained]
  (repeat' split) <;> simp
@[simp] theorem State.restartChained_hostMem (p k : Nat) (s : State) : (State.restartChained p k s).hostMem = s.hostMem := by
  unfold State.restartChained
  extract_lets mine qs s1
  rw [foldl_hostMem _ _ _ fun t q => by split <;> simp]
  simp [s1]
@[simp] theorem State.planStarts_hostMem (p k : Nat) (s : State) : (State.planStarts p k s).hostMem = s.hostMem := by
  simp [State.planStarts]
@[simp] theorem State.rekick_hostMem (p : Nat) (s : State) : (State.rekick p s).hostMem = s.hostMem := by
  unfold State.rekick
  split <;> simp
@[simp] theorem State.stopBoundary_hostMem (p k : Nat) (s : State) : (State.stopBoundary p k s).hostMem = s.hostMem := by
  simp only [State.stopBoundary]
  (repeat' split) <;> simp
@[simp] theorem State.laterReads_hostMem (p k n : Nat) (s : State) : (State.laterReads p k n s).hostMem = s.hostMem := by
  simp [State.laterReads]
@[simp] theorem State.laterSamples_hostMem (p k e d : Nat) (s : State) : (State.laterSamples p k e d s).hostMem = s.hostMem := by
  unfold State.laterSamples
  simp only
  rw [foldl_hostMem _ _ _ fun t b => by simp]
  simp
@[simp] theorem State.rejoin_hostMem (p k : Nat) (s : State) : (State.rejoin p k s).hostMem = s.hostMem := by
  simp only [State.rejoin]
  (repeat' split) <;> simp
@[simp] theorem State.resumeCtx_hostMem (p k : Nat) (engines : Bool) (s : State) : (State.resumeCtx p k engines s).hostMem = s.hostMem := by
  unfold State.resumeCtx
  extract_lets x b n s1 s2 s3 x2 s4 s5 c s6
  have h3 : s3.hostMem = s.hostMem := by simp [s3, s2, s1]
  have h4 : s4.hostMem = s.hostMem := by simp only [s4]; split <;> simp [h3]
  have h5 : s5.hostMem = s.hostMem := by simp only [s5]; split <;> simp [h4]
  have h6 : s6.hostMem = s.hostMem := by simp only [s6]; (repeat' split) <;> simp [h5]
  (repeat' split) <;> simp [h6]
@[simp] theorem State.debugStop_hostMem (p k n : Nat) (s : State) : (State.debugStop p k n s).hostMem = s.hostMem := by
  simp [State.debugStop]
@[simp] theorem State.debugGo_hostMem (p k : Nat) (step : Bool) (s : State) : (State.debugGo p k step s).hostMem = s.hostMem := by
  simp only [State.debugGo]
  (repeat' split) <;> simp
@[simp] theorem State.vFresh_hostMem (n v len : Nat) (s : State) : (State.vFresh n v len s).hostMem = s.hostMem := by
  simp [State.vFresh]
@[simp] theorem State.hubRuns_hostMem (n engine : Nat) (runs : List Sys2Proof.Run) (s : State) : (State.hubRuns n engine runs s).hostMem = s.hostMem := by
  simp [State.hubRuns]
@[simp] theorem State.vWrite_hostMem (n engine v : Nat) (bs : List Byte) (s : State) : (State.vWrite n engine v bs s).hostMem = s.hostMem := by
  simp [State.vWrite]
@[simp] theorem State.updQueue_hostMem (n q : Nat) (f : Queue → Queue) (s : State) : (State.updQueue n q f s).hostMem = s.hostMem := by
  simp [State.updQueue]
@[simp] theorem State.pollAt_hostMem (n q t : Nat) (s : State) : (State.pollAt n q t s).hostMem = s.hostMem := by
  simp [State.pollAt]
@[simp] theorem State.pollNext_hostMem (n q : Nat) (s : State) : (State.pollNext n q s).hostMem = s.hostMem := by
  unfold State.pollNext
  split <;> simp
@[simp] theorem State.freeQueue_hostMem (c : Cmd) (s : State) : (State.freeQueue c s).hostMem = s.hostMem := by
  simp only [State.freeQueue]
  (repeat' split) <;> simp
@[simp] theorem State.writeFence_hostMem (n a : Nat) (v : Word) (s : State) : (State.writeFence n a v s).hostMem = s.hostMem := by
  unfold State.writeFence
  split <;> simp
@[simp] theorem State.complete_hostMem (c : Cmd) (s : State) : (State.complete c s).hostMem = s.hostMem := by
  simp [State.complete]
@[simp] theorem State.failWith_hostMem (c : Cmd) (r : ErrRecord) (s : State) : (State.failWith c r s).hostMem = s.hostMem := by
  simp [State.failWith]
@[simp] theorem State.fail_hostMem (c : Cmd) (code : Nat) (s : State) : (State.fail c code s).hostMem = s.hostMem := by
  simp [State.fail]
@[simp] theorem State.again_hostMem (slot : Nat) (ev : Instr) (s : State) : (State.again slot ev s).hostMem = s.hostMem := by
  simp [State.again]
@[simp] theorem State.signal_hostMem (c : Cmd) (s : State) : (State.signal c s).hostMem = s.hostMem := by
  unfold State.signal
  split <;> simp
@[simp] theorem State.waitFence_hostMem (c : Cmd) (s : State) : (State.waitFence c s).hostMem = s.hostMem := by
  simp only [State.waitFence]
  (repeat' split) <;> simp
@[simp] theorem State.invalid_hostMem (c : Cmd) (s : State) : (State.invalid c s).hostMem = s.hostMem := by
  simp [State.invalid]
@[simp] theorem State.dispatch_hostMem (c : Cmd) (s : State) : (State.dispatch c s).hostMem = s.hostMem := by
  simp only [State.dispatch]
  (repeat' split) <;> simp
@[simp] theorem State.poll_hostMem (n q : Nat) (later : Bool) (s : State) : (State.poll n q later s).hostMem = s.hostMem := by
  simp only [State.poll]
  (repeat' split) <;> simp
@[simp] theorem State.pollDue_hostMem (n q : Nat) (s : State) : (State.pollDue n q s).hostMem = s.hostMem := by
  unfold State.pollDue
  split <;> simp
@[simp] theorem State.hostCopied_hostMem (c : Cmd) (s : State) : (State.hostCopied c s).hostMem = s.hostMem := by
  unfold State.hostCopied
  split <;> simp
@[simp] theorem State.reclaim_hostMem (n : Nat) (r : TRec) (taint : Bool) (s : State) : (State.reclaim n r taint s).hostMem = s.hostMem := by
  simp [State.reclaim]
@[simp] theorem State.hot_hostMem (bundle reason ctx : Nat) (s : State) : (State.hot bundle reason ctx s).hostMem = s.hostMem := by
  simp only [State.hot]
  (repeat' split) <;> simp
@[simp] theorem State.hotFocus_hostMem (reason : Nat) (s : State) : (State.hotFocus reason s).hostMem = s.hostMem := by
  simp [State.hotFocus]
@[simp] theorem State.sample_hostMem (bundle wait seq : Nat) (s : State) : (State.sample bundle wait seq s).hostMem = s.hostMem := by
  simp only [State.sample]
  (repeat' split) <;> simp
@[simp] theorem State.enterSlot_hostMem (f : FSlot) (pos unit : Nat) (s : State) : (State.enterSlot f pos unit s).hostMem = s.hostMem := by
  simp [State.enterSlot]
@[simp] theorem State.enabled_hostMem (s : State) : (State.enabled s).hostMem = s.hostMem := by
  simp [State.enabled]
@[simp] theorem State.enterGroup_hostMem (fs : List FSlot) (s : State) : (State.enterGroup fs s).hostMem = s.hostMem := by
  simp [State.enterGroup]
@[simp] theorem State.withheld_hostMem (h : Hold) (s : State) : (State.withheld h s).hostMem = s.hostMem := by
  simp only [State.withheld]
  (repeat' split) <;> simp
@[simp] theorem State.stepEnd_hostMem (s : State) : (State.stepEnd s).hostMem = s.hostMem := by
  unfold State.stepEnd
  split <;> simp
@[simp] theorem State.issued_hostMem (seq : Nat) (t : State) : (State.issued seq t).hostMem = t.hostMem := by
  simp only [State.issued]
  (repeat' split) <;> simp
@[simp] theorem State.suppressed_hostMem (s : State) : (State.suppressed s).hostMem = s.hostMem := by
  simp [State.suppressed]
@[simp] theorem State.hotIdle_hostMem (s : State) : (State.hotIdle s).hostMem = s.hostMem := by
  simp [State.hotIdle]
@[simp] theorem State.switchTo_hostMem (k : Nat) (s : State) : (State.switchTo k s).hostMem = s.hostMem := by
  simp [State.switchTo]
@[simp] theorem State.stopsDue_hostMem (s : State) : (State.stopsDue s).hostMem = s.hostMem := by
  simp [State.stopsDue]
@[simp] theorem State.trapsDue_hostMem (s : State) : (State.trapsDue s).hostMem = s.hostMem := by
  unfold State.trapsDue
  refine foldl_hostMem _ _ _ fun t x => ?_
  split
  · split <;> simp
  · rfl
@[simp] theorem State.idleTurn_hostMem (s : State) : (State.idleTurn s).hostMem = s.hostMem := by
  simp only [State.idleTurn]
  (repeat' split) <;> simp
@[simp] theorem State.switchTurn_hostMem (run : Run) (t : Nat) (s : State) : (State.switchTurn run t s).hostMem = s.hostMem := by
  simp only [State.switchTurn]
  (repeat' split) <;> simp
@[simp] theorem State.rotate_hostMem (s : State) : (State.rotate s).hostMem = s.hostMem := by
  simp only [State.rotate]
  (repeat' split) <;> simp
@[simp] theorem State.vacate_hostMem (p k : Nat) (s : State) : (State.vacate p k s).hostMem = s.hostMem := by
  simp [State.vacate]
@[simp] theorem State.emptyCtx_hostMem (p k : Nat) (s : State) : (State.emptyCtx p k s).hostMem = s.hostMem := by
  simp [State.emptyCtx]
@[simp] theorem State.moveOut_hostMem (p : Nat) (s : State) : (State.moveOut p s).hostMem = s.hostMem := by
  simp [State.moveOut]
@[simp] theorem State.writeImage_hostMem (place : Option Nat) (im : List Byte) (s : State) : (State.writeImage place im s).hostMem = s.hostMem := by
  unfold State.writeImage
  split <;> simp
@[simp] theorem State.saveCtx_hostMem (n tag p k : Nat) (forTag : Option Nat) (s : State) : (State.saveCtx n tag p k forTag s).hostMem = s.hostMem := by
  simp only [State.saveCtx]
  (repeat' split) <;> simp
@[simp] theorem State.request_hostMem (P : Nat) (ms : List (Nat × Nat)) (s : State) : (State.request P ms s).hostMem = s.hostMem := by
  simp [State.request]
@[simp] theorem State.evictStep_hostMem (n tag P : Nat) (ms : List (Nat × Nat)) (forTag : Option Nat) (s : State) : (State.evictStep n tag P ms forTag s).1.hostMem = s.hostMem := by
  simp only [State.evictStep]
  (repeat' split) <;> simp [apply_ite]
@[simp] theorem State.regionsBack_hostMem (v : SavedCtx) (s : State) : (State.regionsBack v s).hostMem = s.hostMem := by
  unfold State.regionsBack
  split <;> simp
@[simp] theorem State.restoreCtx_hostMem (v : SavedCtx) (s : State) : (State.restoreCtx v s).hostMem = s.hostMem := by
  simp [State.restoreCtx]
@[simp] theorem State.restoreLaunch_hostMem (n tag : Nat) (s : State) : (State.restoreLaunch n tag s).1.hostMem = s.hostMem := by
  simp only [State.restoreLaunch]
  (repeat' split) <;> simp
@[simp] theorem State.spillHot_hostMem (p : Nat) (s : State) : (State.spillHot p s).hostMem = s.hostMem := by
  simp only [State.spillHot]
  (repeat' split) <;> simp [apply_ite]
@[simp] theorem State.loadCore_hostMem (n tag start : Nat) (im : Image) (lines : List (Nat × Nat)) (l p : Nat) (s : State) : (State.loadCore n tag start im lines l p s).hostMem = s.hostMem := by
  unfold State.loadCore
  split <;> simp
@[simp] theorem State.loadTrowels_hostMem (n tag : Nat) (im : Image) (b : Binding) (s : State) : (State.loadTrowels n tag im b s).hostMem = s.hostMem := by
  simp [State.loadTrowels]
@[simp] theorem State.loadRegion_hostMem (n p : Nat) (r : ImgRegion) (s : State) : (State.loadRegion n p r s).hostMem = s.hostMem := by
  simp [State.loadRegion]
@[simp] theorem State.loadChannel_hostMem (n : Nat) (d : ChanDecl) (s : State) : (State.loadChannel n d s).hostMem = s.hostMem := by
  unfold State.loadChannel
  split <;> simp
@[simp] theorem State.bindKey_hostMem (n i : Nat) (s : State) : (State.bindKey n i s).hostMem = s.hostMem := by
  unfold State.bindKey
  split <;> simp
@[simp] theorem State.loadGrants_hostMem (n : Nat) (im : Image) (b : Binding) (s : State) : (State.loadGrants n im b s).hostMem = s.hostMem := by
  simp only [State.loadGrants]
  (repeat' split) <;> simp [apply_ite]
@[simp] theorem State.loadLaunch_hostMem (c : Cmd) (im : Image) (b : Binding) (lines : List (Nat × Nat)) (s : State) : (State.loadLaunch c im b lines s).hostMem = s.hostMem := by
  simp [State.loadLaunch]
@[simp] theorem State.homeTrowels_hostMem (n : Nat) (mine : TRec → Bool) (taint : Bool) (s : State) : (State.homeTrowels n mine taint s).hostMem = s.hostMem := by
  simp [State.homeTrowels]
@[simp] theorem State.holdChannels_hostMem (n : Nat) (chs : List Nat) (s : State) : (State.holdChannels n chs s).hostMem = s.hostMem := by
  simp [State.holdChannels]
@[simp] theorem State.passOn_hostMem (before : State) (p k : Nat) (s : State) : (State.passOn before p k s).hostMem = s.hostMem := by
  simp only [State.passOn]
  (repeat' split) <;> simp
@[simp] theorem State.dropLaunch_hostMem (n : Nat) (l : Launch) (taint : Bool) (s : State) : (State.dropLaunch n l taint s).hostMem = s.hostMem := by
  simp [State.dropLaunch]
@[simp] theorem State.endLaunch_hostMem (n : Nat) (l : Launch) (taint : Bool) (s : State) : (State.endLaunch n l taint s).hostMem = s.hostMem := by
  simp [State.endLaunch]
@[simp] theorem State.restoreSaved_hostMem (n : Nat) (s : State) : (State.restoreSaved n s).hostMem = s.hostMem := by
  unfold State.restoreSaved
  refine foldl_hostMem _ _ _ fun t l => ?_
  dsimp only
  split
  · rfl
  · have hr := State.restoreLaunch_hostMem n l.tag t
    split
    · rename_i u h; rw [h] at hr; exact hr
    · rename_i u c a b d h; rw [h] at hr; simpa using hr
@[simp] theorem State.restoreLater_hostMem (n : Nat) (s : State) : (State.restoreLater n s).hostMem = s.hostMem := by
  unfold State.restoreLater
  split <;> simp
@[simp] theorem State.restoreTurn_hostMem (n : Nat) (s : State) : (State.restoreTurn n s).hostMem = s.hostMem := by
  simp [State.restoreTurn]
@[simp] theorem State.evictYielding_hostMem (n u : Nat) (s : State) : (State.evictYielding n u s).hostMem = s.hostMem := by
  simp [State.evictYielding]
@[simp] theorem State.displace_hostMem (c : Cmd) (img : Option Image) (im : Image) (b : Binding) (s : State) : (State.displace c img im b s).hostMem = s.hostMem := by
  simp [State.displace]
@[simp] theorem State.failLaunch_hostMem (c : Cmd) (code : Nat) (s : State) : (State.failLaunch c code s).hostMem = s.hostMem := by
  simp [State.failLaunch]
@[simp] theorem State.unbound_hostMem (c : Cmd) (img : Option Image) (im : Image) (s : State) : (State.unbound c img im s).hostMem = s.hostMem := by
  simp only [State.unbound]
  (repeat' split) <;> simp
@[simp] theorem State.launch_hostMem (c : Cmd) (img : Option Image) (s : State) : (State.launch c img s).hostMem = s.hostMem := by
  simp only [State.launch]
  (repeat' split) <;> simp
@[simp] theorem State.markEnding_hostMem (n tag : Nat) (s : State) : (State.markEnding n tag s).hostMem = s.hostMem := by
  simp [State.markEnding]
@[simp] theorem State.preemptStop_hostMem (c : Cmd) (s : State) : (State.preemptStop c s).hostMem = s.hostMem := by
  simp only [State.preemptStop]
  (repeat' split) <;> simp
@[simp] theorem State.preemptResume_hostMem (c : Cmd) (s : State) : (State.preemptResume c s).hostMem = s.hostMem := by
  unfold State.preemptResume
  split
  · split <;> simp
  · split
    · split <;> simp
    · split
      · simp
      · split
        · simp
        · dsimp only
          rw [State.again_hostMem]
          exact foldl_hostMem _ _ _ fun t m => by simp
@[simp] theorem State.preemptEvict_hostMem (c : Cmd) (s : State) : (State.preemptEvict c s).hostMem = s.hostMem := by
  simp only [State.preemptEvict]
  (repeat' split) <;> simp
@[simp] theorem State.requestFast_hostMem (P : Nat) (ms : List (Nat × Nat)) (s : State) : (State.requestFast P ms s).hostMem = s.hostMem := by
  simp [State.requestFast]
@[simp] theorem State.switchOn_hostMem (c : Cmd) (s : State) : (State.switchOn c s).hostMem = s.hostMem := by
  simp only [State.switchOn]
  (repeat' split) <;> simp
@[simp] theorem State.preemptSwitch_hostMem (c : Cmd) (s : State) : (State.preemptSwitch c s).hostMem = s.hostMem := by
  simp only [State.preemptSwitch]
  (repeat' split) <;> simp
@[simp] theorem State.readyNow_hostMem (p : Nat) (s : State) : (State.readyNow p s).hostMem = s.hostMem := by
  simp [State.readyNow]
@[simp] theorem State.succeed_hostMem (S : Nat) (m : Nat × Nat × Nat) (s : State) : (State.succeed S m s).hostMem = s.hostMem := by
  simp only [State.succeed]
  (repeat' split) <;> simp
@[simp] theorem State.handedOver_hostMem (n tag : Nat) (s : State) : (State.handedOver n tag s).hostMem = s.hostMem := by
  unfold State.handedOver
  split <;> simp
@[simp] theorem State.revoke_hostMem (n : Nat) (f : Option Nat) (s : State) : (State.revoke n f s).hostMem = s.hostMem := by
  simp [State.revoke]
@[simp] theorem State.cutChunks_hostMem (n : Nat) (l : LinkCmd) (cut : List Nat) (s : State) : (State.cutChunks n l cut s).hostMem = s.hostMem := by
  unfold State.cutChunks
  split <;> simp
@[simp] theorem State.cutLink_hostMem (n : Nat) (l : LinkCmd) (s : State) : (State.cutLink n l s).hostMem = s.hostMem := by
  simp only [State.cutLink]
  (repeat' split) <;> simp
@[simp] theorem State.cancelCommands_hostMem (n : Nat) (s : State) : (State.cancelCommands n s).hostMem = s.hostMem := by
  simp [State.cancelCommands]
@[simp] theorem State.quarantine_hostMem (n : Nat) (s : State) : (State.quarantine n s).hostMem = s.hostMem := by
  simp [State.quarantine]
@[simp] theorem State.endAll_hostMem (n : Nat) (s : State) : (State.endAll n s).hostMem = s.hostMem := by
  simp [State.endAll]
@[simp] theorem State.teardownOn_hostMem (n : Nat) (s : State) : (State.teardownOn n s).hostMem = s.hostMem := by
  simp only [State.teardownOn]
  (repeat' split) <;> simp
@[simp] theorem State.ringRecord_hostMem (n : Nat) (r : ErrRecord) (s : State) : (State.ringRecord n r s).hostMem = s.hostMem := by
  unfold State.ringRecord
  split
  · rfl
  · extract_lets w s1
    rw [State.onPart_hostMem, State.vWrite_hostMem]
    exact State.vWrite_hostMem _ _ _ _ _
@[simp] theorem State.loseSwatch_hostMem (n : Nat) (e : TEntry) (s : State) : (State.loseSwatch n e s).hostMem = s.hostMem := by
  unfold State.loseSwatch
  split <;> simp
@[simp] theorem State.loseTrowel_hostMem (n : Nat) (e : TEntry) (s : State) : (State.loseTrowel n e s).hostMem = s.hostMem := by
  simp only [State.loseTrowel]
  (repeat' split) <;> simp
@[simp] theorem State.removeCore_hostMem (n p : Nat) (s : State) : (State.removeCore n p s).hostMem = s.hostMem := by
  unfold State.removeCore
  dsimp only
  rw [State.updCore_hostMem, foldl_hostMem _ _ _ fun t e => by simp, foldl_hostMem _ _ _ fun t e => by simp]
@[simp] theorem State.mirrorLater_hostMem (p : Nat) (s : State) : (State.mirrorLater p s).hostMem = s.hostMem := by
  simp [State.mirrorLater]
@[simp] theorem State.applyCounter_hostMem (n p : Nat) (x : Option Nat) (s : State) : (State.applyCounter n p x s).hostMem = s.hostMem := by
  simp only [State.applyCounter]
  (repeat' split) <;> simp
@[simp] theorem State.countMismatch_hostMem (n : Nat) (r : ErrRecord) (s : State) : (State.countMismatch n r s).hostMem = s.hostMem := by
  simp only [State.countMismatch]
  (repeat' split) <;> simp
@[simp] theorem State.beginEnd_hostMem (n : Nat) (l : Launch) (s : State) : (State.beginEnd n l s).hostMem = s.hostMem := by
  unfold State.beginEnd
  split <;> simp
@[simp] theorem State.endTrapped_hostMem (n : Nat) (r : ErrRecord) (s : State) : (State.endTrapped n r s).hostMem = s.hostMem := by
  simp only [State.endTrapped]
  (repeat' split) <;> simp
@[simp] theorem State.endStopped_hostMem (n : Nat) (s : State) : (State.endStopped n s).hostMem = s.hostMem := by
  simp only [State.endStopped]
  (repeat' split) <;> simp
@[simp] theorem State.toRing_hostMem (n : Nat) (r : ErrRecord) (s : State) : (State.toRing n r s).hostMem = s.hostMem := by
  unfold State.toRing
  split <;> simp
@[simp] theorem State.harvestOne_hostMem (n : Nat) (r : ErrRecord) (s : State) : (State.harvestOne n r s).hostMem = s.hostMem := by
  simp [State.harvestOne]
@[simp] theorem State.assignOne_hostMem (n : Nat) (r : TRec) (s : State) : (State.assignOne n r s).hostMem = s.hostMem := by
  simp only [State.assignOne]
  (repeat' split) <;> simp
@[simp] theorem State.assignHome_hostMem (n : Nat) (s : State) : (State.assignHome n s).hostMem = s.hostMem := by
  simp [State.assignHome]
@[simp] theorem State.harvest_hostMem (n : Nat) (s : State) : (State.harvest n s).hostMem = s.hostMem := by
  unfold State.harvest
  dsimp only
  rw [State.endStopped_hostMem, State.assignHome_hostMem, foldl_hostMem _ _ _ fun t r => by simp]
  simp
@[simp] theorem State.drainOne_hostMem (p turn : Nat) (s : State) : (State.drainOne p turn s).hostMem = s.hostMem := by
  simp only [State.drainOne]
  (repeat' split) <;> simp
@[simp] theorem State.refuse_hostMem (offset : Nat) (s : State) : (State.refuse offset s).hostMem = s.hostMem := by
  simp [State.refuse]
@[simp] theorem State.broadcast_hostMem (n : Nat) (old : Word) (s : State) : (State.broadcast n old s).hostMem = s.hostMem := by
  simp [State.broadcast]
@[simp] theorem State.giveNotice_hostMem (n : Nat) (s : State) : (State.giveNotice n s).hostMem = s.hostMem := by
  simp only [State.giveNotice]
  (repeat' split) <;> simp
@[simp] theorem State.firstKey_hostMem (f : Nat) (v : Nat × Nat) (s : State) : (State.firstKey f v s).hostMem = s.hostMem := by
  simp [State.firstKey]
@[simp] theorem State.unnamed_hostMem (f : Nat) (s : State) : (State.unnamed f s).hostMem = s.hostMem := by
  simp [State.unnamed]
@[simp] theorem State.updateEntry_hostMem (n k : Nat) (v : Word) (s : State) : (State.updateEntry n k v s).hostMem = s.hostMem := by
  simp only [State.updateEntry]
  (repeat' split) <;> simp
@[simp] theorem State.setFrame_hostMem (f : Nat) (g : Frame → Frame) (s : State) : (State.setFrame f g s).hostMem = s.hostMem := by
  simp [State.setFrame]
@[simp] theorem State.sendFrame_hostMem (frame chip far : Nat) (who : Option Nat) (s : State) : (State.sendFrame frame chip far who s).hostMem = s.hostMem := by
  simp [State.sendFrame]
@[simp] theorem State.settledNotice_hostMem (f : Nat) (x : Frame) (t : Nat) (s : State) : (State.settledNotice f x t s).hostMem = s.hostMem := by
  unfold State.settledNotice
  dsimp only
  split
  · simp
  · split <;> simp
  · rfl
@[simp] theorem State.countMoved_hostMem (f : Flit) (s : State) : (State.countMoved f s).hostMem = s.hostMem := by
  simp only [State.countMoved]
  (repeat' split) <;> simp
@[simp] theorem State.landMoved_hostMem (f : Flit) (s : State) : (State.landMoved f s).hostMem = s.hostMem := by
  unfold State.landMoved
  split <;> simp
@[simp] theorem State.teardown_hostMem (n engine what : Nat) (s : State) : (State.teardown n engine what s).hostMem = s.hostMem := by
  simp [State.teardown]
@[simp] theorem State.extend_hostMem (i : Nat) (digest : BitVec 384) (s : State) : (State.extend i digest s).hostMem = s.hostMem := by
  simp [State.extend]
@[simp] theorem State.createPart_hostMem (n : Nat) (s : State) : (State.createPart n s).hostMem = s.hostMem := by
  simp [State.createPart]
@[simp] theorem State.notify_hostMem (n : Nat) (cause : Word) (s : State) : (State.notify n cause s).hostMem = s.hostMem := by
  simp [State.notify]
@[simp] theorem State.tellOwed_hostMem (n : Nat) (s : State) : (State.tellOwed n s).hostMem = s.hostMem := by
  simp [State.tellOwed]
@[simp] theorem State.setCtl_hostMem (n : Nat) (v : Word) (s : State) : (State.setCtl n v s).hostMem = s.hostMem := by
  simp only [State.setCtl]
  (repeat' split) <;> simp
@[simp] theorem State.capWrite_hostMem (p off : Nat) (v : Word) (s : State) : (State.capWrite p off v s).hostMem = s.hostMem := by
  simp only [State.capWrite]
  (repeat' split) <;> simp
@[simp] theorem State.setGroup_hostMem (g : Nat) (e : Group) (s : State) : (State.setGroup g e s).hostMem = s.hostMem := by
  simp only [State.setGroup]
  (repeat' split) <;> simp
@[simp] theorem State.vfWrite_hostMem (n off : Nat) (v : Word) (s : State) : (State.vfWrite n off v s).hostMem = s.hostMem := by
  simp only [State.vfWrite]
  (repeat' split) <;> simp
@[simp] theorem State.debugWrite_hostMem (p off : Nat) (v : Word) (s : State) : (State.debugWrite p off v s).hostMem = s.hostMem := by
  simp only [State.debugWrite]
  (repeat' split) <;> simp [apply_ite]
@[simp] theorem State.stageWrite_hostMem (g off : Nat) (v : Word) (s : State) : (State.stageWrite g off v s).hostMem = s.hostMem := by
  simp only [State.stageWrite]
  (repeat' split) <;> simp
@[simp] theorem State.pfWrite_hostMem (off : Nat) (v : Word) (s : State) : (State.pfWrite off v s).hostMem = s.hostMem := by
  unfold State.pfWrite
  split
  · split
    · rfl
    · exact State.onHub_hostMem _ _
  split
  · exact State.onHub_hostMem _ _
  split
  · exact State.onHub_hostMem _ _
  split
  · exact State.debugWrite_hostMem _ _ _ _
  split
  · exact State.stageWrite_hostMem _ _ _ _
  split
  · exact State.onHub_hostMem _ _
  · rfl
@[simp] theorem State.setCause_hostMem (number scope parts : Nat) (s : State) : (State.setCause number scope parts s).hostMem = s.hostMem := by
  simp [State.setCause]
@[simp] theorem State.dropCommands_hostMem (n : Nat) (s : State) : (State.dropCommands n s).hostMem = s.hostMem := by
  simp [State.dropCommands]
@[simp] theorem State.resetPart_hostMem (n : Nat) (s : State) : (State.resetPart n s).hostMem = s.hostMem := by
  simp [State.resetPart]
@[simp] theorem State.tellReset_hostMem (ns : List Nat) (s : State) : (State.tellReset ns s).hostMem = s.hostMem := by
  simp only [State.tellReset]
  (repeat' split) <;> simp [apply_ite]
@[simp] theorem State.resetAll_hostMem (s : State) : (State.resetAll s).hostMem = s.hostMem := by
  simp [State.resetAll]
@[simp] theorem State.resetPackage_hostMem (s : State) : (State.resetPackage s).hostMem = s.hostMem := by
  simp [State.resetPackage]
@[simp] theorem State.resetWith_hostMem (number : Nat) (s : State) : (State.resetWith number s).hostMem = s.hostMem := by
  simp [State.resetWith]
@[simp] theorem State.recover_hostMem (b : Bool) (s : State) : (State.recover b s).hostMem = s.hostMem := by
  simp [State.recover]
@[simp] theorem State.bootFrom_hostMem (kind : Nat) (ims : List FwImage) (s : State) : (State.bootFrom kind ims s).hostMem = s.hostMem := by
  induction ims generalizing kind s with
  | nil => unfold State.bootFrom; split <;> simp
  | cons im r ih => unfold State.bootFrom; split <;> simp [ih]
@[simp] theorem State.stepUpLater_hostMem (s : State) : (State.stepUpLater s).hostMem = s.hostMem := by
  simp [State.stepUpLater]
@[simp] theorem State.onPower_hostMem (f : Power → Power) (s : State) : (State.onPower f s).hostMem = s.hostMem := by
  simp [State.onPower]
@[simp] theorem State.setStep_hostMem (k : Nat) (s : State) : (State.setStep k s).hostMem = s.hostMem := by
  simp [State.setStep]

end Sys2Proof.Machine
end

