-- ==== Sys2Proof/Laws/Memory.lean ====
section
/-! SUPPORT. Memory: its canonical form is kept by every write, and a byte read after a write. -/

namespace Sys2Proof.Machine

/-! ## The canonical form -/

/-- Addresses strictly rising, no entry at the unlisted value. -/
theorem Memory.wf_iff (m : Memory) :
    Memory.wf m = true ↔ m.Pairwise (fun x y => x.1 < y.1) ∧ ∀ c ∈ m, c.2 ≠ unlisted := by
  induction m with
  | nil => simp [Memory.wf]
  | cons x r ih =>
    cases r with
    | nil => obtain ⟨a, v⟩ := x; simp [Memory.wf]
    | cons y r =>
      obtain ⟨a, v⟩ := x
      obtain ⟨b, w⟩ := y
      simp only [Memory.wf, Bool.and_eq_true, bne_iff_ne, ne_eq, decide_eq_true_eq, ih, List.pairwise_cons, List.mem_cons]
      constructor
      · rintro ⟨⟨hv, hab⟩, ⟨hb, hr⟩, hm⟩
        refine ⟨⟨?_, hb, hr⟩, ?_⟩
        · rintro c (rfl | hc)
          · exact hab
          · exact Nat.lt_trans hab (hb c hc)
        · rintro c (rfl | hc)
          · exact hv
          · exact hm c hc
      · rintro ⟨⟨ha, hb, hr⟩, hm⟩
        exact ⟨⟨hm _ (.inl rfl), ha _ (.inl rfl)⟩, ⟨hb, hr⟩, fun c hc => hm c (.inr hc)⟩

theorem Memory.wf_nil : Memory.wf [] = true := rfl

theorem Memory.wf_filter (f : Host.Cell → Bool) (m : Memory) (h : Memory.wf m = true) : Memory.wf (m.filter f) = true := by
  rw [Memory.wf_iff] at *
  exact ⟨h.1.filter _, fun c hc => h.2 c ((List.mem_filter.mp hc).1)⟩

theorem mem_cellsAt (bs : List Byte) (a : Nat) (c : Host.Cell) (h : c ∈ cellsAt a bs) : a ≤ c.1 ∧ c.1 < a + bs.length := by
  induction bs generalizing a with
  | nil => simp [cellsAt] at h
  | cons b r ih =>
    simp only [cellsAt, List.mem_cons] at h
    rcases h with rfl | h
    · simp
    · have := ih _ h; simp only [List.length_cons]; omega

theorem pairwise_cellsAt (bs : List Byte) (a : Nat) : (cellsAt a bs).Pairwise (fun x y => x.1 < y.1) := by
  induction bs generalizing a with
  | nil => simp [cellsAt]
  | cons b r ih =>
    simp only [cellsAt, List.pairwise_cons]
    exact ⟨fun c hc => (mem_cellsAt _ _ _ hc).1, ih _⟩

theorem mem_runCells (bs : List Byte) (a : Nat) (c : Host.Cell) (h : c ∈ runCells a bs) :
    a ≤ c.1 ∧ c.1 < a + bs.length ∧ c.2 ≠ unlisted := by
  simp only [runCells, List.mem_filter, bne_iff_ne] at h
  have := mem_cellsAt _ _ _ h.1
  exact ⟨this.1, this.2, h.2⟩

/-- A write keeps the canonical form. -/
theorem Memory.wf_writeRun (m : Memory) (a : Nat) (bs : List Byte) (h : Memory.wf m = true) : Memory.wf (writeRun m a bs) = true := by
  rw [Memory.wf_iff] at *
  obtain ⟨hp, hn⟩ := h
  constructor
  · simp only [writeRun, List.pairwise_append, List.mem_append]
    refine ⟨hp.filter _, ⟨(pairwise_cellsAt bs a).filter _, hp.filter _, ?_⟩, ?_⟩
    · intro x hx y hy
      have := mem_runCells _ _ _ hx
      simp only [List.mem_filter, decide_eq_true_eq] at hy
      omega
    · intro x hx y hy
      simp only [List.mem_filter, decide_eq_true_eq] at hx
      rcases hy with hy | hy
      · have := mem_runCells _ _ _ hy; omega
      · simp only [List.mem_filter, decide_eq_true_eq] at hy; omega
  · intro c hc
    simp only [writeRun, List.mem_append] at hc
    rcases hc with hc | hc | hc
    · exact hn c ((List.mem_filter.mp hc).1)
    · exact (mem_runCells _ _ _ hc).2.2
    · exact hn c ((List.mem_filter.mp hc).1)

theorem Memory.wf_writeByte (m : Memory) (a : Nat) (v : Byte) (h : Memory.wf m = true) : Memory.wf (writeByte m a v) = true :=
  Memory.wf_writeRun m a [v] h

theorem Memory.wf_foldl {β : Type} (f : Memory → β → Memory) (hf : ∀ m b, Memory.wf m = true → Memory.wf (f m b) = true) (l : List β)
    (m : Memory) (h : Memory.wf m = true) : Memory.wf (l.foldl f m) = true := by
  induction l generalizing m with
  | nil => exact h
  | cons b r ih => exact ih _ (hf m b h)

theorem Memory.wf_writeCells (m : Memory) (cs : List Host.Cell) (h : Memory.wf m = true) : Memory.wf (writeCells m cs) = true :=
  Memory.wf_foldl _ (fun m c h => Memory.wf_writeByte m c.1 c.2 h) cs m h

/-! ## Reading after a write -/

theorem readByte_filter (f : Nat → Bool) (m : Memory) (x : Nat) :
    readByte (m.filter fun c => f c.1) x = if f x then readByte m x else unlisted := by
  induction m with
  | nil => simp [readByte]
  | cons c r ih =>
    obtain ⟨b, v⟩ := c
    by_cases hf : f b = true <;> by_cases hx : b = x
    · subst hx; simp [hf, readByte]
    · simp [hf, readByte, hx, ih]
    · subst hx; simp [hf, ih]
    · simp [hf, readByte, hx, ih]

theorem readByte_append (m n : Memory) (x : Nat) (h : ∀ c ∈ m, c.1 ≠ x) : readByte (m ++ n) x = readByte n x := by
  induction m with
  | nil => rfl
  | cons c r ih =>
    obtain ⟨b, v⟩ := c
    have hb : b ≠ x := h (b, v) (by simp)
    simp [readByte, hb, ih fun c hc => h c (List.mem_cons_of_mem _ hc)]

theorem readByte_append_left (m n : Memory) (x : Nat) (h : ∀ c ∈ n, c.1 ≠ x) : readByte (m ++ n) x = readByte m x := by
  induction m with
  | nil =>
    have : readByte n x = readByte (n ++ []) x := by simp
    simp only [List.nil_append, readByte]
    rw [this, readByte_append n [] x h]
    rfl
  | cons c r ih => obtain ⟨b, v⟩ := c; simp [readByte, ih]

theorem readByte_cellsAt (bs : List Byte) (a x : Nat) :
    readByte (cellsAt a bs) x = if a ≤ x ∧ x < a + bs.length then bs.getD (x - a) 0 else unlisted := by
  induction bs generalizing a with
  | nil =>
    have h : ¬ (a ≤ x ∧ x < a + ([] : List Byte).length) := by simp only [List.length_nil]; omega
    rw [if_neg h]; rfl
  | cons b r ih =>
    by_cases h : a = x
    · subst h; simp [cellsAt, readByte]
    · simp only [cellsAt, readByte, h, if_false, ih, List.length_cons]
      by_cases h1 : a + 1 ≤ x ∧ x < a + 1 + r.length
      · have h2 : a ≤ x ∧ x < a + (r.length + 1) := by omega
        have h3 : x - a = (x - (a + 1)) + 1 := by omega
        rw [if_pos h1, if_pos h2, h3]; simp
      · have h2 : ¬ (a ≤ x ∧ x < a + (r.length + 1)) := by omega
        rw [if_neg h1, if_neg h2]

theorem readByte_dropUnlisted (m : Memory) (x : Nat) (h : m.Pairwise (fun p q => p.1 < q.1)) :
    readByte (m.filter fun c => c.2 != unlisted) x = readByte m x := by
  induction m with
  | nil => rfl
  | cons c r ih =>
    obtain ⟨b, v⟩ := c
    simp only [List.pairwise_cons] at h
    by_cases hv : v = unlisted
    · subst hv
      by_cases hx : b = x
      · subst hx
        have : ∀ y : List Host.Cell, (∀ c ∈ y, c.1 ≠ b) → readByte y b = unlisted := by
          intro y hy
          have := readByte_append y [] b hy
          simpa [readByte] using this
        simp only [List.filter_cons, bne_self_eq_false, Bool.false_eq_true, if_false, readByte, if_true]
        exact this _ fun c hc => by have := h.1 c (List.mem_filter.mp hc).1; omega
      · simp [readByte, hx, ih h.2]
    · simp [hv, readByte, ih h.2]

/-- What a byte reads as after a write of a run. -/
theorem readByte_writeRun (m : Memory) (a : Nat) (bs : List Byte) (x : Nat) :
    readByte (writeRun m a bs) x = if a ≤ x ∧ x < a + bs.length then bs.getD (x - a) 0 else readByte m x := by
  have h1 : readByte (m.filter fun c => decide (c.1 < a)) x = if x < a then readByte m x else unlisted := by
    have := readByte_filter (fun n => decide (n < a)) m x; simpa using this
  have h3 : readByte (m.filter fun c => decide (a + bs.length ≤ c.1)) x = if a + bs.length ≤ x then readByte m x else unlisted := by
    have := readByte_filter (fun n => decide (a + bs.length ≤ n)) m x; simpa using this
  have h2 : readByte (runCells a bs) x = if a ≤ x ∧ x < a + bs.length then bs.getD (x - a) 0 else unlisted := by
    rw [← readByte_cellsAt]; exact readByte_dropUnlisted _ _ (pairwise_cellsAt bs a)
  unfold writeRun
  by_cases hx : x < a
  · rw [readByte_append_left, h1]
    · have : ¬ (a ≤ x ∧ x < a + bs.length) := by omega
      simp [hx, this]
    · intro c hc
      simp only [List.mem_append, List.mem_filter, decide_eq_true_eq] at hc
      rcases hc with hc | hc
      · have := mem_runCells _ _ _ hc; omega
      · omega
  · rw [readByte_append]
    · by_cases hy : x < a + bs.length
      · rw [readByte_append_left, h2]
        · have : a ≤ x ∧ x < a + bs.length := by omega
          simp [this]
        · intro c hc
          simp only [List.mem_filter, decide_eq_true_eq] at hc
          omega
      · rw [readByte_append, h3]
        · have h4 : ¬ (a ≤ x ∧ x < a + bs.length) := by omega
          have h5 : a + bs.length ≤ x := by omega
          simp [h4, h5]
        · intro c hc
          have := mem_runCells _ _ _ hc
          omega
    · intro c hc
      simp only [List.mem_filter, decide_eq_true_eq] at hc
      omega

theorem readByte_writeByte (m : Memory) (a : Nat) (v : Byte) (x : Nat) :
    readByte (writeByte m a v) x = if a = x then v else readByte m x := by
  rw [writeByte, readByte_writeRun]
  by_cases h : a = x
  · subst h; simp
  · have : ¬ (a ≤ x ∧ x < a + [v].length) := by simp only [List.length_cons, List.length_nil]; omega
    rw [if_neg this, if_neg h]

/-- A byte that no cell names reads as before. -/
theorem readByte_writeCells_ne (cs : List Host.Cell) (m : Memory) (x : Nat) (h : ∀ c ∈ cs, c.1 ≠ x) :
    readByte (writeCells m cs) x = readByte m x := by
  induction cs generalizing m with
  | nil => rfl
  | cons c r ih =>
    have hc : c.1 ≠ x := h c (by simp)
    show readByte (writeCells (writeByte m c.1 c.2) r) x = _
    rw [ih _ fun c hc => h c (List.mem_cons_of_mem _ hc), readByte_writeByte]
    simp [hc]

/-- The last cell for a byte stands. -/
theorem readByte_writeCells_last (pre post : List Host.Cell) (m : Memory) (a : Nat) (v : Byte) (h : ∀ c ∈ post, c.1 ≠ a) :
    readByte (writeCells m (pre ++ (a, v) :: post)) a = v := by
  have : writeCells m (pre ++ (a, v) :: post) = writeCells (writeByte (writeCells m pre) a v) post := by
    simp [writeCells, List.foldl_append]
  rw [this, readByte_writeCells_ne _ _ _ h, readByte_writeByte]
  simp

theorem length_readRun (m : Memory) (a n : Nat) : (readRun m a n).length = n := by
  induction n generalizing a with
  | zero => rfl
  | succ n ih => simp [readRun, ih]

theorem getElem?_readRun (m : Memory) (a n i : Nat) (h : i < n) : (readRun m a n)[i]? = some (readByte m (a + i)) := by
  induction n generalizing a i with
  | zero => omega
  | succ n ih =>
    cases i with
    | zero => simp [readRun]
    | succ i => simp only [readRun, List.getElem?_cons_succ]; rw [ih _ _ (by omega)]; congr 2; omega

/-- A run reads back as it was written. -/
theorem readRun_writeRun (m : Memory) (a : Nat) (bs : List Byte) : readRun (writeRun m a bs) a bs.length = bs := by
  apply List.ext_getElem?
  intro i
  by_cases h : i < bs.length
  · rw [getElem?_readRun _ _ _ _ h, readByte_writeRun]
    have : a ≤ a + i ∧ a + i < a + bs.length := by omega
    simp [this, h]
  · rw [List.getElem?_eq_none (by rw [length_readRun]; omega), List.getElem?_eq_none (by omega)]

/-- A run that a write does not touch reads as before. -/
theorem readRun_writeRun_ne (m : Memory) (a : Nat) (bs : List Byte) (x n : Nat) (h : x + n ≤ a ∨ a + bs.length ≤ x) :
    readRun (writeRun m a bs) x n = readRun m x n := by
  induction n generalizing x with
  | zero => rfl
  | succ n ih =>
    have h1 : ¬ (a ≤ x ∧ x < a + bs.length) := by omega
    simp only [readRun, readByte_writeRun, h1, if_false]
    rw [ih (x + 1) (by omega)]

end Sys2Proof.Machine
end

