-- ==== Sys2Proof/Laws/Canon.lean ====
section
/-! SUPPORT. The canonical form of memory, kept by every operation that writes it. -/

namespace Sys2Proof.Machine

@[simp] theorem State.landMarked_wf (key : CipherKey) (runs : List Sys2Proof.Run) (marks : List (Nat × W32)) (s : State) (h : Memory.wf s.mem = true) : Memory.wf (State.landMarked key runs marks s).mem = true := by
  unfold State.landMarked
  rw [State.touch_mem]
  exact Memory.wf_foldl _ (fun m r hm => Memory.wf_writeRun m r.addr r.bytes hm) _ _ h
@[simp] theorem State.landHeld_wf (key : CipherKey) (runs : List Sys2Proof.Run) (marks : List (Nat × W32)) (s : State) (h : Memory.wf s.mem = true) : Memory.wf (State.landHeld key runs marks s).mem = true := by
  unfold State.landHeld
  dsimp only
  split <;> simp [h]
@[simp] theorem State.landRunsBy_wf (key : CipherKey) (runs : List Sys2Proof.Run) (poisoned : List Nat) (s : State) (h : Memory.wf s.mem = true) : Memory.wf (State.landRunsBy key runs poisoned s).mem = true := by
  simp [State.landRunsBy, h]
@[simp] theorem State.landRuns_wf (runs : List Sys2Proof.Run) (poisoned : List Nat) (s : State) (h : Memory.wf s.mem = true) : Memory.wf (State.landRuns runs poisoned s).mem = true := 
  State.landRunsBy_wf none runs poisoned s h
@[simp] theorem State.storeCellsBy_wf (key : Nat → CipherKey) (tell : Nat → Option ErrRecord) (cs : List Host.Cell) (s : State) (h : Memory.wf s.mem = true) : Memory.wf (State.storeCellsBy key tell cs s).mem = true := by
  unfold State.storeCellsBy
  extract_lets secs poisoned clean t
  have ht : Memory.wf t.mem = true := by simp only [t]; rw [State.touch_mem]; exact Memory.wf_writeCells _ _ h
  exact foldl_keeps (fun u => Memory.wf u.mem = true) _ (fun t a ht => by simp [ht]) _ _ ht
@[simp] theorem State.storeCellsAt_wf (p k engine : Nat) (note : Nat → GateNote) (cs : List Host.Cell) (s : State) (h : Memory.wf s.mem = true) : Memory.wf (State.storeCellsAt p k engine note cs s).mem = true := by
  simp [State.storeCellsAt, h]
@[simp] theorem State.refreshFar_wf (fs : List Nat) (s : State) (h : Memory.wf s.mem = true) : Memory.wf (State.refreshFar fs s).mem = true := by
  unfold State.refreshFar
  exact foldl_keeps (fun u => Memory.wf u.mem = true) _ (fun t f ht => Memory.wf_writeRun _ _ _ ht) _ _ h
@[simp] theorem State.writeLent_wf (core a : Nat) (bs : List Byte) (s : State) (h : Memory.wf s.mem = true) : Memory.wf (State.writeLent core a bs s).mem = true := by
  unfold State.writeLent
  dsimp only
  split
  · exact h
  · exact Memory.wf_writeRun _ _ _ h
@[simp] theorem State.zeroRuns_wf (rs : List (Nat × Nat)) (s : State) (h : Memory.wf s.mem = true) : Memory.wf (State.zeroRuns rs s).mem = true := by
  unfold State.zeroRuns
  dsimp only
  rw [State.rekeyWhole_mem, State.touch_mem]
  exact Memory.wf_filter _ _ h
@[simp] theorem State.aggStore_wf (a : AggWork) (cs : List Host.Cell) (s : State) (h : Memory.wf s.mem = true) : Memory.wf (State.aggStore a cs s).mem = true := by
  simp [State.aggStore, h]
@[simp] theorem State.landSectors_wf (l : LinkCmd) (off : Nat) (secs : List (List Byte × W32)) (s : State) (h : Memory.wf s.mem = true) : Memory.wf (State.landSectors l off secs s).mem = true := by
  simp only [State.landSectors]
  (repeat' split) <;> simp [h]
@[simp] theorem State.writeFlag_wf (l : LinkCmd) (chunk : Nat) (s : State) (h : Memory.wf s.mem = true) : Memory.wf (State.writeFlag l chunk s).mem = true := by
  unfold State.writeFlag
  extract_lets a n s1 s2 s3
  have h1 : Memory.wf s1.mem = true := by simp only [s1]; rw [State.touch_mem]; exact Memory.wf_writeRun _ _ _ h
  have h3 : Memory.wf s3.mem = true := by simp only [s3]; split <;> (try split) <;> simp [s2, h1]
  simp [h3]
@[simp] theorem State.combine_wf (l : LinkCmd) (c : ChanRec) (chunk : Nat) (acc : List (List Byte × W32)) (s : State) (h : Memory.wf s.mem = true) : Memory.wf (State.combine l c chunk acc s).mem = true := by
  simp only [State.combine]
  (repeat' split) <;> simp [h]
@[simp] theorem State.landChunk_wf (l : LinkCmd) (c : ChanRec) (origin chunk : Nat) (secs : List (List Byte × W32)) (s : State) (h : Memory.wf s.mem = true) : Memory.wf (State.landChunk l c origin chunk secs s).mem = true := by
  simp only [State.landChunk]
  (repeat' split) <;> simp [h]
@[simp] theorem State.landShards_wf (l : LinkCmd) (c : ChanRec) (s : State) (h : Memory.wf s.mem = true) : Memory.wf (State.landShards l c s).mem = true := by
  unfold State.landShards
  exact foldl_keeps (fun u => Memory.wf u.mem = true) _ (fun t x h => by (try simp [h]) <;> (repeat' split) <;> simp [h]) _ _ h
@[simp] theorem State.fillRings_wf (p : Nat) (s : State) (h : Memory.wf s.mem = true) : Memory.wf (State.fillRings p s).mem = true := by
  unfold State.fillRings
  exact foldl_keeps (fun u => Memory.wf u.mem = true) _ (fun t x h => by (try simp [h]) <;> (repeat' split) <;> simp [h]) _ _ h
@[simp] theorem State.recvFlit_wf (l : LinkCmd) (f : Flit) (s : State) (h : Memory.wf s.mem = true) : Memory.wf (State.recvFlit l f s).mem = true := by
  simp only [State.recvFlit]
  (repeat' split) <;> simp [h]
@[simp] theorem State.allredFlit_wf (l : LinkCmd) (c : ChanRec) (tag : Nat) (f : Flit) (s : State) (h : Memory.wf s.mem = true) : Memory.wf (State.allredFlit l c tag f s).mem = true := by
  simp only [State.allredFlit]
  (repeat' split) <;> simp [h]
@[simp] theorem State.commandFlit_wf (l : LinkCmd) (c : ChanRec) (f : Flit) (s : State) (h : Memory.wf s.mem = true) : Memory.wf (State.commandFlit l c f s).mem = true := by
  simp only [State.commandFlit]
  (repeat' split) <;> simp [h]
@[simp] theorem State.returnRemote_wf (n g off : Nat) (s : State) (h : Memory.wf s.mem = true) : Memory.wf (State.returnRemote n g off s).mem = true := by
  simp only [State.returnRemote]
  (repeat' split) <;> simp [h]
@[simp] theorem State.putFlag_wf (n : Nat) (c : ChanRec) (u : PutIn) (chunk : Nat) (s : State) (h : Memory.wf s.mem = true) : Memory.wf (State.putFlag n c u chunk s).mem = true := by
  unfold State.putFlag
  extract_lets s1 s2 s3 all
  have h1 : Memory.wf s1.mem = true := by
    simp only [s1]
    split
    · exact Memory.wf_writeRun _ _ _ h
    · exact h
  split <;> simp [s3, s2, h1]
@[simp] theorem State.landPut_wf (n : Nat) (u : PutIn) (f : Flit) (s : State) (h : Memory.wf s.mem = true) : Memory.wf (State.landPut n u f s).mem = true := by
  unfold State.landPut
  exact foldl_keeps (fun u => Memory.wf u.mem = true) _ (fun t x h => by (try simp [h]) <;> (repeat' split) <;> simp [h]) _ _ h
@[simp] theorem State.putFlit_wf (n : Nat) (c : ChanRec) (f : Flit) (s : State) (h : Memory.wf s.mem = true) : Memory.wf (State.putFlit n c f s).mem = true := by
  simp only [State.putFlit]
  (repeat' split) <;> simp [h]
@[simp] theorem State.arm_wf (l : LinkCmd) (s : State) (h : Memory.wf s.mem = true) : Memory.wf (State.arm l s).mem = true := by
  unfold State.arm
  extract_lets p n
  split
  · exact h
  · extract_lets s1 s2 sp s3 s4
    have h3 : Memory.wf s3.mem = true := by simp only [s3]; split <;> simp [s2, s1, h]
    have h4 : Memory.wf s4.mem = true := foldl_keeps (fun u => Memory.wf u.mem = true) _ (fun t f ht => by split <;> simp [ht]) _ _ h3
    simp [h4]
@[simp] theorem State.publishOne_wf (q : Pub) (s : State) (h : Memory.wf s.mem = true) : Memory.wf (State.publishOne q s).mem = true := by
  simp only [State.publishOne]
  (repeat' split) <;> simp [h]
@[simp] theorem State.commit_wf (s : State) (h : Memory.wf s.mem = true) : Memory.wf (State.commit s).mem = true := by
  unfold State.commit
  extract_lets s1 s2 s3 s4
  have h4 : Memory.wf s4.mem = true := foldl_keeps (fun u => Memory.wf u.mem = true) _ (fun t q ht => by simp [ht]) _ _ (by simp [s3, s2, s1, h])
  simp [h4]
@[simp] theorem State.commits_wf (ps : List Post) (s : State) (h : Memory.wf s.mem = true) : Memory.wf (State.commits ps s).mem = true := by
  simp only [State.commits]
  (repeat' split) <;> simp [h]
@[simp] theorem State.endGroup_wf (s : State) (h : Memory.wf s.mem = true) : Memory.wf (State.endGroup s).mem = true := by
  simp only [State.endGroup]
  (repeat' split) <;> simp [h]
@[simp] theorem State.vFresh_wf (n v len : Nat) (s : State) (h : Memory.wf s.mem = true) : Memory.wf (State.vFresh n v len s).mem = true := by
  simp [State.vFresh, h]
@[simp] theorem State.hubRuns_wf (n engine : Nat) (runs : List Sys2Proof.Run) (s : State) (h : Memory.wf s.mem = true) : Memory.wf (State.hubRuns n engine runs s).mem = true := by
  simp [State.hubRuns, h]
@[simp] theorem State.vWrite_wf (n engine v : Nat) (bs : List Byte) (s : State) (h : Memory.wf s.mem = true) : Memory.wf (State.vWrite n engine v bs s).mem = true := by
  simp [State.vWrite, h]
@[simp] theorem State.writeFence_wf (n a : Nat) (v : Word) (s : State) (h : Memory.wf s.mem = true) : Memory.wf (State.writeFence n a v s).mem = true := by
  simp only [State.writeFence]
  (repeat' split) <;> simp [h]
@[simp] theorem State.complete_wf (c : Cmd) (s : State) (h : Memory.wf s.mem = true) : Memory.wf (State.complete c s).mem = true := by
  simp [State.complete, h]
@[simp] theorem State.failWith_wf (c : Cmd) (r : ErrRecord) (s : State) (h : Memory.wf s.mem = true) : Memory.wf (State.failWith c r s).mem = true := by
  simp [State.failWith, h]
@[simp] theorem State.fail_wf (c : Cmd) (code : Nat) (s : State) (h : Memory.wf s.mem = true) : Memory.wf (State.fail c code s).mem = true := by
  simp [State.fail, h]
@[simp] theorem State.signal_wf (c : Cmd) (s : State) (h : Memory.wf s.mem = true) : Memory.wf (State.signal c s).mem = true := by
  simp only [State.signal]
  (repeat' split) <;> simp [h]
@[simp] theorem State.waitFence_wf (c : Cmd) (s : State) (h : Memory.wf s.mem = true) : Memory.wf (State.waitFence c s).mem = true := by
  simp only [State.waitFence]
  (repeat' split) <;> simp [h]
@[simp] theorem State.invalid_wf (c : Cmd) (s : State) (h : Memory.wf s.mem = true) : Memory.wf (State.invalid c s).mem = true := by
  simp [State.invalid, h]
@[simp] theorem State.dispatch_wf (c : Cmd) (s : State) (h : Memory.wf s.mem = true) : Memory.wf (State.dispatch c s).mem = true := by
  simp only [State.dispatch]
  (repeat' split) <;> simp [h]
@[simp] theorem State.poll_wf (n q : Nat) (later : Bool) (s : State) (h : Memory.wf s.mem = true) : Memory.wf (State.poll n q later s).mem = true := by
  simp only [State.poll]
  (repeat' split) <;> simp [h]
@[simp] theorem State.pollDue_wf (n q : Nat) (s : State) (h : Memory.wf s.mem = true) : Memory.wf (State.pollDue n q s).mem = true := by
  simp only [State.pollDue]
  (repeat' split) <;> simp [h]
@[simp] theorem State.hostCopied_wf (c : Cmd) (s : State) (h : Memory.wf s.mem = true) : Memory.wf (State.hostCopied c s).mem = true := by
  simp only [State.hostCopied]
  (repeat' split) <;> simp [h]
@[simp] theorem State.issued_wf (seq : Nat) (t : State) (h : Memory.wf t.mem = true) : Memory.wf (State.issued seq t).mem = true := by
  simp only [State.issued]
  (repeat' split) <;> simp [h]
@[simp] theorem State.writeImage_wf (place : Option Nat) (im : List Byte) (s : State) (h : Memory.wf s.mem = true) : Memory.wf (State.writeImage place im s).mem = true := by
  simp only [State.writeImage]
  (repeat' split) <;> simp [h]
@[simp] theorem State.saveCtx_wf (n tag p k : Nat) (forTag : Option Nat) (s : State) (h : Memory.wf s.mem = true) : Memory.wf (State.saveCtx n tag p k forTag s).mem = true := by
  simp only [State.saveCtx]
  (repeat' split) <;> simp [h]
@[simp] theorem State.evictStep_wf (n tag P : Nat) (ms : List (Nat × Nat)) (forTag : Option Nat) (s : State) (h : Memory.wf s.mem = true) : Memory.wf (State.evictStep n tag P ms forTag s).1.mem = true := by
  simp only [State.evictStep]
  split
  · simp [h]
  split
  · exact h
  split
  · exact foldl_keeps (fun u => Memory.wf u.mem = true) _ (fun t m ht => by simp [ht]) _ _ h
  · exact foldl_keeps (fun u => Memory.wf u.mem = true) _ (fun t m ht => by split <;> simp [ht]) _ _ h
@[simp] theorem State.regionsBack_wf (v : SavedCtx) (s : State) (h : Memory.wf s.mem = true) : Memory.wf (State.regionsBack v s).mem = true := by
  simp only [State.regionsBack]
  (repeat' split) <;> simp [h]
@[simp] theorem State.restoreCtx_wf (v : SavedCtx) (s : State) (h : Memory.wf s.mem = true) : Memory.wf (State.restoreCtx v s).mem = true := by
  simp [State.restoreCtx, h]
@[simp] theorem State.restoreLaunch_wf (n tag : Nat) (s : State) (h : Memory.wf s.mem = true) : Memory.wf (State.restoreLaunch n tag s).1.mem = true := by
  unfold State.restoreLaunch
  dsimp only
  split
  · exact h
  · exact foldl_keeps (fun u => Memory.wf u.mem = true) _ (fun t v ht => by simp [ht]) _ _ h
@[simp] theorem State.loadRegion_wf (n p : Nat) (r : ImgRegion) (s : State) (h : Memory.wf s.mem = true) : Memory.wf (State.loadRegion n p r s).mem = true := by
  simp [State.loadRegion, h]
@[simp] theorem State.loadLaunch_wf (c : Cmd) (im : Image) (b : Binding) (lines : List (Nat × Nat)) (s : State) (h : Memory.wf s.mem = true) : Memory.wf (State.loadLaunch c im b lines s).mem = true := by
  unfold State.loadLaunch
  extract_lets n tag start fixed l s1 s2 s3 s4 s5 s6
  have h1 : s1.mem = s.mem := foldl_mem _ _ _ fun t x => by simp
  have h3 : Memory.wf s3.mem = true := foldl_keeps (fun u => Memory.wf u.mem = true) _ (fun t r ht => by simp [ht]) _ _ (by simp [s2, h1, h])
  have h4 : s4.mem = s3.mem := foldl_mem _ _ _ fun t x => by simp
  simp [s6, s5, h4, h3]
@[simp] theorem State.endLaunch_wf (n : Nat) (l : Launch) (taint : Bool) (s : State) (h : Memory.wf s.mem = true) : Memory.wf (State.endLaunch n l taint s).mem = true := by
  simp [State.endLaunch, h]
@[simp] theorem State.restoreSaved_wf (n : Nat) (s : State) (h : Memory.wf s.mem = true) : Memory.wf (State.restoreSaved n s).mem = true := by
  unfold State.restoreSaved
  refine foldl_keeps (fun u => Memory.wf u.mem = true) _ (fun t l ht => ?_) _ _ h
  dsimp only
  split
  · exact ht
  · have hr := State.restoreLaunch_wf n l.tag t ht
    split
    · rename_i u hu; rw [hu] at hr; exact hr
    · rename_i u c a b d hu; rw [hu] at hr; simp only at hr; simp [hr]
@[simp] theorem State.restoreTurn_wf (n : Nat) (s : State) (h : Memory.wf s.mem = true) : Memory.wf (State.restoreTurn n s).mem = true := by
  simp [State.restoreTurn, h]
@[simp] theorem State.evictYielding_wf (n u : Nat) (s : State) (h : Memory.wf s.mem = true) : Memory.wf (State.evictYielding n u s).mem = true := by
  unfold State.evictYielding
  exact foldl_keeps (fun u => Memory.wf u.mem = true) _ (fun t x h => by (try simp [h]) <;> (repeat' split) <;> simp [h]) _ _ h
@[simp] theorem State.displace_wf (c : Cmd) (img : Option Image) (im : Image) (b : Binding) (s : State) (h : Memory.wf s.mem = true) : Memory.wf (State.displace c img im b s).mem = true := by
  simp [State.displace, h]
@[simp] theorem State.failLaunch_wf (c : Cmd) (code : Nat) (s : State) (h : Memory.wf s.mem = true) : Memory.wf (State.failLaunch c code s).mem = true := by
  simp [State.failLaunch, h]
@[simp] theorem State.unbound_wf (c : Cmd) (img : Option Image) (im : Image) (s : State) (h : Memory.wf s.mem = true) : Memory.wf (State.unbound c img im s).mem = true := by
  simp only [State.unbound]
  (repeat' split) <;> simp [h]
@[simp] theorem State.launch_wf (c : Cmd) (img : Option Image) (s : State) (h : Memory.wf s.mem = true) : Memory.wf (State.launch c img s).mem = true := by
  simp only [State.launch]
  (repeat' split) <;> simp [h]
@[simp] theorem State.preemptStop_wf (c : Cmd) (s : State) (h : Memory.wf s.mem = true) : Memory.wf (State.preemptStop c s).mem = true := by
  simp only [State.preemptStop]
  (repeat' split) <;> simp [h]
@[simp] theorem State.preemptResume_wf (c : Cmd) (s : State) (h : Memory.wf s.mem = true) : Memory.wf (State.preemptResume c s).mem = true := by
  unfold State.preemptResume
  split
  · split <;> simp [h]
  · split
    · split <;> simp [h]
    · split
      · simp [h]
      · split
        · simp [h]
        · dsimp only
          rw [State.again_mem]
          exact foldl_keeps (fun u => Memory.wf u.mem = true) _ (fun t m ht => by simp [ht]) _ _ h
@[simp] theorem State.preemptEvict_wf (c : Cmd) (s : State) (h : Memory.wf s.mem = true) : Memory.wf (State.preemptEvict c s).mem = true := by
  simp only [State.preemptEvict]
  (repeat' split) <;> simp [h]
@[simp] theorem State.switchOn_wf (c : Cmd) (s : State) (h : Memory.wf s.mem = true) : Memory.wf (State.switchOn c s).mem = true := by
  simp only [State.switchOn]
  (repeat' split) <;> simp [h]
@[simp] theorem State.preemptSwitch_wf (c : Cmd) (s : State) (h : Memory.wf s.mem = true) : Memory.wf (State.preemptSwitch c s).mem = true := by
  simp only [State.preemptSwitch]
  (repeat' split) <;> simp [h]
@[simp] theorem State.handedOver_wf (n tag : Nat) (s : State) (h : Memory.wf s.mem = true) : Memory.wf (State.handedOver n tag s).mem = true := by
  simp only [State.handedOver]
  (repeat' split) <;> simp [h]
@[simp] theorem State.endAll_wf (n : Nat) (s : State) (h : Memory.wf s.mem = true) : Memory.wf (State.endAll n s).mem = true := by
  unfold State.endAll
  exact foldl_keeps (fun u => Memory.wf u.mem = true) _ (fun t x h => by (try simp [h]) <;> (repeat' split) <;> simp [h]) _ _ h
@[simp] theorem State.teardownOn_wf (n : Nat) (s : State) (h : Memory.wf s.mem = true) : Memory.wf (State.teardownOn n s).mem = true := by
  simp only [State.teardownOn]
  (repeat' split) <;> simp [h]
@[simp] theorem State.ringRecord_wf (n : Nat) (r : ErrRecord) (s : State) (h : Memory.wf s.mem = true) : Memory.wf (State.ringRecord n r s).mem = true := by
  unfold State.ringRecord
  split
  · exact h
  · extract_lets w s1
    rw [State.onPart_mem]
    exact State.vWrite_wf _ _ _ _ _ (State.vWrite_wf _ _ _ _ _ h)
@[simp] theorem State.endStopped_wf (n : Nat) (s : State) (h : Memory.wf s.mem = true) : Memory.wf (State.endStopped n s).mem = true := by
  simp only [State.endStopped]
  split
  · split <;> simp [h]
  · have hf := foldl_keeps (fun u => Memory.wf u.mem = true) (fun (t : State) l => (t.endLaunch n l false).restoreLater n) (fun t l ht => by rw [State.restoreLater_mem]; exact State.endLaunch_wf n l false t ht) ((s.partAt n).launches.filter fun l => l.ending && s.allStill l) s h
    split
    · rw [State.wakeHarvest_mem]; exact hf
    · exact hf
@[simp] theorem State.toRing_wf (n : Nat) (r : ErrRecord) (s : State) (h : Memory.wf s.mem = true) : Memory.wf (State.toRing n r s).mem = true := by
  simp only [State.toRing]
  (repeat' split) <;> simp [h]
@[simp] theorem State.harvestOne_wf (n : Nat) (r : ErrRecord) (s : State) (h : Memory.wf s.mem = true) : Memory.wf (State.harvestOne n r s).mem = true := by
  simp [State.harvestOne, h]
@[simp] theorem State.harvest_wf (n : Nat) (s : State) (h : Memory.wf s.mem = true) : Memory.wf (State.harvest n s).mem = true := by
  unfold State.harvest
  dsimp only
  refine State.endStopped_wf _ _ ?_
  rw [State.assignHome_mem]
  exact foldl_keeps (fun u => Memory.wf u.mem = true) _ (fun t r ht => by simp [ht]) _ _ (by simp [h])
@[simp] theorem State.drainOne_wf (p turn : Nat) (s : State) (h : Memory.wf s.mem = true) : Memory.wf (State.drainOne p turn s).mem = true := by
  simp only [State.drainOne]
  (repeat' split) <;> simp [h]
@[simp] theorem State.giveNotice_wf (n : Nat) (s : State) (h : Memory.wf s.mem = true) : Memory.wf (State.giveNotice n s).mem = true := by
  unfold State.giveNotice
  split
  · rw [State.onPart_mem]
    exact foldl_keeps (fun u => Memory.wf u.mem = true) _ (fun t r ht => by simp [ht]) _ _ h
  · exact h
@[simp] theorem State.updateEntry_wf (n k : Nat) (v : Word) (s : State) (h : Memory.wf s.mem = true) : Memory.wf (State.updateEntry n k v s).mem = true := by
  simp only [State.updateEntry]
  (repeat' split) <;> simp [h]
@[simp] theorem State.landMoved_wf (f : Flit) (s : State) (h : Memory.wf s.mem = true) : Memory.wf (State.landMoved f s).mem = true := by
  simp only [State.landMoved]
  (repeat' split) <;> simp [h]
@[simp] theorem State.resetPackage_wf (s : State) (h : Memory.wf s.mem = true) : Memory.wf (State.resetPackage s).mem = true := by
  rfl
@[simp] theorem State.resetWith_wf (number : Nat) (s : State) (h : Memory.wf s.mem = true) : Memory.wf (State.resetWith number s).mem = true := by
  simp [State.resetWith, h]

end Sys2Proof.Machine
end

