-- ==== Sys2Proof/Laws/Slot.lean ====
section
/-! SUPPORT. What a slot's skeleton does, once for every slot: squashed, executed, withheld, trapped, rolled back. -/

namespace Sys2Proof.Machine

/-- A slot that needs no capability bit passes the capability check. -/
@[simp] theorem State.capCheck_zero (s : State) : s.capCheck 0#32 = .go := by
  have h : (List.range 32).find? (fun b => (0#32 : W32).getLsbD b && !(s.core.ctx.cfg.usem.getLsbD b && s.core.capm.getLsbD b)) = none := by
    simp
  simp only [State.capCheck, h]

/-- The capability check changes nothing: it passes or it names the lowest bit that is missing. -/
theorem State.capCheck_cases (s : State) (need : W32) :
    s.capCheck need = .go ∨ ∃ b : Nat, b < 32 ∧ need.getLsbD b = true ∧
      (s.capCheck need = .trap (s.fault 0x0B02 0 (BitVec.ofNat 64 b) s.core.ctx.cfg.usem) ∨
       s.capCheck need = .trap (s.fault 0x0B01 0 (BitVec.ofNat 64 b) s.core.capm)) := by
  unfold State.capCheck
  split
  · exact .inl rfl
  · rename_i b h
    have h' := List.find?_some h
    have hm := List.mem_of_find?_eq_some h
    simp only [Bool.and_eq_true] at h'
    refine .inr ⟨b, List.mem_range.mp hm, h'.1, ?_⟩
    split
    · exact .inl rfl
    · exact .inr rfl

theorem State.slot_squashed {s : State} {need : W32} {chk : State → Verdict} {eff : State → State} :
    s.slot true need chk eff = .next s := by simp [State.slot]

/-- A slot that passes its checks takes its effect. -/
theorem State.slot_go {s : State} {sq : Bool} {need : W32} {chk : State → Verdict} {eff : State → State}
    (hq : sq = false) (hc : s.capCheck need = .go) (hk : chk s = .go) : s.slot sq need chk eff = .next (eff s) := by
  simp [State.slot, hq, hc, hk, Verdict.andThen, Verdict.settle]

/-- Everything that a slot can come to. -/
theorem State.slot_cases (s : State) (sq : Bool) (need : W32) (chk : State → Verdict) (eff : State → State) :
    s.slot sq need chk eff = .next s ∨ s.slot sq need chk eff = .next (eff s) ∨
    (∃ r, s.slot sq need chk eff = .next (s.takeTrap r)) ∨ (∃ h, s.slot sq need chk eff = .next (s.withhold h)) ∨
    (∃ r, s.slot sq need chk eff = .next (s.recoverable r)) ∨ s.slot sq need chk eff = .fault .dataRace := by
  cases sq
  · simp only [State.slot, Bool.false_eq_true, if_false]
    cases (s.capCheck need).andThen fun _ => chk s with
    | go => exact .inr (.inl rfl)
    | trap r => exact .inr (.inr (.inl ⟨r, rfl⟩))
    | hold h => exact .inr (.inr (.inr (.inl ⟨h, rfl⟩)))
    | recover r => exact .inr (.inr (.inr (.inr (.inl ⟨r, rfl⟩))))
    | race => exact .inr (.inr (.inr (.inr (.inr rfl))))
  · exact .inl State.slot_squashed

/-- A slot that makes no check of its own. -/
theorem State.plain_go {s : State} {sq : Bool} {need : W32} {eff : State → State} (hq : sq = false)
    (hc : s.capCheck need = .go) : s.plain sq need eff = .next (eff s) := State.slot_go hq hc rfl

/-- A check that a condition passes. -/
@[simp] theorem Verdict.require_true (r : ErrRecord) : Verdict.require true r = .go := rfl
@[simp] theorem Verdict.go_andThen (f : Unit → Verdict) : Verdict.go.andThen f = f () := rfl
@[simp] theorem Verdict.trap_andThen (r : ErrRecord) (f : Unit → Verdict) : (Verdict.trap r).andThen f = .trap r := rfl
@[simp] theorem Verdict.settle_go (eff : State → State) (s : State) : Verdict.go.settle eff s = .next (eff s) := rfl

/-- The scalar skeletons. -/
theorem State.scalar_go {s : State} {g : Gate} (d : Fin 64) (op L : Nat) (f : Ctx → Word) (h : s.core.ctx.gate0 g = true) :
    s.scalar g d op L f = .next (s.landS L d (f s.core.ctx) (s.scalarTag op)) :=
  State.plain_go (by simp [h]) (State.capCheck_zero s)

theorem State.scalarMul_go {s : State} {g : Gate} (d : Fin 64) (op L : Nat) (f : Ctx → Word) (h : s.core.ctx.gate0 g = true)
    (hc : s.capCheck (capBit 26) = .go) : s.scalarMul g d op L f = .next (s.landS L d (f s.core.ctx) (s.scalarTag op)) :=
  State.plain_go (by simp [h]) hc

theorem State.scalarCmp_go {s : State} {g : Gate} (p : Fin 32) (op : Nat) (f : Ctx → Bool) (h : s.core.ctx.gate0 g = true) :
    s.scalarCmp g p op f = .next (s.landP 1 p (BitVec.allOnes 128) (spread (f s.core.ctx)) (s.scalarTag op)) :=
  State.plain_go (by simp [h]) (State.capCheck_zero s)

theorem State.scalarAddr_go {s : State} {g : Gate} (d : Fin 16) (f : Ctx → AddrReg) (h : s.core.ctx.gate0 g = true) :
    s.scalarAddr g d f = .next (s.land 1 (.a d.val (f s.core.ctx)) 0) :=
  State.plain_go (by simp [h]) (State.capCheck_zero s)

/-- The vector skeleton. -/
theorem State.vec_go {s : State} {g : Gate} {m : Fin 8} {cap : W32} (eff : LaneMask → State → State)
    (ha : s.core.ctx.active g m ≠ 0) (hc : s.capCheck (cap ||| laneNeed (s.core.ctx.rgm m)) = .go) :
    s.vec g m cap eff = .next (eff (s.core.ctx.active g m) s) :=
  State.plain_go (beq_eq_false_iff_ne.mpr ha) hc

end Sys2Proof.Machine
end

