-- ==== Sys2Proof/Tests/Slice0.lean ====
section
/-! SUPPORT. The model's own tests: words written out from the encodings of R46 and R47, terms that are not well formed,
single slots on a small state, and for each statement with hypotheses a state that meets them. Expected values are worked
out by hand from the rules named in the comments. -/

namespace Sys2Proof.Tests

set_option Elab.async false

open Sys2Proof Sys2Proof.Machine Sys2Proof.Claim

/-! ## Decoding -/

/-- A gate on p4 with sense 1: bits 8:3 of the lend word are 001001. -/
def g : Gate := { p := 4, neg := true }

/-- Each word with its lend word decodes to its instruction. -/
def reads (l : List (Nat × Nat × Instr)) : Bool :=
  l.all fun t => match decodeSlot t.1 t.2.1 with
    | .ok i => i == t.2.2
    | .error _ => false

/-- Each word with its lend word is rejected for its reason (R43). -/
def rejects (l : List (Nat × Nat × Nat)) : Bool :=
  l.all fun t => match decodeSlot t.1 t.2.1 with
    | .ok _ => false
    | .error r => r == t.2.2

/-! One word for each operation: opcode fields from R46, every operand field with a value of its own. -/

theorem test_words_scalar_1 : reads [
  (0x08000000, 0x048, .nop g),
  (0x082A9429, 0x048, .add g 21 10 5 true),
  (0x084A9429, 0x048, .sub g 21 10 5 true),
  (0x086A9429, 0x048, .mul g 21 10 5 true),
  (0x088A9429, 0x048, .mulh g 21 10 5 true),
  (0x08AA9429, 0x048, .mulhn g 21 10 5 true),
  (0x08CA9429, 0x048, .div g 21 10 5 true),
  (0x08EA9429, 0x048, .divn g 21 10 5 true),
  (0x090A9429, 0x048, .rem g 21 10 5 true),
  (0x092A9429, 0x048, .remn g 21 10 5 true),
  (0x094A9429, 0x048, .and g 21 10 5 true),
  (0x096A9429, 0x048, .or g 21 10 5 true),
  (0x098A9429, 0x048, .xor g 21 10 5 true),
  (0x09AA9429, 0x048, .andn g 21 10 5 true),
  (0x09CA9429, 0x048, .shl g 21 10 5 true),
  (0x09EA9429, 0x048, .shr g 21 10 5 true),
  (0x0A0A9429, 0x048, .sar g 21 10 5 true),
  (0x0A2A9429, 0x048, .rotl g 21 10 5 true),
  (0x0A4A9429, 0x048, .min g 21 10 5 true),
  (0x0A6A9429, 0x048, .max g 21 10 5 true),
  (0x0A8A9429, 0x048, .minn g 21 10 5 true),
  (0x0AAA9429, 0x048, .maxn g 21 10 5 true),
  (0x0ACA9401, 0x048, .clz g 21 10 true),
  (0x0AEA9401, 0x048, .popc g 21 10 true),
  (0x0B04942E, 0x048, .cmp g 9 10 5 .ltn),
  (0x0B2A9428, 0x048, .sel g 21 10 5),
  (0x0B4A9401, 0x048, .mov g 21 10 true),
  (0x0B6A94AB, 0x04D, .addi g 21 10 2731),
  (0x0B8A94AB, 0x04D, .andi g 21 10 2731),
  (0x0BAA94AB, 0x04D, .ori g 21 10 2731),
  (0x0BCA94AB, 0x04D, .xori g 21 10 2731),
  (0x0BEA942B, 0x048, .shli g 21 10 43),
  (0x0C0A942B, 0x048, .shri g 21 10 43),
  (0x0C2A942B, 0x048, .sari g 21 10 43)] = true := by decide +kernel

theorem test_words_scalar_2 : reads [
  (0x0C449559, 0x04D, .cmpi g 9 10 363 .ne),
  (0x0C6AAAAB, 0x04D, .movi g 21 174763),
  (0x0C8AAAAB, 0x04D, .movhi g 21 174763),
  (0x0CAA80C0, 0x048, .rds g 21 24),
  (0x0CC500A0, 0x048, .wrs g 10 20),
  (0x0CE52E80, 0x048, .stgw g 10 { eng := 2, set := 3, word := 5 }),
  (0x0D0AAE80, 0x048, .stgr g 21 { eng := 2, set := 3, word := 5 }),
  (0x0D229400, 0x048, .gmsetReg g 5 10),
  (0x0D228157, 0x048, .gmsetImm g 5 171),
  (0x0D4B4AAB, 0x048, .amkLocation g 5 5 2731),
  (0x0D4B650A, 0x048, .amkRegister g 5 5 10 5),
  (0x0D6B4AAB, 0x04D, .aaddImm g 5 10 23211),
  (0x0D6B5140, 0x048, .aaddReg g 5 10 5)] = true := by decide +kernel

theorem test_words_vector_1 : reads [
  (0x100D5451, 0x04D, .fadd g 5 .bf16 21 10 5 .rz),
  (0x102D5451, 0x04D, .fsub g 5 .bf16 21 10 5 .rz),
  (0x104D5451, 0x04D, .fmul g 5 .bf16 21 10 5 .rz),
  (0x106D5451, 0x04D, .fma g 5 .bf16 21 10 5 .rz),
  (0x108D5451, 0x04D, .fms g 5 .bf16 21 10 5 .rz),
  (0x10AD5451, 0x04D, .fnma g 5 .bf16 21 10 5 .rz),
  (0x10CD5450, 0x04D, .fmin g 5 .bf16 21 10 5),
  (0x10ED5450, 0x04D, .fmax g 5 .bf16 21 10 5),
  (0x110D5400, 0x04D, .fneg g 5 .bf16 21 10),
  (0x112D5400, 0x04D, .fabs g 5 .bf16 21 10),
  (0x114A5455, 0x04D, .fcmp g 5 .bf16 9 10 5 .ge),
  (0x116A54B0, 0x04D, .fclass g 5 .bf16 9 10 11),
  (0x118D5451, 0x04D, .iadd g 5 .n32 21 10 5 true),
  (0x11AD5451, 0x04D, .isub g 5 .n32 21 10 5 true),
  (0x11CD5450, 0x04D, .imul g 5 .n32 21 10 5),
  (0x11ED5450, 0x04D, .imulh g 5 .n32 21 10 5),
  (0x120D5450, 0x04D, .iand g 5 .n32 21 10 5),
  (0x122D5450, 0x04D, .ior g 5 .n32 21 10 5),
  (0x124D5450, 0x04D, .ixor g 5 .n32 21 10 5),
  (0x126D5450, 0x04D, .iandn g 5 .n32 21 10 5),
  (0x128D5450, 0x04D, .ishl g 5 .n32 21 10 5),
  (0x128D54B8, 0x04D, .ishlImm g 5 .n32 21 10 11),
  (0x12AD5450, 0x04D, .ishr g 5 .n32 21 10 5),
  (0x12AD54B8, 0x04D, .ishrImm g 5 .n32 21 10 11),
  (0x12CD5450, 0x04D, .isar g 5 .n32 21 10 5),
  (0x12CD54B8, 0x04D, .isarImm g 5 .n32 21 10 11),
  (0x12ED5450, 0x04D, .imin g 5 .n32 21 10 5),
  (0x130D5450, 0x04D, .imax g 5 .n32 21 10 5),
  (0x132A5455, 0x04D, .icmp g 5 .n32 9 10 5 .ge),
  (0x13455400, 0x04D, .vmov g 5 21 10),
  (0x13655450, 0x04D, .vsel g 5 21 10 5),
  (0x13854A01, 0x04D, .vbcast g 5 21 10 true),
  (0x13A55430, 0x04D, .vlane g 5 21 10 3),
  (0x13C54000, 0x04D, .vidx g 5 21)] = true := by decide +kernel

theorem test_words_vector_2 : reads [
  (0x13E55450, 0x04D, .vperm g 5 21 10 5),
  (0x140D5404, 0x04D, .vred g 5 (.imax .n32) 21 10),
  (0x14255430, 0x04D, .xg g 5 21 10 3),
  (0x144D5429, 0x04D, .cvt g 5 .e5m2 .f16 21 10 true false .rz),
  (0x14755409, 0x04D, .qnt g 5 .int4 .f32 21 10 true false .rz),
  (0x14855459, 0x04D, .dqnt g 5 .f32 .i32 21 10 true false .rz),
  (0x14B55403, 0x04D, .pack g 5 .b8 21 10 3),
  (0x14DD540B, 0x04D, .unpack g 5 .n4 21 10 3 true),
  (0x14E01200, 0x04D, .vskim g 5 9),
  (0x15024A00, 0x04D, .vbern g 5 9 10),
  (0x15254000, 0x04D, .vrand g 5 21),
  (0x154D6AAB, 0x04D, .vimm g 5 true 21 10923)] = true := by decide +kernel

theorem test_words_special : reads [
  (0x181AA800, 0x04D, .frcp g 5 .bf16 21 10),
  (0x185AA8A0, 0x04D, .fdiv g 5 .bf16 21 10 5),
  (0x189AA800, 0x04D, .fsqrt g 5 .bf16 21 10),
  (0x18DAA800, 0x04D, .frsqrt g 5 .bf16 21 10),
  (0x191AA800, 0x04D, .fexp2 g 5 .bf16 21 10),
  (0x195AA800, 0x04D, .flog2 g 5 .bf16 21 10)] = true := by decide +kernel

theorem test_words_memory : reads [
  (0x2015655D, 0x04D, .lds g 21 6 2731 5),
  (0x2055655D, 0x04D, .sts g 21 6 2731 5),
  (0x2095655D, 0x04D, .ldv g 5 21 6 171 5),
  (0x20D5655D, 0x04D, .stv g 5 21 6 171 5),
  (0x2115655D, 0x04D, .ldvq g 5 21 6 171 5),
  (0x2155655D, 0x04D, .stvq g 5 21 6 171 5),
  (0x21951558, 0x048, .ldsp g 21 683),
  (0x21D51558, 0x048, .stsp g 21 683),
  (0x22153E00, 0x04D, .ldvsp g 5 21 1984),
  (0x22550040, 0x04D, .stvsp g 5 21 8),
  (0x22956985, 0x04D, .ldx g 5 21 6 19 5),
  (0x22D56985, 0x04D, .stx g 5 21 6 19 5),
  (0x2315655D, 0x04D, .ldh g 21 6 2731 5),
  (0x2355655D, 0x04D, .sth g 21 6 2731 5),
  (0x238B2800, 0x048, .xlat g 11 10),
  (0x23CB0000, 0x048, .hinv g 11),
  (0x24000000, 0x048, .drain g)] = true := by decide +kernel

theorem test_words_branch : reads [
  (0x282AAAAB, 0x04D, .br g 23767723),
  (0x284A0000, 0x048, .brr g 10),
  (0x28AAAAAB, 0x04D, .call g 23767723),
  (0x28C00000, 0x048, .ret g),
  (0x2921555E, 0x000, .loop 2 5 683 true true),
  (0x29655AAF, 0x000, .loopi 2 171 171 true true),
  (0x29A00000, 0x048, .lbreak g 2),
  (0x29D00000, 0x000, .roll 0 256),
  (0x2A000000, 0x000, .yield),
  (0x2A400000, 0x000, .halt)] = true := by decide +kernel

theorem test_words_matrix : reads [
  (0x30D62CE0, 0x048, .mma g 13 6 5 2 .bf16 true false .none),
  (0x31D62D69, 0x048, .mmaz g 13 6 5 2 .i8 true true .g32),
  (0x30D68193, 0x048, .mmaDl g 13 6 16 .i8i4 false .g128),
  (0x31D68050, 0x048, .mmazDl g 13 6 16 .e5m2 false .none),
  (0x32060080, 0x048, .bld g 6 2),
  (0x33000000, 0x048, .bswap g),
  (0x342F8000, 0x048, .qpop g 2 31),
  (0x35280000, 0x048, .qadv g 2 16),
  (0x36200000, 0x048, .qrst g 2)] = true := by decide +kernel

theorem test_words_port : reads [
  (0x3952CA00, 0x04D, .accrd g 5 21 5 37),
  (0x3B52CA00, 0x04D, .accwr g 5 21 5 37),
  (0x3D52CA00, 0x04D, .accadd g 5 21 5 37),
  (0x3E02CA00, 0x04D, .accclr g 5 5 37)] = true := by decide +kernel

theorem test_words_copy : reads [
  (0x40800000, 0x048, .cp g 2),
  (0x41880000, 0x048, .cpq g 2 2),
  (0x42800000, 0x048, .tmv g 2),
  (0x43800000, 0x048, .cpfill g 2),
  (0x44800000, 0x048, .cpchain g 2),
  (0x45000000, 0x048, .cphalt g)] = true := by decide +kernel

theorem test_words_scatter : reads [
  (0x48ACC800, 0x04D, .saenq g 5 21 19 .add .i32),
  (0x49000000, 0x048, .sarun g 0),
  (0x4A000000, 0x048, .saflush g),
  (0x4B800000, 0x048, .sawin g 64)] = true := by decide +kernel

theorem test_words_link : reads [
  (0x50058000, 0x048, .send g 5 2),
  (0x51058000, 0x048, .put g 5 2),
  (0x52058000, 0x048, .recv g 5 2),
  (0x53058000, 0x048, .allred g 5 2),
  (0x54058000, 0x048, .agfwd g 5 2)] = true := by decide +kernel

theorem test_words_aggregate : reads [
  (0x58600000, 0x048, .agg g 6),
  (0x5C656000, 0x048, .aggq g 6 21 .cost)] = true := by decide +kernel

theorem test_words_ownership : reads [
  (0x60025000, 0x048, .tlend g 1 10),
  (0x60820000, 0x048, .tret g 1),
  (0x61026140, 0x048, .tsplit g 1 12 10),
  (0x61826000, 0x048, .tjoin g 1 12),
  (0x62025000, 0x048, .tshare g 1 10),
  (0x62825000, 0x048, .tunshare g 1 10),
  (0x6302A800, 0x048, .tprobe g 1 21),
  (0x63820000, 0x048, .tcleanKeep g 1),
  (0x63830000, 0x048, .tcleanZero g 1),
  (0x64005000, 0x048, .bkalloc g 5),
  (0x64005580, 0x048, .bkallocNamed g 5 1 1),
  (0x64805000, 0x048, .bkfree g 5)] = true := by decide +kernel

theorem test_words_scale : reads [
  (0x68CAB000, 0x048, .scld g 6 171),
  (0x6ACAB000, 0x048, .scldb g 6 171),
  (0x6C000000, 0x048, .zpclr g)] = true := by decide +kernel

theorem test_words_check : reads [
  (0x705AAAAB, 0x005, .sync 5 5941931),
  (0x708AAAAB, 0x005, .mark 5941931),
  (0x7100012C, 0x000, .hold 300),
  (0x71828500, 0x048, .ckeq g 10 5),
  (0x72028A00, 0x04D, .ckeqv g 5 10 5),
  (0x72828A00, 0x048, .ckeqp g 10 5),
  (0x7300AAAB, 0x048, .trap g 43691),
  (0x7380AAAB, 0x048, .brk g 43691),
  (0x743140AB, 0x04D, .wflag g 6 10 .ge 171),
  (0x74B149AB, 0x04D, .tflag g 9 6 10 .ge 171)] = true := by decide +kernel

/-- Words of the worked examples: add, fma, a loop, the constant of R98, an addi whose lend word gives X = 1, and slots of the
matrix-multiply program. -/
theorem test_words_of_examples : reads [
  (0x08208210, 0, .add .always 1 1 2 false),
  (0x10610220, 0, .fma .always 0 .f32 4 1 2 .rn),
  (0x0B628BE8, 1, .addi .always 5 5 1000),
  (0x2940C00E, 0, .loopi 0 24 3 true false),
  (0x8C60CDEF, 1, .movi .always 1 0x0CDEF),
  (0x8C8089AB, 3, .movhi .always 1 0x189AB),
  (0xA0852010, 0, .ldv .always 0 5 2 2 0),
  (0xB1233949, 0, .mmaz .always 2 3 7 0 .i8 false true .g32),
  (0xC1840000, 0, .cpq .always 2 1),
  (0xD0050000, 0, .send .always 5 0),
  (0xE1063880, 0, .tsplit .always 3 7 4),
  (0xF0124F80, 1, .sync 1 0x124F80)] = true := by decide +kernel

/-- Reasons of R43: a reserved class is 7 and an unlisted opcode 8; reserved bits and values 9; lend bits of a slot without a
predicate or an X field 10. -/
theorem test_rejected_words : rejects [
  (0x78000000, 0, 7), (0x0FE00000, 0, 8), (0x08208212, 0, 9), (0x10780220, 0, 9), (0x13210206, 0, 9),
  (0x0CA00030, 0, 9), (0x29C00000, 0, 9), (0x08208210, 1, 10), (0x29408006, 8, 10)] = true := by decide +kernel

/-- The stop bit is no part of the instruction (R38). -/
theorem test_stop_bit : reads [(0x88208210, 0, .add .always 1 1 2 false)] && stopBit 0x88208210 = true := by decide +kernel

/-! ## Well-formed instructions -/

/-- One ill-formed term for each check, refused; its neighbour at the bound accepted. -/
theorem test_ill_formed :
    [Instr.shli g 1 2 64, .shri g 1 2 64, .sari g 1 2 64, .rds g 1 6, .wrs g 1 0x28, .stgw g 1 { eng := 5, set := 0, word := 0 },
      .stgr g 1 { eng := 1, set := 2, word := 0 }, .gmsetReg g 0 1, .gmsetImm g 0 1, .amkLocation g 1 7 0, .amkRegister g 1 7 1 0,
      .amkRegister g 1 0 1 2, .cvt g 0 .f32 .int4 1 2 false false .rn, .cvt g 0 .f16 .f16 1 2 false false .rn,
      .cvt g 0 .f32 .f16 1 2 false true .rz, .qnt g 0 .int8 .i32 1 2 false false .rn, .qnt g 0 .int8 .f32 1 31 false false .rn,
      .dqnt g 0 .f32 .f32 1 2 false false .rn, .pack g 0 .h16 1 2 2, .pack g 0 .b8 1 2 4, .unpack g 0 .b8 1 2 0 true,
      .ldvq g 0 29 0 0 0, .stvq g 0 29 0 0 0, .ldvsp g 0 1 4, .stvsp g 0 1 1992, .loop 0 1 0 false false, .loopi 0 1 0 false false,
      .roll 0 0, .roll 0 257, .mma g 0 1 0 0 .i8 false false .none, .mmaz g 0 1 0 0 .f16 false true .none,
      .mmaDl g 0 1 17 .f16 false .none, .mmazDl g 0 1 0 .f16 false .g32, .qpop g 0 0, .qadv g 0 0, .sawin g 0, .sawin g 65].all
      (fun i => !i.wf) = true ∧
    [Instr.shli g 1 2 63, .shri g 1 2 63, .sari g 1 2 63, .rds g 1 0x7F, .wrs g 1 0x18, .stgw g 1 { eng := 4, set := 0, word := 7 },
      .stgr g 1 { eng := 1, set := 1, word := 0 }, .gmsetReg g 1 1, .gmsetImm g 7 1, .amkLocation g 1 0 127, .amkRegister g 1 6 1 2,
      .amkRegister g 1 0 1 0, .cvt g 0 .int4 .f32 1 2 false true .rn, .qnt g 0 .int4 .f32 1 30 false false .rz,
      .dqnt g 0 .f32 .i32 1 30 false false .rn, .pack g 0 .h16 1 2 1, .pack g 0 .b8 1 2 3, .pack g 0 .n4 1 2 7, .unpack g 0 .n4 1 2 7 true,
      .ldvq g 0 28 0 0 0, .stvq g 0 28 0 0 0, .ldvsp g 0 1 1984, .stvsp g 0 1 8, .loop 0 1 1 false false, .loopi 0 1 1 false false,
      .roll 0 1, .roll 0 256, .mma g 0 1 0 0 .i8 false true .g128, .mmaz g 0 1 0 0 .f16 false false .none,
      .mmaDl g 0 1 16 .f16 false .none, .mmazDl g 0 1 0 .i8i4 false .g32, .qpop g 0 1, .qadv g 0 1, .sawin g 1, .sawin g 64].all
      (fun i => i.wf) = true := by decide +kernel

/-- The digest of the three letters abc, from the examples that NIST publishes with FIPS 180-4. -/
theorem test_sha384_abc : (sha384 [0x61, 0x62, 0x63]).toNat =
    0xcb00753f45a35e8bb5a03d699ac65007272c32ab0eded1631a8b605a43ff5bed8086072ba1e7cc2358baeca134c825a7 := by decide +kernel

/-! ## One slot at a time -/

def ga : Gate := .always

/-- A running timetable context of core 0 that declares every capability bit, with values in some scalar registers. -/
def ctx0 (l : List (Nat × Word)) : Ctx :=
  { Ctx.reset 0 with
    st := .running, cfg := { CtxCfg.reset with usem := BitVec.allOnes 64 }
    regs := { Regs.reset with s := l.foldl (fun v t => v.setIfInBounds t.1 t.2) Regs.reset.s } }

def coreOn (x : Ctx) : Core := { Core.reset 0 with ctx := x }
def on (x : Ctx) : State := { State.reset with core := coreOn x }
def st (l : List (Nat × Word)) : State := on (ctx0 l)

/-- The same with vector registers, each the same word in every lane. -/
def vctx (l : List (Nat × W32)) : Ctx :=
  { ctx0 [] with regs := { Regs.reset with v := l.foldl (fun v t => v.setIfInBounds t.1 (Vector.replicate 128 t.2)) Regs.reset.v } }
def vs (l : List (Nat × W32)) : State := on (vctx l)

/-- What the first result in flight is, and its cycle. -/
def first (o : Out) : Option (Nat × Res) :=
  match o with
  | .next t => t.agenda.head?.bind fun d => match d.ev with
    | .registerResultLand l => some (d.cyc, l.res)
    | _ => none
  | _ => none

def scalarIs (o : Out) (c n : Nat) (v : Word) : Bool := first o == some (c, .s n v)

/-- A vector result that is due at cycle c, and its word in lane l. -/
def laneIs (o : Out) (c l : Nat) (v : W32) : Bool :=
  match first o with
  | some (c', .v _ m x) => c' == c && m.getLsbD l && x[l]? == some v
  | _ => false

/-- A predicate result with its bit in lane l. -/
def bitIs (o : Out) (c l : Nat) (v : Bool) : Bool :=
  match first o with
  | some (c', .p _ m x) => c' == c && m.getLsbD l && x.getLsbD l == v
  | _ => false

/-- A slot traps with this code. -/
def trapsWith (o : Out) (code : Nat) : Bool :=
  match o with
  | .next t => match t.core.ctx.status with
    | .trapped r => r.code == code
    | _ => false
  | _ => false

/-- What a slot leaves to its group's end. -/
def leaves (o : Out) (p : List Post) : Bool :=
  match o with
  | .next t => t.core.ctx.post == p
  | _ => false

/-- A fact about the next state. -/
def after (o : Out) (f : State → Bool) : Bool :=
  match o with
  | .next t => f t
  | _ => false

/-! Scalar unit (R93, R94, R95, R96, R97, R98). -/

theorem test_add_w_wraps : scalarIs (exec (.add ga 1 2 3 true) (st [(2, 0x7FFFFFFF), (3, 1)])) 1 1 0xFFFFFFFF80000000 = true := by decide +kernel
theorem test_add_carries : scalarIs (exec (.add ga 1 2 3 false) (st [(2, 0xFFFFFFFF), (3, 1)])) 1 1 0x100000000 = true := by decide +kernel
theorem test_sub_borrows : scalarIs (exec (.sub ga 1 2 3 false) (st [(2, 0), (3, 1)])) 1 1 0xFFFFFFFFFFFFFFFF = true := by decide +kernel
theorem test_s0_discards : after (exec (.add ga 0 2 3 false) (st [(2, 1)])) (fun t => t.agenda.isEmpty) = true := by decide +kernel
theorem test_mul_low : scalarIs (exec (.mul ga 1 2 3 false) (st [(2, 0x100000001), (3, 0x100000001)])) 3 1 0x200000001 = true := by decide +kernel
theorem test_mulh_signed : scalarIs (exec (.mulh ga 1 2 3 false) (st [(2, 0xFFFFFFFFFFFFFFFF), (3, 2)])) 3 1 0xFFFFFFFFFFFFFFFF = true := by decide +kernel
theorem test_mulhn_unsigned : scalarIs (exec (.mulhn ga 1 2 3 false) (st [(2, 0xFFFFFFFFFFFFFFFF), (3, 2)])) 3 1 1 = true := by decide +kernel
theorem test_div_truncates : scalarIs (exec (.div ga 1 2 3 false) (st [(2, 0xFFFFFFFFFFFFFFF9), (3, 2)])) 18 1 0xFFFFFFFFFFFFFFFD = true := by decide +kernel
theorem test_div_by_zero : scalarIs (exec (.div ga 1 2 3 true) (st [(2, 5)])) 18 1 0xFFFFFFFFFFFFFFFF = true := by decide +kernel
theorem test_divn_unsigned : scalarIs (exec (.divn ga 1 2 3 false) (st [(2, 0xFFFFFFFFFFFFFFFE), (3, 2)])) 18 1 0x7FFFFFFFFFFFFFFF = true := by decide +kernel
theorem test_rem_sign : scalarIs (exec (.rem ga 1 2 3 false) (st [(2, 0xFFFFFFFFFFFFFFF9), (3, 2)])) 18 1 0xFFFFFFFFFFFFFFFF = true := by decide +kernel
theorem test_rem_overflow : scalarIs (exec (.rem ga 1 2 3 false) (st [(2, 0x8000000000000000), (3, 0xFFFFFFFFFFFFFFFF)])) 18 1 0 = true := by decide +kernel
theorem test_remn_by_zero : scalarIs (exec (.remn ga 1 2 3 true) (st [(2, 0x80000005)])) 18 1 0xFFFFFFFF80000005 = true := by decide +kernel
theorem test_and_or_xor_andn :
    scalarIs (exec (.and ga 1 2 3 false) (st [(2, 0xC), (3, 0xA)])) 1 1 8 && scalarIs (exec (.or ga 1 2 3 false) (st [(2, 0xC), (3, 0xA)])) 1 1 14 &&
    scalarIs (exec (.xor ga 1 2 3 false) (st [(2, 0xC), (3, 0xA)])) 1 1 6 && scalarIs (exec (.andn ga 1 2 3 false) (st [(2, 0xC), (3, 0xA)])) 1 1 4 = true := by decide +kernel
theorem test_shl_count : scalarIs (exec (.shl ga 1 2 3 false) (st [(2, 1), (3, 0x41)])) 1 1 2 = true := by decide +kernel
theorem test_shr_w : scalarIs (exec (.shr ga 1 2 3 true) (st [(2, 0x180000000), (3, 31)])) 1 1 1 = true := by decide +kernel
theorem test_sar_w : scalarIs (exec (.sar ga 1 2 3 true) (st [(2, 0x80000000), (3, 32)])) 1 1 0xFFFFFFFF80000000 = true := by decide +kernel
theorem test_rotl_w : scalarIs (exec (.rotl ga 1 2 3 true) (st [(2, 0x80000001), (3, 1)])) 1 1 3 = true := by decide +kernel
theorem test_min_max :
    scalarIs (exec (.min ga 1 2 3 false) (st [(2, 0xFFFFFFFFFFFFFFFF), (3, 1)])) 1 1 0xFFFFFFFFFFFFFFFF &&
    scalarIs (exec (.max ga 1 2 3 false) (st [(2, 0xFFFFFFFFFFFFFFFF), (3, 1)])) 1 1 1 &&
    scalarIs (exec (.minn ga 1 2 3 false) (st [(2, 0xFFFFFFFFFFFFFFFF), (3, 1)])) 1 1 1 &&
    scalarIs (exec (.maxn ga 1 2 3 false) (st [(2, 0xFFFFFFFFFFFFFFFF), (3, 1)])) 1 1 0xFFFFFFFFFFFFFFFF = true := by decide +kernel
theorem test_clz_zero : scalarIs (exec (.clz ga 1 2 false) (st [])) 1 1 64 && scalarIs (exec (.clz ga 1 2 true) (st [(2, 0xFFFFFFFF00000001)])) 1 1 31 = true := by decide +kernel
theorem test_popc : scalarIs (exec (.popc ga 1 2 false) (st [(2, 0xF000000000000001)])) 1 1 5 = true := by decide +kernel
theorem test_mov_w : scalarIs (exec (.mov ga 1 2 true) (st [(2, 0x180000000)])) 1 1 0xFFFFFFFF80000000 = true := by decide +kernel
theorem test_cmp_ltn : bitIs (exec (.cmp ga 3 1 2 .ltn) (st [(1, 1), (2, 0xFFFFFFFFFFFFFFFF)])) 1 127 true && bitIs (exec (.cmp ga 3 1 2 .lt) (st [(1, 1), (2, 0xFFFFFFFFFFFFFFFF)])) 1 0 false = true := by decide +kernel
theorem test_cmpi_sign : bitIs (exec (.cmpi ga 3 1 0x1FF .eq) (st [(1, 0xFFFFFFFFFFFFFFFF)])) 1 64 true = true := by decide +kernel
theorem test_sel : scalarIs (exec (.sel { p := 0, neg := true } 1 2 3) (st [(2, 7), (3, 9)])) 1 1 9 = true := by decide +kernel
theorem test_addi_negative : scalarIs (exec (.addi ga 1 2 0xFFF) (st [(2, 5)])) 1 1 4 = true := by decide +kernel
theorem test_andi_zero_extends : scalarIs (exec (.andi ga 1 2 0xFFF) (st [(2, 0xFFFFFFFFFFFFFFFF)])) 1 1 0xFFF = true := by decide +kernel
theorem test_ori_xori : scalarIs (exec (.ori ga 1 2 0x800) (st [(2, 1)])) 1 1 0x801 && scalarIs (exec (.xori ga 1 2 3) (st [(2, 1)])) 1 1 2 = true := by decide +kernel
theorem test_shift_immediates :
    scalarIs (exec (.shli ga 1 2 63) (st [(2, 3)])) 1 1 0x8000000000000000 && scalarIs (exec (.shri ga 1 2 63) (st [(2, 0x8000000000000000)])) 1 1 1 &&
    scalarIs (exec (.sari ga 1 2 63) (st [(2, 0x8000000000000000)])) 1 1 0xFFFFFFFFFFFFFFFF = true := by decide +kernel
/-- The constants of R98's example: movi takes 0xCDEF, movhi puts 0x89AB at position 1. -/
theorem test_movi_movhi : scalarIs (exec (.movi ga 1 0x0CDEF) (st [])) 1 1 0xCDEF && scalarIs (exec (.movhi ga 1 0x189AB) (st [(1, 0xCDEF)])) 1 1 0x89ABCDEF = true := by decide +kernel
theorem test_movi_sign : scalarIs (exec (.movi ga 1 0x20000) (st [])) 1 1 0xFFFFFFFFFFFE0000 = true := by decide +kernel
theorem test_nop : after (exec (.nop ga) (st [])) (fun t => t.agenda.isEmpty && t.core.ctx.post.isEmpty) = true := by decide +kernel
theorem test_squashed : after (exec (.div { p := 0, neg := true } 1 2 3 false) (st [(2, 5)])) (fun t => t.agenda.isEmpty && t.core.ctx.post.isEmpty) = true := by decide +kernel
theorem test_wrs_permission : trapsWith (exec (.wrs ga 1 0) (st [])) 0x0203 = true := by decide +kernel
theorem test_gmset : leaves (exec (.gmsetImm ga 1 0x81) (st [])) [.gm 1 0x81] && leaves (exec (.gmsetReg ga 7 2) (st [(2, 0x1FF)])) [.gm 7 0xFF] = true := by decide +kernel
theorem test_stgw_stgr : leaves (exec (.stgw ga 2 { eng := 1, set := 1, word := 3 }) (st [(2, 9)])) [.stg { eng := 1, set := 1, word := 3 } 9] &&
    scalarIs (exec (.stgr ga 1 { eng := 0, set := 3, word := 7 }) (st [])) 1 1 0 = true := by decide +kernel
theorem test_amk_location : (first (exec (.amkLocation ga 2 0 0x1D) (st [])) == some (1, .a 2 { offset := 0x1D000, space := 0, index := 0 })) = true := by decide +kernel
theorem test_amk_register : (first (exec (.amkRegister ga 2 5 1 2) (st [(1, 0x100000040), (2, 0x407)])) == some (1, .a 2 { offset := 0x40, space := 5, index := 7 })) = true := by decide +kernel
theorem test_aadd : (first (exec (.aaddImm ga 2 3 0x7FFF) (st [])) == some (1, .a 2 { offset := 0xFFFFFFFF, space := 0, index := 0 })) = true := by decide +kernel

/-! Vector pipe (R105 to R109, R124 to R139). -/

theorem test_fadd : laneIs (exec (.fadd ga 0 .f32 1 2 3 .rn) (vs [(2, 0x3F800000), (3, 0x40000000)])) 4 127 0x40400000 = true := by decide +kernel
/-- 1 + 2⁻²⁴ is half way between 1 and its upper neighbour. -/
theorem test_fadd_rounds : laneIs (exec (.fadd ga 0 .f32 1 2 3 .rn) (vs [(2, 0x3F800000), (3, 0x33800000)])) 4 0 0x3F800000 &&
    laneIs (exec (.fadd ga 0 .f32 1 2 3 .rp) (vs [(2, 0x3F800000), (3, 0x33800000)])) 4 0 0x3F800001 = true := by decide +kernel
theorem test_fsub_zero_sign : laneIs (exec (.fsub ga 0 .f32 1 2 3 .rm) (vs [(2, 0x3F800000), (3, 0x3F800000)])) 4 0 0x80000000 = true := by decide +kernel
theorem test_fmul_bf16 : laneIs (exec (.fmul ga 0 .bf16 1 2 3 .rn) (vs [(2, 0x4000), (3, 0x4040)])) 4 5 0x40C0 = true := by decide +kernel
/-- 2 × 3 + 1, 2 × 3 − 1, 1 − 2 × 3. -/
theorem test_fma_forms :
    laneIs (exec (.fma ga 0 .f32 1 2 3 .rn) (vs [(1, 0x3F800000), (2, 0x40000000), (3, 0x40400000)])) 4 0 0x40E00000 &&
    laneIs (exec (.fms ga 0 .f32 1 2 3 .rn) (vs [(1, 0x3F800000), (2, 0x40000000), (3, 0x40400000)])) 4 0 0x40A00000 &&
    laneIs (exec (.fnma ga 0 .f32 1 2 3 .rn) (vs [(1, 0x3F800000), (2, 0x40000000), (3, 0x40400000)])) 4 0 0xC0A00000 = true := by decide +kernel
/-- A subnormal source is flushed in a timetable context (R109). -/
theorem test_fadd_flushes : laneIs (exec (.fadd ga 0 .f32 1 2 3 .rn) (vs [(2, 1), (3, 0)])) 4 0 0 = true := by decide +kernel
theorem test_fneg_fabs : laneIs (exec (.fneg ga 0 .f32 1 2) (vs [(2, 0x3F800000)])) 4 0 0xBF800000 && laneIs (exec (.fabs ga 0 .f16 1 2) (vs [(2, 0xBC00)])) 4 0 0x3C00 = true := by decide +kernel
theorem test_fcmp_nan : bitIs (exec (.fcmp ga 0 .f32 3 1 2 .un) (vs [(1, 0x7FC00000)])) 4 0 true && bitIs (exec (.fcmp ga 0 .f32 3 1 2 .ne) (vs [(1, 0x80000000)])) 4 0 false = true := by decide +kernel
theorem test_iadd_saturates : laneIs (exec (.iadd ga 0 .i32 1 2 3 true) (vs [(2, 0x7FFFFFFF), (3, 1)])) 2 0 0x7FFFFFFF &&
    laneIs (exec (.iadd ga 0 .i32 1 2 3 false) (vs [(2, 0x7FFFFFFF), (3, 1)])) 2 0 0x80000000 = true := by decide +kernel
theorem test_isub_n32_saturates : laneIs (exec (.isub ga 0 .n32 1 2 3 true) (vs [(2, 1), (3, 2)])) 2 0 0 = true := by decide +kernel
theorem test_imulh : laneIs (exec (.imulh ga 0 .n32 1 2 3) (vs [(2, 0xFFFFFFFF), (3, 2)])) 3 0 1 && laneIs (exec (.imulh ga 0 .i32 1 2 3) (vs [(2, 0xFFFFFFFF), (3, 2)])) 3 0 0xFFFFFFFF = true := by decide +kernel
theorem test_ishl_count : laneIs (exec (.ishl ga 0 .i32 1 2 3) (vs [(2, 1), (3, 33)])) 2 0 2 && laneIs (exec (.isarImm ga 0 .i32 1 2 31) (vs [(2, 0x80000000)])) 2 0 0xFFFFFFFF = true := by decide +kernel
theorem test_imin_formats : laneIs (exec (.imin ga 0 .i32 1 2 3) (vs [(2, 0xFFFFFFFF), (3, 1)])) 2 0 0xFFFFFFFF && laneIs (exec (.imax ga 0 .n32 1 2 3) (vs [(2, 0xFFFFFFFF), (3, 1)])) 2 0 0xFFFFFFFF = true := by decide +kernel
theorem test_icmp : bitIs (exec (.icmp ga 0 .n32 3 1 2 .lt) (vs [(1, 1), (2, 0xFFFFFFFF)])) 2 9 true && bitIs (exec (.icmp ga 0 .i32 3 1 2 .lt) (vs [(1, 1), (2, 0xFFFFFFFF)])) 2 9 false = true := by decide +kernel
theorem test_vidx_vimm : laneIs (exec (.vidx ga 0 1) (vs [])) 2 77 77 && laneIs (exec (.vimm ga 0 false 1 0x2000) (vs [])) 2 0 0xFFFFE000 &&
    laneIs (exec (.vimm ga 0 true 1 0x1) (vs [])) 2 0 0x40000 = true := by decide +kernel
theorem test_vbcast_hi : laneIs (exec (.vbcast ga 0 1 2 true) (st [(2, 0x500000006)])) 2 0 5 = true := by decide +kernel
/-- A group mask of one lane group: lanes of the others take no part (R119). -/
theorem test_group_mask : after (exec (.vmov ga 1 1 2) (on { vctx [] with regs := { (vctx []).regs with gm := Regs.reset.gm.set 1 0x02 } }))
    (fun t => match first (.next t) with
      | some (2, .v 1 m _) => m.getLsbD 16 && m.getLsbD 31 && !m.getLsbD 15 && !m.getLsbD 32
      | _ => false) = true := by decide +kernel
theorem test_pack_unpack : laneIs (exec (.pack ga 0 .b8 1 2 1) (vs [(1, 0x11223344), (2, 0xAB)])) 3 0 0x1122AB44 &&
    laneIs (exec (.unpack ga 0 .n4 1 2 7 true) (vs [(2, 0x80000000)])) 3 0 0xFFFFFFF8 = true := by decide +kernel
theorem test_cvt_saturates : laneIs (exec (.cvt ga 0 .int8 .f32 1 2 true false .rn) (vs [(2, 0x43960000)])) 3 0 0x7F = true := by decide +kernel
/-- 1 / 4, √9, 2³. -/
theorem test_special_functions : laneIs (exec (.frcp ga 0 .f32 1 2) (vs [(2, 0x40800000)])) 12 0 0x3E800000 &&
    laneIs (exec (.fsqrt ga 0 .f32 1 2) (vs [(2, 0x41100000)])) 12 0 0x40400000 && laneIs (exec (.fexp2 ga 0 .f32 1 2) (vs [(2, 0x40400000)])) 12 0 0x41000000 = true := by decide +kernel
theorem test_fdiv_by_zero : laneIs (exec (.fdiv ga 0 .f32 1 2 3) (vs [(2, 0xBF800000)])) 16 0 0xFF800000 = true := by decide +kernel

/-! Control and checks (R62, R72, R73, R74). -/

theorem test_br_target : leaves (exec (.br ga 0x1FFFFFF) (on { ctx0 [] with slotBundle := 7 })) [.xfer { left := 2, target := 6, call := false, brk := none }] = true := by decide +kernel
theorem test_br_not_taken : leaves (exec (.br { p := 0, neg := true } 3) (st [])) [] = true := by decide +kernel
theorem test_lbreak_no_loop : trapsWith (exec (.lbreak ga 0) (st [])) 0x0104 = true := by decide +kernel
theorem test_loop_position : trapsWith (exec (.loopi 0 3 1 false false) (on { ctx0 [] with endPos := 2 })) 0x0105 = true := by decide +kernel
theorem test_halt_yield : leaves (exec .halt (st [])) [.halt] && leaves (exec .yield (st [])) [] = true := by decide +kernel
theorem test_trap : leaves (exec (.trap ga 0x1234) (st [])) [.trapAfter ((st []).fault 0x0108 0 0x1234 0)] = true := by decide +kernel
theorem test_hold_too_long : trapsWith (exec (.hold 511) (on { ctx0 [] with flow := { Flow.reset with hold := some (1, 512) } })) 0x0202 = true := by decide +kernel
theorem test_sync_no_domain : trapsWith (exec (.sync 0 0) (st [])) 0x0101 = true := by decide +kernel
theorem test_tprobe_empty : scalarIs (exec (.tprobe ga 5 1) (st [])) 1 1 0 = true := by decide +kernel
theorem test_qpop_empty : trapsWith (exec (.qpop ga 0 1) { st [] with core := { coreOn (ctx0 []) with rings := Vector.replicate 16 { Ring.reset with size := 2 } } }) 0x0302 = true := by decide +kernel
theorem test_bkfree_closed : trapsWith (exec (.bkfree ga 3) (st [])) 0x0401 = true := by decide +kernel
theorem test_lds_unowned : trapsWith (exec (.lds ga 1 0 0 0) (st [])) 0x0501 = true := by decide +kernel
theorem test_undeclared_capability : trapsWith (exec (.mul ga 1 2 3 false) (on { ctx0 [] with cfg := CtxCfg.reset })) 0x0B02 = true := by decide +kernel

/-! ## States that meet the statements' hypotheses

One theorem for each statement that has hypotheses, one clause after another, at the bounds of their ranges. -/

/-- Core 0 whose context 0 holds trowels over the unit, cluster and die scratchpads and sixteen GDDR pages. -/
def held (sp n : Nat) : TEntry := { TEntry.empty with kind := 1, space := sp, count := n }
def owning (x : Ctx) : State :=
  { on x with core := { coreOn x with board := (((Core.reset 0).board.set 0 (held 0 128)).set 1 (held 2 128)).set 2 (held 4 16) } }
def addr (sp off idx : Nat) : AddrReg := { space := BitVec.ofNat 3 sp, offset := BitVec.ofNat 32 off, index := BitVec.ofNat 10 idx }
/-- A context with one address register in a0, in timetable or free mode, handle h1 valid for reads and writes of page 0. -/
def ax (a : AddrReg) (free : Bool) : Ctx :=
  { ctx0 [(1, 8)] with
    cfg := { (ctx0 []).cfg with free := free }
    regs := { (ctx0 [(1, 8)]).regs with a := Regs.reset.a.set 0 a, h := Regs.reset.h.set 1 7, gm := Regs.reset.gm.set 1 1 } }

theorem wit_DecodeOfEncode : (Instr.add g 21 10 5 true).wf = true ∧ encode (.add g 21 10 5 true) = some (0x082A9429, 0x048) := by decide +kernel
theorem wit_EncodeOfDecode : 0xFFFFFFFF < 2 ^ 32 ∧ 0x1FF < 2 ^ 9 ∧ reads [(0x8CA08110, 0x1F8, .rds { p := 31, neg := true } 1 34)] = true := by decide +kernel

def land0 : Landing := { core := 0, ctx := 0, res := .s 1 5, tag := 0, bay := 0, seq := 0, frame := none }

theorem wit_ResultsInFlight :
    ((st []).core.phys = land0.core ∧ (st []).core.ctx.id = land0.ctx) ∧ (st []).core.stopsNow (st []).now land0.ctx = false ∧ (63 : Fin 64) ≠ 0 ∧
    (1 : Fin 32) ≠ 0 := by decide +kernel

theorem wit_SquashedAndActive : squashed (.add { p := 0, neg := true } 1 2 3 false) (st []).core.ctx = true ∧ 127 < 128 := by decide +kernel

theorem wit_ScalarAddLogic_ScalarShiftsAndCounts_ScalarCompareSelect : (st []).core.ctx.gate0 ga = true ∧ (st []).capCheck (capBit 26) = .go := by decide +kernel

/-- ScalarDivide: B = 0; a divisor whose low word alone is 0; both low words non-zero; the signed overflow. -/
theorem wit_ScalarMultiplyDivide :
    (st []).core.ctx.rs 2 = 0 ∧ (low ((st [(2, 0x100000000)]).core.ctx.rs 2) = 0 ∧ (st [(2, 0x100000000)]).core.ctx.rs 2 ≠ 0) ∧
    (low ((st [(2, 1)]).core.ctx.rs 2) ≠ 0 ∧ (st [(2, 1)]).core.ctx.rs 2 ≠ 0) ∧
    ((st [(1, BitVec.intMin 64), (2, BitVec.allOnes 64)]).core.ctx.rs 1 = BitVec.intMin 64 ∧
      (st [(1, BitVec.intMin 64), (2, BitVec.allOnes 64)]).core.ctx.rs 2 = BitVec.allOnes 64) := by decide +kernel

theorem wit_ScalarImmediateAddress : (st []).core.ctx.gate0 ga = true ∧ (63 : BitVec 12).toNat ≤ 63 ∧ (0 : BitVec 12).toNat ≤ 63 := by decide +kernel

theorem wit_ScalarSpecial :
    (sregWritable 0x20 = true ∧ (0x20 : BitVec 12).toNat ≠ 0x14) ∧ (0x14 : BitVec 12).toNat = 0x14 ∧
    (sregWritable 0 = false ∧ (0 : BitVec 12).toNat ≠ 0x18) ∧
    ((0x18 : BitVec 12).toNat = 0x18 ∧ ({ st [] with hub := { Hub.reset with parts := Hub.reset.parts.set 0 { Part.reset with ctl := BitVec.ofNat 64 (2 ^ 18) } } }).finjCheck 0 = .go) ∧
    (7 : Fin 8) ≠ 0 := by decide +kernel

/-- Every vector slot: the capability bits it may need, over all lanes, and over one lane group; vsel's own condition; an
exchange from the last lane group. -/
theorem wit_VectorFloatArithmetic_SpecialFunctions_VectorInteger_VectorMoves :
    ([0, 16, 17, 18, 19, 20, 21, 22, 23, 24, 25, 28, 15].all fun k => (st []).core.ctx.active ga 0 ≠ 0 ∧
      (st []).capCheck ((if k = 0 then 0 else capBit k) ||| laneNeed ((st []).core.ctx.rgm 0)) = .go) = true ∧
    (FFmt.cap .f32 = capBit 16 ∨ (st []).capCheck (FFmt.cap .f32 ||| laneNeed 0xFF) = .go) ∧
    (groupLanes ((st []).core.ctx.rgm 0) ≠ 0 ∧ (st []).capCheck (laneNeed ((st []).core.ctx.rgm 0)) = .go) ∧
    ((on (ax (addr 0 0 0) false)).core.ctx.active ga 1 = 0xFFFF ∧ (on (ax (addr 0 0 0) false)).capCheck (laneNeed ((on (ax (addr 0 0 0) false)).core.ctx.rgm 1)) = .go) := by
  decide +kernel

/-- vskim: an active lane below 64, and active lanes from 64 on only. -/
theorem wit_VectorConvertReduceDraw :
    ((st []).core.ctx.active ga 0).setWidth 64 ≠ 0#64 ∧
    ((on { ctx0 [] with regs := { Regs.reset with gm := Regs.reset.gm.set 1 0xF0 } }).core.ctx.active ga 1 ≠ 0 ∧
      ((on { ctx0 [] with regs := { Regs.reset with gm := Regs.reset.gm.set 1 0xF0 } }).core.ctx.active ga 1).setWidth 64 = 0#64) := by decide +kernel

/-- Loads at the last doubleword of the unit scratchpad, in spill memory, and at the last of a page by a free context. -/
theorem wit_ScalarMemory_loads :
    (owning (ax (addr 0 0x7FFF8 0) false)).memCheck false [0, 1] 8 (addr 0 0x7FFF8 0) [(effOff (addr 0 0x7FFF8 0) 0 8, 8)] [] (some 0) = .go ∧
    (addr 0 0x7FFF8 0).space ≠ 1 ∧
    ((owning (ax (addr 1 0x3FF8 0) false)).memCheck false [0, 1] 8 (addr 1 0x3FF8 0) [(effOff (addr 1 0x3FF8 0) 0 8, 8)] [] (some 7) = .go ∧
      (addr 1 0x3FF8 0).space = 1 ∧ (owning (ax (addr 1 0x3FF8 0) false)).core.ctx.spillErr = []) ∧
    ((owning (ax (addr 4 0x1FFFF8 1) true)).memCheck false [4] 8 (addr 4 0x1FFFF8 1) [(effOff (addr 4 0x1FFFF8 1) 0 8, 8)] [] (some 1) = .go ∧
      (addr 4 0x1FFFF8 1).space ≠ 1) := by decide +kernel

theorem wit_ScalarMemory_stores :
    (let s := owning (ax (addr 0 0x7FFF8 0) false)
     s.memCheck true [0, 1] 8 (addr 0 0x7FFF8 0) [(effOff (addr 0 0x7FFF8 0) 0 8, 8)] (s.cellsOf 0 0 0x7FFF8 8 8) (some 0) = .go) ∧
    (let s := owning (ax (addr 1 0x3FF8 0) false)
     s.memCheck true [0, 1] 8 (addr 1 0x3FF8 0) [(effOff (addr 1 0x3FF8 0) 0 8, 8)] (s.cellsOf 1 0 0x3FF8 8 8) (some 0) = .go) ∧
    (let s := owning (ax (addr 4 0x1FFFF8 1) true)
     s.memCheck true [4] 8 (addr 4 0x1FFFF8 1) [(effOff (addr 4 0x1FFFF8 1) 0 8, 8)] (s.cellsOf 4 1 0x1FFFF8 8 8) (some 0) = .go) := by decide +kernel

theorem wit_VectorMemory_loads :
    let s := owning (ax (addr 0 0x400 0) false)
    (s.core.ctx.active ga 0 ≠ 0 ∧ s.capCheck (0 ||| laneNeed (s.core.ctx.rgm 0)) = .go) ∧
    s.memCheck false [0, 1] 64 (addr 0 0x400 0) (groupPieces (s.core.ctx.rgm 0) (effOff (addr 0 0x400 0) (-1) 64) 64) [] (some 0) = .go ∧
    s.memCheck false [0, 1] 64 (addr 0 0x400 0) (groupPieces (s.core.ctx.rgm 0) (effOff (addr 0 0x400 0) (-1) 256) 256) [] (some 0) = .go ∧
    s.memCheck false [0] 4 (addr 0 0x400 0) (lanePieces (s.core.ctx.rgm 1) (addr 0 0x400 0) (s.core.ctx.rv 3)) [] (some 0) = .go := by decide +kernel

theorem wit_VectorMemory_stores :
    let s := owning (ax (addr 0 0x400 0) false)
    let a := addr 0 0x400 0
    let am := s.core.ctx.active ga 1
    let cells := fun (q : Nat) => (List.range q).flatMap fun i =>
      s.laneCells 0 0 am (laneOff ((effOff a 0 (64 * q)).toNat + 64 * i) (64 * q)) (s.core.ctx.rv (3 + i))
    s.memCheck true [0, 1] 64 a (groupPieces (s.core.ctx.rgm 1) (effOff a 0 64) 64) (cells 1) (some 0) = .go ∧
    s.memCheck true [0, 1] 64 a (groupPieces (s.core.ctx.rgm 1) (effOff a 0 256) 256) (cells 4) (some 0) = .go ∧
    s.memCheck true [0] 4 a (lanePieces (s.core.ctx.rgm 1) a (s.core.ctx.rv 3)) (s.laneCells 0 0 am (fun l => a.offset.toNat + (lane (s.core.ctx.rv 3) l).toNat) (s.core.ctx.rv 3)) (some 0) = .go := by decide +kernel

theorem wit_GatedSpillHandles :
    (∀ x ∈ [((5 : Nat), (1 : Byte))], x.1 ≠ 4) ∧ [((5 : Nat), (1 : Byte))] = [] ++ (5, 1) :: [] ∧ (st []).core.ctx.spillErr = [] ∧
    (st []).core.ctx.acks = [] ∧ (on { ctx0 [] with acks := [(0, 0, 0)] }).core.ctx.acks ≠ [] := by decide +kernel

/-- A transfer on an all-true, an all-false and a mixed predicate; with and without one under way; a level just inside and just
outside the loops; a target at bundle 0. -/
theorem wit_Transfers :
    (st []).core.ctx.uniform ga = some true ∧ (st []).core.ctx.uniform { p := 0, neg := true } = some false ∧
    (on { ctx0 [] with regs := { Regs.reset with p := Regs.reset.p.set 1 1 } }).core.ctx.uniform { p := 1, neg := false } = none ∧
    (st []).core.ctx.flow.xfer = none ∧
    (on { ctx0 [] with flow := { Flow.reset with xfer := some { left := 1, target := 0, call := false, brk := none } } }).core.ctx.flow.xfer ≠ none ∧
    (0 ≤ ((st []).core.ctx.slotBundle : Int) + (0 : BitVec 25).toInt ∧ ((st []).core.ctx.slotBundle : Int) + (0xFFFFFF : BitVec 25).toInt < 2 ^ 64) ∧
    (0 : Fin 4).val < [Loop.mk false false 0 0 0].length ∧ [Loop.mk false false 0 0 0].length ≤ (1 : Fin 4).val := by decide +kernel

def rollWord : Word := 1
def rolling : Ctx := { ctx0 [] with staging := (Ctx.reset 0).staging.set 10 (((Vector.replicate 8 0).set 0 rollWord).set 1 2) }

theorem wit_LoopsRollsYieldHalt :
    ((st []).core.ctx.endPos = 3 ∧ (st []).core.ctx.regs.loops.length = (0 : Fin 4).val) ∧ (on { ctx0 [] with endPos := 2 }).core.ctx.endPos ≠ 3 ∧
    (st []).core.ctx.regs.loops.length ≠ (3 : Fin 4).val ∧
    ((on rolling).capCheck (capBit 31) = .go ∧ (rollOf rolling 0 1 1).isSome = true ∧ rollContent rolling.istore 1 1 = false) ∧
    (ax (addr 0 0 0) true).cfg.free = true ∧ (ctx0 []).cfg.free = false := by decide +kernel

/-- Rings: q0 with two tiles of four, q1 empty, q2 with a reservation. -/
def ring (t p : Nat) : Ring := { Ring.reset with size := 4, tail := BitVec.ofNat 16 t, pr := BitVec.ofNat 16 p }
def ringed (x : Ctx) : State :=
  { owning x with core := { (owning x).core with
      rings := (((Vector.replicate 16 Ring.reset).set 0 (ring 2 0)).set 1 (ring 0 0)).set 2 { ring 0 1 with base := 0x40000, resv := [{ id := 0, ctx := 0, bay := 0, landed := false }] }
      banks := (Core.reset 0).banks.set 5 (bankWordOf 0 0 0)
      roles := { WeightRoles.reset with live := false, tag0 := some 1 } } }

theorem wit_RingSlots :
    let s := ringed (ctx0 [])
    s.declared 0 0 = .go ∧ (2 ≤ ringOcc (s.ring 0) ∧ ringOcc (s.ring 0) < 3) ∧
    (let b := s.ringBefore 0
     b.pr = 0 ∧ (b.tail + 2#16 - b.hr).toNat ≤ b.size.toNat ∧ 2 ≤ b.size.toNat) ∧
    ((s.ringBefore 2).pr ≠ 0 ∧ s.declared 0 2 = .go) ∧ s.busySlots s.core 0 = [] ∧ (ax (addr 0 0 0) true).cfg.free = true := by decide +kernel

theorem wit_WeightScaleSlots :
    let s := ringed (ctx0 [])
    s.bldCheck 0 = .go ∧ (s.core.roles.pending = false ∧ ∀ d ∈ s.agenda, isBld s.core.phys d.ev = false) ∧
    ({ s with core := { s.core with roles := { s.core.roles with pending := true } } }).core.roles.pending = true ∧
    s.memCheck false [0] 64 (addr 0 0 0) [(effOff (addr 0 0 0) 0 64, 2048)] [] none = .go ∧
    s.memCheck false [0] 64 (addr 0 0 0) [(effOff (addr 0 0 0) 0 64, 16384)] [] none = .go := by decide +kernel

theorem wit_MatrixSlots :
    let s := ringed (ctx0 [])
    s.capCheck (mmaNeed .bf16 true false) = .go ∧ s.accCheck 1 5 true (mmaRows 3 true) = .go ∧ s.mmaCheck 0 1 = .go ∧
    s.capCheck (mmaNeed .i8i4 false true) = .go := by decide +kernel

theorem wit_PortBankSlots :
    let s := ringed (ctx0 [])
    s.underWay (landsInto s.core.phys 5 (· == 63)) = false ∧ s.accCheck 0 5 false [63] = .go ∧ s.accCheck 0 5 true [63] = .go ∧
    ((s.core.bankWord 6).toNat % 4 = 0 ∧ (s.core.bankWord 5).toNat % 4 ≠ 0) ∧ (bankOpen (s.core.bankWord 5) = true ∧ (s.core.bankWord 5).toNat / 4 % 4 = 0) ∧
    s.underWay (fun i => landsInto s.core.phys 5 (fun _ => true) i || portInto s.core.phys 5 i) = false ∧ bankOpen (s.core.bankWord 6) = false := by decide +kernel

/-! Memory slots (R156, R157): an access over the trowel of entry 0; the word little-endian; the offset of a scalar form
counts 8 bytes; a load sees the context's own gated bytes (R148). -/

def own1 (l : List (Nat × Word)) (m : Memory) : State := { owning (ctx0 l) with mem := m }
theorem test_lds_word : scalarIs (exec (.lds ga 1 0 2 0) (own1 [] (writeRun [] 16 [1, 2, 3, 4, 5, 6, 7, 0x88]))) 5 1 0x8807060504030201 = true := by decide +kernel
theorem test_sts_gated : after (exec (.sts ga 2 0 1 0) (own1 [(2, 0x1122334455667788)] [])) (fun t => t.mem == [] &&
    t.core.ctx.post == [.gate [(8, 0x88), (9, 0x77), (10, 0x66), (11, 0x55), (12, 0x44), (13, 0x33), (14, 0x22), (15, 0x11)] [{ sector := 0, bundle := 0, scyc := 0, key := none }]]) = true := by decide +kernel
theorem test_lds_own_gate : scalarIs (exec (.lds ga 1 0 0 0) (own1 [] [] |> fun s => { s with core := { s.core with ctx := { s.core.ctx with gate := [(1, 0xAB)] } } })) 5 1 0xAB00 = true := by decide +kernel
theorem test_ldsp : scalarIs (exec (.ldsp ga 1 0x7FF) (on { ctx0 [] with spill := writeRun [] (8 * 0x7FF) [9] })) 1 1 9 = true := by decide +kernel

/-! Engines, links and aggregation. -/

/-- A staging set of up to eight words, at its place among the thirteen. -/
def words (l : List Word) : Vector Word 8 := l.zipIdx.foldl (fun v t => v.setIfInBounds t.2 t.1) (Vector.replicate 8 0)
def staged (l : List (Nat × List Word)) : Ctx :=
  { ctx0 [(1, 8)] with staging := l.foldl (fun v t => v.setIfInBounds t.1 (words t.2)) (Ctx.reset 0).staging }
/-- A unit-scratchpad address word, and one of a grant's region. -/
def uw (off : Nat) : Word := BitVec.ofNat 64 off
def gw (n off : Nat) : Word := BitVec.ofNat 64 (off + 6 * 2 ^ 32 + n * 2 ^ 35)

/-- cp, tmv, cpfill and cpq of the least and the greatest size; a chain from the last sector it may start in. -/
def copyState : State :=
  { ringed (staged [(0, [uw 0x40000, uw 0x50000, BitVec.ofNat 64 (64 + 2 ^ 17), 0, 0, 0, 7]), (1, [uw 0x40000, uw 0x48000, BitVec.ofNat 64 (2 ^ 17)]),
      (2, [0, uw 0x60000, BitVec.ofNat 64 (65536 + 2 ^ 17), 0, 0, 0xFFFFFFFF]), (3, [uw 0x44000, 0, BitVec.ofNat 64 (16384 + 2 ^ 17)])]) with now := 100 }

theorem wit_CopySlots :
    let s := copyState
    let w := fun n => s.core.ctx.stagedSet 0 n
    s.core.ctx.gate0 ga = true ∧ s.capCheck (capBit 27) = .go ∧ s.copySteps .cp (w 0) (specOf .cp (w 0)) = .go ∧
    s.copySteps .tmv (w 1) (specOf .tmv (w 1)) = .go ∧ s.copySteps .cpfill (w 2) (specOf .cpfill (w 2)) = .go ∧ s.copyRoom = .go ∧
    s.canReserve 2 1 = .go ∧ s.copySteps .cpq (w 3) (specOf .cpq (w 3)) = .go ∧
    s.own 2 true true 0 0 ((s.ring 1).tileOff (ringNext (s.ring 1))) 16384 = .go := by decide +kernel

theorem wit_ChainSlot :
    let s := ringed (staged [(0, [uw 0x7FFC0, 0, 0, 0, 0, 0, 7])])
    let w := s.core.ctx.stagedSet 0 0
    (zeroAbove 45 (w 0) && zeroAbove 3 (w 6) && [1, 2, 3, 4, 5, 7].all fun i => w i == 0) = true ∧ (addrOf (w 0)).space = 0 ∧
    (addrOf (w 0)).offset.toNat % 64 = 0 ∧ s.inRange 2 false 0 0 0x7FFC0 64 false = .go ∧ s.copyRoom = .go := by decide +kernel

/-- One entry over a target of one element, and a count of none, which no sarun may have. -/
theorem wit_ScatterSlots :
    let s := ringed (staged [(4, [uw 0x40000, 1, uw 0x41000, uw 0x42000, 1])])
    let w := s.core.ctx.stagedSet 1 0
    s.capCheck (capBit 28) = .go ∧ sarunOk w = true ∧
    s.saSides [saTargetSide w, (false, addrOf (w 2), 4 * saCount w, 64), (false, addrOf (w 3), 4 * saCount w, 64)] = .go ∧ s.saRoom = .go ∧
    sarunOk (s.core.ctx.stagedSet 1 1) = false ∧ saTargetOk w = true ∧ s.saSides [saTargetSide w] = .go ∧
    s.core.ctx.active ga 0 ≠ 0 ∧ s.core.ctx.enq.length + (postedEnq s.core.ctx.post).length + 128 ≤ 1024 := by decide +kernel

def chan (n : Nat) (k : LinkOp) (shape : Nat) : ChanRec :=
  { decl := { ch := n, kind := k, lcore := 0, peerChip := 1, peerLcore := 0, grant := 0, depth := 32, shape := shape, fmt := 0, flags := none,
              order := [(0, 0), (1, 0)], op := .add, dom := none }
    gen := 0, loaded := true, heldUntil := 0, sends := 0, puts := 0, arms := 0, far := [], early := [], stale := 0, out := [], pumping := false }
def grant0 : Grant := { valid := true, rw := true, side := true, chip := 1, ppart := 0, key := 0, gen := 0, space := 0, loc := 0, count := 16, peer := 0 }
def noCmd : Cmd := { part := 0, queue := 0, words := List.replicate 8 0, begun := false, mark := 0 }
def launch0 : Launch := { tag := 0, cmd := noCmd, urgent := false, start := 0, running := true, members := [(0, 0, 0)], masks := [(18, 1)], lines := [], chans := [0, 1, 255], fixed := [], ending := false, yields := none }
def part0 : Part := { Part.reset with ctl := BitVec.ofNat 64 (2 ^ 27 + 3 * 2 ^ 19 + 2 ^ 16 + 1), grants := [grant0], launches := [launch0],
                                      chans := [chan 0 .send 64, chan 1 .allred 65536, chan 255 .agfwd 16384] }
def withPart (p : Part) (s : State) : State := { s with hub := { s.hub with parts := s.hub.parts.set 0 p } }
def linkState : State :=
  withPart part0 (ringed (staged [(6, [uw 0x40000, 0, 64]), (7, [uw 0x40000, gw 0 0, 64]), (8, [0, uw 0x50000, 64, 8]),
    (9, [uw 0x40000, uw 0x50000, 65536, 0])]))
def linkState2 : State := withPart part0 (ringed (staged [(6, [uw 0x40000, 0, BitVec.ofNat 64 (16384 + 2 ^ 17), 65532])]))

/-- No port is the way to any chip. -/
theorem noRoute {s : State} (h : s.hub.route = Vector.replicate 512 0) (r : Nat) : s.portFor r = none := by
  have e : s.hub.route[r % 512]? = some 0 := by
    rw [h, Vector.getElem?_eq_getElem (Nat.mod_lt _ (by decide)), Vector.getElem_replicate]
  simp only [State.portFor, e]
  rfl

/-- Each of the five slots, at the least and the greatest length. -/
theorem wit_LinkSlots :
    let s := linkState
    let w := fun n => s.core.ctx.stagedSet 2 n
    s.capCheck (capBit 29) = .go ∧ s.chan s.core.partNo 0 = some (chan 0 .send 64) ∧ s.linkCheck .send 0 (w 0) = .go ∧ s.linkCheck .put 0 (w 1) = .go ∧
    s.linkCheck .recv 0 (w 2) = .go ∧ s.chan s.core.partNo 1 = some (chan 1 .allred 65536) ∧ s.linkCheck .allred 1 (w 3) = .go ∧
    linkState2.chan 0 255 = some (chan 255 .agfwd 16384) ∧ linkState2.linkCheck .agfwd 255 (linkState2.core.ctx.stagedSet 2 0) = .go := by
  simp only [State.linkCheck, State.linkPlaces, State.linkPath, noRoute (s := linkState) rfl, noRoute (s := linkState2) rfl]
  decide +kernel

/-- A valid group of one member, owner 3 of partition 0 of chip 0, one element. -/
def group0 : Group := { Group.reset with w0 := BitVec.ofNat 64 (1 + 4 * 2 ^ 15 + 2 ^ 24 + 2 ^ 47), w1 := 1, mem := Group.reset.mem.set 0 3 }
def aggState : State :=
  let s := withPart part0 (ringed (staged [(12, [uw 0x40000, uw 0x50000])]))
  { s with hub := { s.hub with groups := s.hub.groups.set 7 group0 } }

theorem wit_AggregateSlots :
    let s := aggState
    s.capCheck (capBit 30) = .go ∧ s.aggCheck 7 (s.core.ctx.stagedSet 4 0) = .go ∧
    s.failing (s.keyOf 0 0) (unitBase 0 + 0x40000) ((s.group 7).elems * contribBytes 0) = [] ∧ (s.memberIdx s.core.partNo 7).isSome = true ∧
    (s.memberIdx s.core.partNo 63).isSome = false := by decide +kernel

/-! Ownership and checks. -/

/-- Entry 0 of eight granules and entry 1 of the next eight, entry 2 a swatch, entry 3 stale; records for them. -/
def tent (k st loc n gen : Nat) : TEntry := { TEntry.empty with kind := k, state := st, loc := loc, count := n, gen := gen }
def trec (loc n gen t : Nat) : TRec := { TRec.free with loc := loc, count := n, gen := gen, holder := .board 0 t }
def boardState (x : Ctx) : State :=
  let s := withPart { part0 with trowels := [trec 0 8 4 0, trec 8 8 5 1, trec 16 1 6 3] } (on x)
  { s with core := { s.core with board :=
      ((((Core.reset 0).board.set 0 (tent 1 0 0 8 4)).set 1 (tent 1 0 8 8 5)).set 2 (tent 2 0 32 1 0)).set 3 (tent 1 0 16 1 7) } }
/-- Descriptors: context 1 of this core at entry 63; the copy engine at entry 62; grant 0 with flag 1. -/
def toCtx1 : Word := BitVec.ofNat 64 (4 + 63 * 2 ^ 10)
def toCopy : Word := BitVec.ofNat 64 (1 + 62 * 2 ^ 10)
def toFar : Word := BitVec.ofNat 64 (2 + 2 ^ 26)

theorem wit_LendShareSlots :
    let s := boardState (ctx0 [(1, toCtx1), (2, toCopy), (3, toFar)])
    (s.lendCheck 0 (s.core.ctx.rs 1) = .go ∧ (targetOf (s.core.ctx.rs 1)).kind ≠ 2) ∧ s.lendCheck 0 (s.core.ctx.rs 2) = .go ∧
    (s.lendCheck 0 (s.core.ctx.rs 3) = .go ∧ (targetOf (s.core.ctx.rs 3)).kind = 2) ∧ s.retStale 3 = true ∧
    (s.retStale 2 = false ∧ (s.entryCheck 2 fun e => e.kind == 2 || (e.kind == 1 && (e.state == 0 || e.state == 4))) = .go ∧ (s.entry 2).kind = 2) ∧
    (s.retStale 0 = false ∧ (s.entryCheck 0 fun e => e.kind == 2 || (e.kind == 1 && (e.state == 0 || e.state == 4))) = .go ∧ (s.entry 0).kind ≠ 2) ∧
    (s.entryCheck 0 heldTrowel = .go ∧ (s.entry 0).swatch ≠ 255 ∧ (targetOf toCtx1).kind = 0 ∧ s.targetNamed (targetOf toCtx1) = true ∧
      s.targetFree (targetOf toCtx1) = true) := by decide +kernel

/-- A split at the first and the last granule; a join of neighbours; an entry that serves nobody, and a stale one. -/
theorem wit_SplitJoinCleanSlots :
    let s := boardState (ctx0 [(1, 1), (2, 7)])
    (s.serves (s.entry 63) = false) ∧ (s.serves (s.entry 3) = true ∧ (s.partAt s.core.partNo).staleEntry (s.entry 3) = true) ∧
    s.entryCheck 0 heldTrowel = .go ∧
    ((0 : Fin 64) ≠ 63 ∧ (s.entry 0).swatch = 0 ∧ 1 ≤ (s.core.ctx.rs 1).toNat ∧ (s.core.ctx.rs 2).toNat < (s.entry 0).count ∧ (s.entry 63).kind = 0 ∧
      s.core.reserved.contains 63 = false ∧ ((s.partAt s.core.partNo).trowels.filter fun r => r.count != 0).length < Config.trowelRecords) ∧
    ((0 : Fin 64) ≠ 1 ∧ s.entryCheck 1 heldTrowel = .go ∧ (s.entry 1).swatch = 0 ∧ adjacent (s.entry 0) (s.entry 1) = true ∧
      (s.entry 0).taint = (s.entry 1).taint) := by decide +kernel

theorem wit_SyncMarkHold :
    (({ Regs.reset with dm := Regs.reset.dm.set 7 0x1F } : Regs).dm[7]).getLsbD 4 = true ∧ (Regs.reset.dm[7]).getLsbD 4 = false ∧
    (ax (addr 0 0 0) true).cfg.free = true ∧ (ctx0 []).cfg.free = false ∧ (ctx0 []).flow.hold = none ∧
    (1 < (511 : BitVec 9).toNat + 1 ∧ 512 < 1 + (511 : BitVec 9).toNat + 1) := by decide +kernel

/-- Equal and unequal registers in every active lane and in none; a gate with lanes; debug on and off; a flag that holds and
one that does not, in a scratchpad and in spill memory. -/
theorem wit_CheckSlots :
    ((st [(1, 8), (2, 8)]).core.ctx.rs 1 = (st [(1, 8), (2, 8)]).core.ctx.rs 2 ∧ (st [(1, 8)]).core.ctx.rs 1 ≠ (st [(1, 8)]).core.ctx.rs 2) ∧
    (∀ l, l < 128 → ((vs []).core.ctx.active ga 0).getLsbD l = true → lane ((vs []).core.ctx.rv 1) l = lane ((vs []).core.ctx.rv 2) l) ∧
    (127 < 128 ∧ ((vs [(1, 5)]).core.ctx.active ga 0).getLsbD 127 = true ∧ lane ((vs [(1, 5)]).core.ctx.rv 1) 127 ≠ lane ((vs [(1, 5)]).core.ctx.rv 2) 127) ∧
    ((st []).core.ctx.gateLanes ga ≠ 0 ∧ ((st []).core.ctx.rp 1 ^^^ (st []).core.ctx.rp 2) &&& (st []).core.ctx.gateLanes ga = 0 ∧
      ((st []).core.ctx.rp 0 ^^^ (st []).core.ctx.rp 2) &&& (st []).core.ctx.gateLanes ga ≠ 0) ∧
    (((Core.reset 0).dblk.dbg.getLsbD 0 = false) ∧ ({ (Core.reset 0).dblk with dbg := 1 } : DebugBlock).dbg.getLsbD 0 = true) ∧
    (let s := owning (ax (addr 0 0x7F800 0) false)
     s.flagCheck 0 255 = .go ∧ condHolds .eq (s.flagWord 0 255) (s.core.ctx.rs 0) = true ∧ condHolds .eq (s.flagWord 0 255) (s.core.ctx.rs 1) = false ∧
       (s.core.ctx.ra 0).space ≠ 1) ∧
    (let s := owning (ax (addr 1 0 0) false)
     s.flagCheck 0 0 = .go ∧ s.core.ctx.spillErr = []) := by decide +kernel

/-! Events. -/

def inState (k : CtxState) (x : Ctx) : Ctx := { x with st := k }
def loop1 : Loop := { rot := true, ilk := false, first := 0, last := 3, exit := 0 }
def roll1 : Roll := { first := 1, length := 1, groups := 1, lead := 0, trail := 0, useSkim := false, levels := [], g := 0, skip := false }

theorem wit_ContextStarts :
    ((on (ctx0 [])).coreAt 0).phys = 0 ∧ ((on (ctx0 [])).ctxAt 0 0).id = 0 ∧ ((on (ctx0 [])).ctxAt 0 3).id = 3 ∧
    (let s := on (inState .loaded (ctx0 []))
     (s.ctxAt 0 0).st = .loaded ∧ (s.ctxAt 0 0).cfg.free = false ∧ (s.coreAt 0).timetabled = false) ∧
    ((on (ctx0 [])).coreAt 0).timetabled = true ∧ ((on (ctx0 [])).ctxAt 0 3).st ≠ .loaded ∧
    (let s := withPart part0 (on (inState .loaded (ax (addr 0 0 0) true)))
     (s.ctxAt 0 0).st = .loaded ∧ (s.ctxAt 0 0).cfg.free = true ∧ (s.launchOf (s.coreAt 0) (s.ctxAt 0 0)).map (·.running) = some true) ∧
    (let s := on (ax (addr 0 0 0) true)
     (s.ctxAt 0 0).cfg.free = true ∧ (s.ctxAt 0 0).st = .running ∧ ((s.coreAt 0).switch.from_ + 1) % 4 = 0) := by decide +kernel

theorem wit_ContextStops :
    ((on (inState .stopping (ctx0 []))).ctxAt 0 0).st = .stopping ∧
    (let x := (on (inState .stopped (ctx0 []))).ctxAt 0 0
     x.cfg.free = false ∧ ((on (inState .stopped (ctx0 []))).coreAt 0).taken 0 = false ∧ x.flow.sync = none ∧ x.bay.redo = false ∧ x.st = .stopped ∧ 0 + (x.flow.stopB - x.flow.stopAt.getD x.flow.stopB) ≤ 0) ∧
    (let x := (on (inState .debug (ctx0 []))).ctxAt 0 0
     x.cfg.free = false ∧ ((on (inState .debug (ctx0 []))).coreAt 0).taken 0 = false ∧ x.flow.sync = none ∧ x.bay.redo = false ∧ x.st = .debug) ∧
    (let x : Ctx := { ctx0 [] with bay := { Bay.reset with redo := true } }
     x.stopped = false ∧ x.bay.redo = true) := by decide +kernel

theorem wit_StreamEvents :
    let x := (on (ctx0 [])).ctxAt 0 0
    let y := (on { ctx0 [] with flow := { Flow.reset with roll := some roll1, ilkExit := some 1 } }).ctxAt 0 0
    (x.flow.snag = none ∧ x.regs.loops = [] ∧ x.flow.ilkExit = none) ∧ (y.flow.roll = some roll1 ∧ y.flow.ilkExit = some 1 ∧ (0 : Nat) + 1 ≤ 1) := by decide +kernel

/-- A cluster line of partition 1, whose one core is core 0: waiting, completed with G = 10, and at its limit. -/
def wait0 (gc : Option Nat) : SyncWait := { line := 12, scope := 0, domain := 1, due := 9, at_ := 8, bundle := 0, g := gc }
def syncing (gc : Option Nat) (now : Nat) : State :=
  let x : Ctx := { ctx0 [] with flow := { Flow.reset with sync := some (wait0 gc) }, cfg := { (ctx0 []).cfg with slack := 1 } }
  { on x with now := now, core := { coreOn x with part := 1 } }

theorem wit_PlumbEvents :
    (let s := syncing none 9
     let ws := s.waiters 1 12 0
     ws ≠ [] ∧ s.lineFull 1 12 0 = true ∧ (∀ m ∈ ws, m.2.1.stopped = false) ∧
       (∀ m ∈ ws, m.2.1.cfg.free = false → resumeCycle ws - (leastDue ws).getD (resumeCycle ws) ≤ m.2.1.cfg.slack.toNat)) ∧
    (let s := syncing (some 10) 10
     s.lineCores 1 12 0 = [s.coreAt 0] ∧ (s.coreAt 0).ctxs = s.ctxAt 0 0 :: s.core.rest ∧ (∀ y ∈ s.core.rest, y.flow.sync = none) ∧
       (s.ctxAt 0 0).flow.sync = some (wait0 (some 10)) ∧ (s.ctxAt 0 0).stopped = false ∧ (s.ctxAt 0 0).cfg.free = false) ∧
    ((syncing none 10).waiters 1 12 0 = [(0, (syncing none 10).ctxAt 0 0, wait0 none)] ∧ 10 < 9 + 1 + 1 ∧ (9 : Nat) + 1 + 1 ≤ 11) := by decide +kernel

def row0 : RowLand := { core := 0, ctx := 0, bank := 5, row := 63, acc := true, t := [], flip := none, fmt := 0, bay := 0 }
def bld0 : BldLand := { core := 0, ctx := 0, ring := 0, idx := 0, slice := 7, bytes := [], bay := 0 }
def port0 (k : PortKind) : PortOp := { core := 0, ctx := 0, kind := k, bank := 5, row := 63, mask := 1, unit := 0, seq := 0, bay := 0, late := 2 }

theorem wit_ArrayLandings :
    let s := ringed (ctx0 [])
    (((s.coreAt 0).phys = 0 ∧ (s.ctxAt 0 0).id = 0) ∧ (s.coreAt 0).stopsNow s.now 0 = false ∧
      ((on { ctx0 [] with flow := { Flow.reset with stopAt := some 0 } }).coreAt 0).stopsNow 0 0 = true) ∧
    ((s.coreAt 0).phys = 0 ∧ row0.flip = none ∧ bld0.slice < 8) ∧
    (let t := { s with core := { s.core with roles := { s.core.roles with pending := true } } }
     (t.coreAt 0).roles.pending = true ∧ (t.coreAt 0).arrayUntil ≤ t.now) ∧
    ((port0 (.wr Lanes.zero)).kind = .wr Lanes.zero ∧ (port0 .clr).kind = .clr ∧ (port0 (.rd 1)).kind = .rd 1 ∧ (s.ctxAt 0 0).stopped = false) := by decide +kernel

def cmd0 : CopyCmd :=
  { core := 0, ctx := 0, op := .cp, runs := [{ addr := 64, bytes := [1] }], marks := [], recs := [], src := [], dkey := none, ring := none, ac := 0, bay := 0,
    rTerm := 0, dTerm := 0, wTerm := 0, xfer := 1, mask := none, bundle := 0, issue := 0, start := 0, stream := 0, release := 0, chained := false }
def sa0 (v : W32) (c : Nat) : SaEntry := { idx := 3, val := v, op := .add, ty := .i32, base := 0x1000, tlen := 4, ctx := c, issue := 0, bundle := 0, scyc := 0 }
def sacmd (n : Nat) : SaCmd :=
  { core := 0, ctx := 0, entries := [sa0 1 0], flush := false, win := none, ac := 0, bundle := 0, scyc := 0, issue := 0, start := 0, stream := 0, release := 0, dropped := n, firstDropped := 4 }

theorem wit_EngineEvents :
    let s := on (ctx0 [])
    let q : State := { s with core := { s.core with copy := { s.core.copy with queue := [.inl cmd0] } } }
    let w : State := { s with core := { s.core with sa := { s.core.sa with window := [sa0 2 0], w := 1 } } }
    (q.chainOf 0 = none ∧ (q.coreAt 0).copy.queue = .inl cmd0 :: [] ∧ cmd0.core = 0 ∧ (q.coreAt 0).pauses cmd0.ctx = false ∧ q.copyAwaited 0 = false ∧
      max (q.coreAt 0).copy.streamEnd cmd0.start ≤ q.now ∧ q.heldByMove (queuedFrames (.inl cmd0)) = false) ∧
    ((∀ r ∈ cmd0.runs, 63 < r.addr ∨ r.addr + r.bytes.length ≤ 63) ∧ (∀ r ∈ cmd0.runs, 65 < r.addr ∨ r.addr + r.bytes.length ≤ 65)) ∧
    ((s.coreAt 0).sa.window = [] ∧ 0 < (s.coreAt 0).sa.w) ∧ (s.heldByMove (cmd0.runs.map (·.addr)) = false ∧ s.sourceRace 1 (cmd0.runs.map fun r => (r.addr, r.bytes.length)) = false) ∧
    ((w.coreAt 0).sa.window = [sa0 2 0] ∧ (sa0 2 0).ctx = (sa0 1 0).ctx ∧ saMerges (sa0 1 0) (sa0 2 0) = true ∧ (w.coreAt 0).sa.w = 1 ∧ w.agenda = [] ∧
      (({ w with core := { w.core with sa := { w.core.sa with w := 2 } } } : State).coreAt 0).sa.w ≠ 1) ∧
    s.sourceRace 1 [((sa0 1 0).base + 4 * (sa0 1 0).idx, 4)] = false ∧
    (isSaWake (sacmd 0) = false ∧ (sacmd 0).release ≤ s.now ∧ (sacmd 0).dropped = 0 ∧ (sacmd 1).dropped ≠ 0 ∧ (s.ctxAt 0 0).flow.doomed = none) := by decide +kernel

/-- A chain at offset 0x40000 whose next entry is the given words. -/
def chain0 : Chain := { core := 0, ctx := 0, base := 0x40000, pos := 0, preds := [], loops := [], processed := 0, ac := 0, halting := false, bundle := 0, scyc := 0, issue := 0, next := 0, begun := false }
def chained (ws : List Word) : State :=
  let s := ringed (ctx0 [])
  { s with mem := writeRun [] 0x40000 (ws.flatMap fun w => leBytes 8 w.toNat), core := { s.core with copy := { s.core.copy with chain := some chain0 } } }

/-- END; LOOP of one entry once and of 255 entries 65,535 times; SKIPP; SKIPF at the last flag word; COPY; a reserved entry. -/
theorem wit_ChainEntries :
    (let s := chained [0]
     s.chainOf 0 = some chain0 ∧ zeroAbove 4 (s.entryWord chain0 0) = true ∧ zeroFrom 1 (s.entryWord chain0) = true ∧ (s.coreAt 0).copy.queue = []) ∧
    ([0x10012, 0xFFFF0FF2].all fun n =>
      let w := (chained [BitVec.ofNat 64 n, 64, 64]).entryWord chain0
      (w 0).toNat < 2 ^ 32 && (w 0).toNat / 2 ^ 12 % 16 == 0 && zeroFrom 3 w && (w 0).toNat / 16 % 256 != 0 && (w 0).toNat / 2 ^ 16 % 2 ^ 16 != 0) = true ∧
    (let w := (chained [0x1FFFFF3]).entryWord chain0
     (w 0).toNat < 2 ^ 25 ∧ zeroFrom 1 w = true) ∧
    (let s := chained [0x7000FF4, 0x7FFF8, 5]
     let w := s.entryWord chain0
     (w 0).toNat < 2 ^ 27 ∧ (w 0).toNat / 2 ^ 12 % 2 ^ 12 = 0 ∧ zeroFrom 3 w = true ∧ (w 1).toNat + 8 ≤ 2 ^ 19 ∧ (w 1).toNat % 8 = 0 ∧
       (s.seenBy 0 0).own 2 true false 0 0 (w 1).toNat 8 = .go ∧ syndrome s.bad (sectorOf (unitBase 0 + (w 1).toNat)) = 0) ∧
    (let s := chained [1, uw 0x50000, uw 0x60000, BitVec.ofNat 64 (64 + 2 ^ 17)]
     let w := s.entryWord chain0
     chainOp (w 0) = some .cp ∧ zeroAbove 7 (w 0) = true ∧ w 7 = 0 ∧ (s.seenBy 0 0).copySteps .cp (copyWords w 0) (specOf .cp (copyWords w 0)) = .go ∧
       s.heldByMove (queuedFrames (.inl ((s.seenBy 0 0).copyCmd (specOf .cp (copyWords w 0)) 0 none true))) = false ∧ (s.ctxAt 0 0).flow.doomed = none) := by decide +kernel

/-- A move from entry 0 of core 0 to entry 63 of core 1, flushed and not; entries on their way home and to a remote chip;
swatch entries incoming and held. -/
def move0 (f : Bool) : TrowelMove := { fromCore := 0, fromEntry := 0, toCore := 1, toCtx := 2, toEntry := 63, toEngine := false, trowel := tent 1 0 0 8 4, flushed := f }
def swatch0 (e : TEntry) : SwatchMove := { part := 0, core := 0, entry := 2, trowel := e }
def moving : State :=
  let s := boardState (ctx0 [])
  { withPart { part0 with trowels := [trec 0 8 4 0, trec 8 8 5 1, { trec 16 1 6 3 with holder := .remote 2 0 0 3 }] } s with
    core := { s.core with board := (((s.core.board.set 0 (tent 1 2 0 8 4)).set 1 (tent 1 3 8 8 5)).set 2 (tent 2 1 8 8 5)).set 3 (tent 1 5 16 1 6) }
    others := s.others.map fun c => if c.phys = 1 then { c with board := c.board.set 63 { tent 1 1 0 8 4 with ctx := 2 } } else c }

theorem wit_OwnershipEvents :
    let s := moving
    ((s.coreAt 0).phys = 0 ∧ (s.coreAt 1).phys = 1 ∧ (move0 true).flushed = true ∧ (boardAt s 0 0).kind = 1 ∧ (boardAt s 0 0).state = 2 ∧
      sameRegion (boardAt s 0 0) (move0 true).trowel = true ∧ (boardAt s 1 63).kind = 1 ∧ (boardAt s 1 63).state = 1 ∧
      sameRegion (boardAt s 1 63) (move0 true).trowel = true ∧ recAt s 0 (move0 true).trowel = some (trec 0 8 4 0) ∧
      (trec 0 8 4 0).gen % 256 = (move0 true).trowel.gen % 256) ∧
    ((move0 false).flushed = false ∧ s.lenderBusy 0 (move0 false).trowel = false) ∧
    ((s.schedule 9 phLand (.copyRelease { cmd0 with runs := [{ addr := 0, bytes := [1] }] })).lenderBusy 0 (move0 false).trowel = true) ∧
    (s.findEntry 0 1 (returning 1) = some (boardAt s 0 1) ∧ recAt s 0 (boardAt s 0 1) = some (trec 8 8 5 1) ∧ (trec 8 8 5 1).gen % 256 = (boardAt s 0 1).gen % 256) ∧
    ((s.findEntry 0 0 fun f => f.kind == 1 && f.state == 5 && s.ackFits 0 2 f) = none ∧ (s.findEntry 0 3 fun f => f.kind == 1 && f.state == 5 && s.ackFits 0 2 f) = some (boardAt s 0 3) ∧
      s.saved = [] ∧ recAt s 0 (boardAt s 0 3) = some { trec 16 1 6 3 with holder := .remote 2 0 0 3 } ∧
      s.lenderBusy 0 (boardAt s 0 3) = false ∧
      (s.schedule 9 phLand (.copyRelease { cmd0 with runs := [{ addr := 0x10000, bytes := [1] }] })).lenderBusy 0 (boardAt s 0 3) = true) ∧
    ((boardAt s 0 2).kind = 2 ∧ (boardAt s 0 2).state = 1 ∧ sameRegion (boardAt s 0 2) (swatch0 (tent 1 0 8 8 5)).trowel = true ∧
      recAt s 0 (tent 1 0 8 8 5) = some (trec 8 8 5 1)) ∧
    ((tent 2 1 8 8 5).kind = 2 ∧ (boardAt s 0 2).kind = 2 ∧ sameRegion (tent 2 1 8 8 5) (boardAt s 0 2) = true ∧ (boardAt s 0 2).gen % 256 = (tent 2 1 8 8 5).gen % 256) := by decide +kernel

/-! Links and rounds. -/

def flit (k cmd chunk : Nat) : Flit := sealed
  { port := 0, seqNo := 1, ack := 0, kind := k, nsec := 1, credit := 0, src := 1, dst := 0, ch := 0, gen := 0, route := 0, cmd := cmd, chunk := chunk
    sect := 0, age := 0, offset := 0, flagv := 64, rsvd := 0, data := [(List.replicate 64 7, 0)], crc := 0, desc := 0 }
def lcmd (o : LinkOp) (matched : Bool) (un : List Nat) : LinkCmd :=
  { core := 0, ctx := 0, op := o, tag := 0, ch := 0, num := 0, bytes := List.replicate 64 1, src := [], dst := 0x50000, dkey := none, ring := none, len := 64, flag := 0x7FF8, flagv := 9
    putFlag := 0, grant := 0, offset := 0, ret := false, ac := 0, bundle := 0, scyc := 0, issue := 5, since := 0, lc := 0, armed := o != .send, matched := matched, got := []
    flagged := [], unacked := un, aborted := [], bay := 0, bads := [], inbox := [], inBads := [], landed := [], taken := 0, tiles := [] }
def launch1 : Launch := { launch0 with chans := [0, 1, 255], masks := [(6, BitVec.allOnes 64)] }
def linked (c : ChanRec) (l : List LinkCmd) : State :=
  let s := withPart { part0 with chans := [c], launches := [launch1] } (on (ctx0 []))
  { s with core := { s.core with link := { cmds := l } } }

/-- A sealed flit whose fields are in range is sound. -/
theorem sealed_sound {f : Flit} (h : fieldsOk f = true) : sound (sealed f) = true := by
  have e : sound (sealed f) = (fieldsOk f && crc32c (flitBody f) == crc32c (flitBody f)) := rfl
  rw [e, h, beq_self_eq_true]; rfl

/-- Each kind of packet that the witnesses use arrives sound. -/
theorem wit_sound (k cmd chunk : Nat) (h : k ≤ 6) : sound (flit k cmd chunk) = true := by
  apply sealed_sound
  simp [fieldsOk, h]

/-- Flits in sequence of age 0 and of 65 µs; one that is not sound; the fifteenth failure and the one before. -/
theorem wit_LinkLayer :
    let s := linked (chan 0 .send 64) []
    let f := flit 1 0 0
    s.hub.ports[f.port]? = some Port.reset ∧ Port.reset.retraining = false ∧ BitVec.ofNat 16 f.seqNo = Port.reset.got + 1 ∧ ageOf s f ≤ 64 ∧
    f.dst = s.chip ∧ sound { f with rsvd := 1 } = false ∧ Port.reset.asking ≠ some 1 ∧ ({ Port.reset with asking := some 1 } : Port).asking = some 1 ∧ 64 < ageOf s { f with age := 2 ^ 16 - 65 } ∧ ageOf s { f with age := 2 ^ 16 - 64 } ≤ 64 ∧
    ({ Port.reset with fails := 14 } : Port).fails < 15 ∧ ({ Port.reset with fails := 15 } : Port).fails = 15 ∧ f.desc < 2 ^ 16 ∧ 2 ^ 16 ≤ ({ f with desc := 2 ^ 16 } : Flit).desc ∧
    BitVec.ofNat 16 f.seqNo = Port.reset.got + 1 ∧ BitVec.ofNat 16 ({ f with seqNo := 2 } : Flit).seqNo ≠ Port.reset.got + 1 := by decide +kernel

theorem wit_LinkPackets :
    (let s := linked (chan 0 .send 64) []
     let f := flit 1 0 0
     ageOf s f ≤ 64 ∧ f.dst = s.chip ∧ s.channelOf f = some 0 ∧ s.chan 0 f.ch = some (chan 0 .send 64) ∧ (chan 0 .send 64).loaded = true ∧ (chan 0 .send 64).gen.toNat = f.gen ∧
       s.coreOfChan 0 (chan 0 .send 64).decl = some 0 ∧ (s.coreAt 0).phys = 0 ∧ f.cmd < 2 ^ 31 ∧ s.linkFor 0 f = none ∧ (chan 0 .send 64).arms ≤ f.cmd ∧
       (s.coreAt 0).link.cmds.find? (fun l => l.ch == f.ch && l.op == .send && !l.matched && !l.unacked.isEmpty) = none) ∧
    (let l := lcmd .recv false []
     let s := linked (chan 0 .send 64) [l]
     let f := flit 1 0 0
     s.linkFor 0 f = some l ∧ l.core = 0 ∧ f.flagv.toNat = l.len ∧ l.aborted.contains f.chunk = false ∧ l.flagged.contains f.chunk = false ∧ l.ring = none ∧
       s.heldByMove [l.dst + (4096 * f.chunk + 64 * f.sect)] = false ∧
       ((s.ctxAt 0 l.ctx).id = l.ctx ∧ (s.ctxAt 0 l.ctx).cfg.launch = l.tag ∧ (s.ctxAt 0 l.ctx).st ≠ .empty ∧ (s.ctxAt 0 l.ctx).flow.doomed = none)) ∧
    (let l := lcmd .send true [0]
     let s := linked (chan 0 .send 64) [l]
     let f := flit 2 0 0
     s.senderFor 0 f = some l ∧ l.core = 0 ∧ ((s.ctxAt 0 l.ctx).id = l.ctx ∧ (s.ctxAt 0 l.ctx).cfg.launch = l.tag ∧ (s.ctxAt 0 l.ctx).st ≠ .empty ∧ (s.ctxAt 0 l.ctx).flow.doomed = none)) := by decide +kernel

/-- A frame of partition 0. -/
def frame9 : Frame :=
  { num := 9, part := some 0, pool := false, home := 0, far := none, moves := [], settled := none, written := false, cipher := none, rekeyed := [], moving := none
    came := 0, held := [], guest := none, freeAt := 0 }
/-- A receive whose sectors go to it while it is on its way. -/
def towards9 : State :=
  let s := linked (chan 0 .send 64) [{ lcmd .recv false [] with dst := frameBase 9 }]
  { s with hub := { s.hub with frames := [{ frame9 with moving := some none }] } }

/-- A region of one page of that frame, at rest and on its way. -/
theorem wit_OwnershipEvents_moving :
    let s := withPart { part0 with xlat := [(5, 0x2401)] } (on (ctx0 []))
    let t : State := { s with hub := { s.hub with frames := [{ frame9 with moving := some none }] } }
    let x : TEntry := { tent 1 0 5 1 0 with space := 4 }
    s.regionRuns (s.coreAt 0) x = [(frameBase 9, 2 ^ 21)] ∧ s.heldByMove ((s.regionRuns (s.coreAt 0) x).map (·.1)) = false ∧
    t.heldByMove ((t.regionRuns (t.coreAt 0) x).map (·.1)) = true := by decide +kernel

/-- A sector that a link command delivers to a frame on its way. -/
theorem wit_LinkPackets_moving :
    let l : LinkCmd := { lcmd .recv false [] with dst := frameBase 9 }
    towards9.linkFor 0 (flit 1 0 0) = some l ∧ towards9.heldByMove [l.dst + (4096 * (flit 1 0 0).chunk + 64 * (flit 1 0 0).sect)] = true := by decide +kernel

/-- A state in which every way leads out of port 0. -/
def routed (c : ChanRec) (l : List LinkCmd) : State :=
  { linked c l with hub := { (linked c l).hub with route := Vector.replicate 512 16 } }
theorem wit_port (c : ChanRec) (l : List LinkCmd) (r : Nat) : (routed c l).portFor r = some 0 := by
  have e : (routed c l).hub.route[r % 512]? = some 16 := by
    rw [show (routed c l).hub.route = Vector.replicate 512 16 from rfl, Vector.getElem?_eq_getElem (Nat.mod_lt _ (by decide)), Vector.getElem_replicate]
  simp only [State.portFor, e]
  rfl

def chanSum : ChanRec := { chan 0 .allred 16 with decl := { (chan 0 .allred 16).decl with order := [(1, 0), (0, 0)], fmt := 4 } }
def lring (taken : Nat) : LinkCmd := { lcmd .agfwd false [1] with ring := some 0, len := 16384, taken := taken }
def remote0 : State :=
  let s := withPart { part0 with grants := [grant0], launches := [launch0], trowels := [{ trec 0 1 4 0 with holder := .remote 0 0 0 63 }] } (on (ctx0 []))
  { s with core := { s.core with phys := 0 } }

def queued0 : ChanRec := { chan 0 .send 64 with out := [{ flit := flit 1 0 0, timer := some (0, 5, 0) }] }
def ringing (taken : Nat) : State :=
  let s := linked (chan 0 .agfwd 16384) [lring taken]
  { s with core := { s.core with rings := s.core.rings.set 0 { ring 0 1 with resv := [{ id := tileId 5 1, ctx := 0, bay := 0, landed := false }] } } }

theorem wit_LinkCommandEvents :
    (let l := lcmd .send true [0]
     let s := linked (chan 0 .send 64) [l]
     (s.coreAt 0).phys = 0 ∧ s.findLink 0 5 = some l ∧ l.core = 0 ∧ s.chan (s.coreAt 0).partNo l.ch = some (chan 0 .send 64) ∧ isSender l.op = true ∧
       l.matched = true ∧ l.got = [] ∧ l.lc ≤ s.now ∧ (lcmd .send false [0]).matched = false ∧ l.unacked.contains 0 = true ∧ l.unacked.contains 1 = false ∧
       ((s.ctxAt 0 l.ctx).id = l.ctx ∧ (s.ctxAt 0 l.ctx).cfg.launch = l.tag ∧ (s.ctxAt 0 l.ctx).st ≠ .empty ∧ (s.ctxAt 0 l.ctx).flow.doomed = none) ∧ l.flagged.contains 0 = false ∧ l.aborted.contains 0 = false ∧ (5 : Nat) < 2 ^ 60 ∧
       s.sourceMoves l = false ∧ s.heldByMove [l.dst + 4096 * 0] = false) ∧
    (let s := routed queued0 [lcmd .send true [0]]
     queued0.out = { flit := flit 1 0 0, timer := some (0, 5, 0) } :: [] ∧ s.hub.ports[0]? = some Port.reset ∧ Port.reset.retraining = false ∧
       s.portMask 0 0 0 ≠ 0 ∧ ownedAt (s.portMask 0 0 0) (max s.now Port.reset.txAt) 1 = s.now) ∧
    (let l := lcmd .allred false [0]
     let s := linked chanSum [l]
     s.findLink 0 5 = some l ∧ s.chan (s.coreAt 0).partNo l.ch = some chanSum ∧ l.unacked.contains 0 = true ∧ l.ring = none ∧ s.heldByMove [l.dst + 4096 * 0] = false ∧
       ringPlace s.chip chanSum.decl + 1 = chanSum.decl.order.length ∧ chanSum.decl.fmt = 4 ∧ chanSum.decl.op = .add ∧ (List.replicate 64 (1 : Byte)).length = 64) ∧
    (let s := linked (chan 0 .allred 64) [lcmd .allred false [0]]
     ringPlace s.chip (chan 0 .allred 64).decl + 1 ≠ (chan 0 .allred 64).decl.order.length) ∧
    (let first := fun (o : Nat) => fillPlace 2 (ringPlace (ringing 2).chip (chan 0 .agfwd 16384).decl) o * ((lring 2).len / 16384)
     (lring 2).ring = some 0 ∧ (lring 1).taken ≤ first 1 + 3 / 4 ∧ first 1 + 3 / 4 < (lring 2).taken ∧ (lring 2).landed.contains (shardChunk 1 3) = false ∧
       (lring 2).aborted.contains 3 = false ∧ (ringing 2).findLink 0 5 = some (lring 2) ∧ (ringing 2).tileAddr (lring 2) 0 (first 1 + 3 / 4) = some 0 ∧
       (ringing 2).heldByMove [0 + 4096 * (3 % 4)] = false) ∧
    (remote0.grantLoc 0 0 0 = some (0, 0) ∧ (trec 0 1 4 0).space ≠ 4 ∧
      (remote0.partAt 0).trowels.find? (remote0.lentUnder 0 0 0 0) = some { trec 0 1 4 0 with holder := .remote 0 0 0 63 } ∧
      (remote0.coreAt 0).phys = 0 ∧ (remote0.coreAt 0).entryFree none remote0.now 63 = true ∧ remote0.saved = []) := by decide +kernel

def work0 : AggWork :=
  { group := 7, round := 0, gen := 0, crc := group0.check, member := 0, part := 0, who := some (0, 0), launch := 0, lcore := 0, values := [1], nan := false, sat := false, clipped := false, rf := 0, res := 0x50000, rkey := none, bundle := 0, scyc := 0, issue := 5
    resEntries := [], srcEntries := [], released := false }
def round0 (inc : List Nat) (w : AggWork) : Round := { group := 7, round := 0, entry := group0, opened := 0, arrived := [w], gone := [], isClosed := false, included := inc, absent := 0, audit := false, result := [1] }
def rounding (e : Group) (rs : List Round) : State :=
  let s := aggState
  { s with
    core := { s.core with ctx := { s.core.ctx with agg := some { group := 7, round := 0, ac := 0, src := (0, 0), readEnd := 0, res := (0, 0), issue := 5 } } }
    hub := { s.hub with groups := s.hub.groups.set 7 e, rounds := rs } }

/-- A contribution of another generation, at home and not; a late one, the first; a round that is not there and one that is complete;
a budget that reaches and one that is one short. -/
theorem wit_RoundEvents :
    (let s := rounding { group0 with w0 := group0.w0 ||| 4 } []
     (s.group 7).gen ≠ work0.gen ∧ (s.group 7).home = s.chipId ∧ (s.group 7).hpart < 16 ∧
       ({ group0 with w1 := 1 + 2 ^ 40 } : Group).check ≠ work0.crc ∧
       (s.group 7).home ≠ ({ s with hub := { s.hub with chipid := 1 } } : State).chipId) ∧
    (let s := rounding { group0 with closed := 1 } []
     (s.group 7).gen = work0.gen ∧ (s.group 7).check = work0.crc ∧ (s.group 7).valid = true ∧ work0.round < (s.group 7).closed) ∧
    (let s := rounding group0 [{ round0 [] work0 with gone := [0] }]
     s.roundAt 7 (roundKey (s.group 7).gen work0.round) = some { round0 [] work0 with gone := [0] } ∧ ({ round0 [] work0 with gone := [0] } : Round).gone.contains work0.member = true) ∧
    (let s := rounding group0 []
     (s.group 7).gen = work0.gen ∧ (s.group 7).check = work0.crc ∧ (s.group 7).valid = true ∧ (s.group 7).closed ≤ work0.round ∧
       s.roundAt 7 (roundKey 0 0) = none ∧ s.roundReady 7 (roundKey 0 0) = false) ∧
    (let s := rounding group0 [round0 [] work0]
     let key := roundKey (s.group 7).gen 0
     s.roundAt 7 key = some (round0 [] work0) ∧ s.roundReady 7 key = true ∧ (round0 [] work0).arrived = [work0] ∧ work0.who = some (0, 0) ∧
       memberOwner (((round0 [] work0).entry.mem[work0.member]?).getD 0) = 3 ∧ (s.budget 3).toNat < (round0 [] work0).entry.cost ∧
       (round0 [] work0).entry.home = s.chipId ∧ ({ round0 [] work0 with audit := true } : Round).audit = true) ∧
    (let s := { (rounding group0 [round0 [] work0]) with hub := { (rounding group0 [round0 [] work0]).hub with budgets := Hub.reset.budgets.set 3 (BitVec.ofNat 64 group0.cost) } }
     (round0 [] work0).entry.cost ≤ (s.budget 3).toNat) := by decide +kernel

theorem wit_MemberEvents :
    (let s := rounding group0 [round0 [] work0]
     let key := roundKey (s.group 7).gen 0
     s.aggIssuer work0 = some (0, 0) ∧ ((s.coreAt 0).phys = 0 ∧ (s.ctxAt 0 0).id = 0) ∧ (s.ctxAt 0 0).flow.doomed = none ∧ s.roundAt 7 key = some (round0 [] work0) ∧
       (round0 [] work0).arrived.find? (fun b => b.member == work0.member) = some work0 ∧ work0.released = false ∧ (round0 [] work0).included.contains 0 = false) ∧
    (round0 [0] work0).included.contains work0.member = true ∧ (rounding group0 []).heldByMove [work0.res] = false ∧ ({ work0 with released := true } : AggWork).released = true := by decide +kernel

/-- Before an entry of a chain: bytes to come by a link command; a stopped context; a halting chain; 4,096 entries done and one less; the last
entry of the scratchpad and the one behind it; no trowel, one that arrives, and a sector that fails. -/
theorem wit_ChainBoundary :
    (({ chained [0] with core := { (chained [0]).core with link := { cmds := [{ lcmd .recv false [] with dst := 0x40000 }] } } } : State).chainRace 0 = true) ∧
    (let s := chained [0]
     (s.coreAt 0).phys = 0 ∧ s.chainOf 0 = some chain0 ∧ s.chainRace 0 = false ∧ (s.coreAt 0).pauses chain0.ctx = false ∧ (s.coreAt 0).copy.queue = [] ∧
       chain0.halting = false ∧ chain0.processed < 4096 ∧ chainOff chain0 + 64 ≤ 2 ^ 19 ∧ (s.ctxAt 0 0).id = 0 ∧ (s.ctxAt 0 0).flow.doomed = none ∧
       (s.seenBy 0 0).own 2 true false 0 0 (chainOff chain0) 64 = .go ∧ syndrome s.bad (unitBase 0 + chainOff chain0) = 0 ∧
       syndrome ({ s with bad := [(0x40000, 1)] } : State).bad (unitBase 0 + chainOff chain0) ≠ 0) ∧
    ((({ chained [0] with core := { (chained [0]).core with ctx := inState .stopped (ctx0 []) } } : State).coreAt 0).pauses chain0.ctx = true) ∧
    (({ chain0 with halting := true } : Chain).halting = true ∧ 4096 ≤ ({ chain0 with processed := 4096 } : Chain).processed ∧
      chainOff { chain0 with base := 0x7FFC0 } + 64 ≤ 2 ^ 19 ∧ 2 ^ 19 < chainOff { chain0 with base := 0x7FFC0, pos := 1 } + 64) ∧
    ((({ chained [0] with core := { (chained [0]).core with board := (Core.reset 0).board } } : State).seenBy 0 0).own 2 true false 0 0 (chainOff chain0) 64 ≠ .go) ∧
    ((({ chained [0] with core := { (chained [0]).core with board := (Core.reset 0).board.set 0 { held 0 128 with state := 1 } } } : State).seenBy 0 0).own
      2 true false 0 0 (chainOff chain0) 64 = .hold { cause := 8, blocks := true }) := by decide +kernel

/-! Queues, commands and launches. -/

/-- Partition 0 with pages 0 to 2 mapped to frames 5 to 7 for reads and writes, a queue in host memory, and all of host DMA. -/
def queue0 (h t : Nat) : Queue := { base := 0, log2n := 4, head := BitVec.ofNat 16 h, tail := BitVec.ofNat 16 t, active := none }
def page (f : Nat) : Word := BitVec.ofNat 64 (7 + f * 2 ^ 10)
def partQ (h t : Nat) : Part :=
  { part0 with chans := [], grants := [], launches := [], xlat := [(0, page 5), (1, page 6), (2, page 7)], trowels := [trec 0 8 4 0], queues := Part.reset.queues.set 0 (queue0 h t) }
def dma : Vector (Vector Byte 64) 19 := Hub.reset.slots.set 5 ((Vector.replicate 64 0).set 63 0x80)
def served (h t : Nat) : State :=
  let s := withPart (partQ h t) (on (ctx0 []))
  { s with hub := { s.hub with slots := dma } }
def fenced (v : Nat) : State := { served 0 0 with mem := writeRun [] (frameBase 6) (leBytes 8 v) }
def cmdOf8 (l : List Nat) : Cmd := { part := 0, queue := 0, words := (List.range 8).map fun i => BitVec.ofNat 64 ((l[i]?).getD 0), begun := false, mark := 0 }
def waitAt (v : Nat) : Cmd := cmdOf8 [5, 2 ^ 21, v, 0, 0, 0, 0, 1]

/-- The frame of page 1, here and on its way. -/
def pageOn (f : Frame) : State := { served 0 0 with hub := { (served 0 0).hub with frames := [f] } }
def onTheWay : State := pageOn { frame9 with num := 6, moving := some none }
theorem wit_Here : Here (pageOn { frame9 with num := 6 }) 0 (2 ^ 21) 64 := by
  intro r _ f x _ hx
  have : x = { frame9 with num := 6 } := by simpa [State.frame, pageOn] using List.mem_of_find?_eq_some hx
  subst this
  exact ⟨rfl, rfl⟩

/-- An entry of zeros is not valid; TAIL one beyond the queue's sixteen entries and at the last of them; a WAIT at its value, one short
of it, and on a failed fence. -/
theorem wit_QueueEvents :
    (let s := served 3 4
     (waitAt 9).part < 16 ∧ (waitAt 9).queue < 8 ∧ (waitAt 9).words.length = 8 ∧ queueAt s 0 0 = some (queue0 3 4) ∧ (s.up && (s.partAt 0).ctl.getLsbD 16) = true ∧ (queue0 3 4).active = none ∧
       (queue0 3 4).enabled = true ∧ (queue0 3 4).head ≠ (queue0 3 4).tail ∧
       ({ part := 0, queue := 0, words := s.entryWords 0 (queue0 3 4), begun := false, mark := 0 } : Cmd).valid = false ∧
       (((19 : Word).setWidth 16 - (queue0 3 4).head : BitVec 16)).toNat = 2 ^ (queue0 3 4).log2n.toNat ∧
       2 ^ (queue0 3 4).log2n.toNat < (((20 : Word).setWidth 16 - (queue0 3 4).head : BitVec 16)).toNat ∧
       (let u : Queue := { queue0 3 4 with base := BitVec.ofNat 64 (2 ^ 21 + 1) }
        u.base.toNat % 4 ≠ 0 ∧ s.vMoves 0 u.headAt 64 = false)) ∧
    (waitAt 9).num 1 % 8 = 0 ∧ onTheWay.vMoves 0 ((waitAt 9).num 1) 8 = true ∧
    (served 3 4).agenda = [] ∧ queueAt (served 4 4) 0 0 = some (queue0 4 4) ∧ (State.reset.up && (State.reset.partAt 0).ctl.getLsbD 16) = false ∧
    (fenced 9).vFault 0 false ((waitAt 9).num 1) 8 = none ∧ leVal ((fenced 9).vRead 0 ((waitAt 9).num 1) 8) = 9 ∧
    leVal ((fenced 8).vRead 0 ((waitAt 9).num 1) 8) = 8 ∧ leVal ((fenced (2 ^ 63)).vRead 0 ((waitAt 9).num 1) 8) = 2 ^ 63 := by decide +kernel

/-- Copies between host memory and the last sector of page 1, a page that no context holds: before the partition's one cycle of host
DMA, at it, over a sector that fails its check, and behind it; a partition without such a cycle. -/
theorem wit_MemoryCommands :
    (let s := served 0 0
     let a := 2 ^ 22 - 64
     (cmdOf8 [4, a, 9]).part < 16 ∧ (cmdOf8 [4, a, 9]).queue < 8 ∧ (cmdOf8 [4, a, 9]).words.length = 8 ∧ onTheWay.vMoves 0 a 64 = true ∧ (cmdOf8 [4, a, 9]).num 6 = 0 ∧ s.vFault 0 true a 8 = none ∧ s.vFault 0 false a 64 = none ∧ s.vFault 0 true a 64 = none ∧
       s.dmaMask 0 ≠ 0 ∧ (vPages a 64).any (fun x => s.pageHeld 0 x.1) = false ∧ a % 2 ^ 21 + 64 = 2 ^ 21 ∧
       (s.vRuns 0 a 64).all (fun r => (s.failing (s.entryKey r.1) r.1 r.2).isEmpty) = true ∧
       ownedAt (s.dmaMask 0) s.now 1 ≠ s.now ∧ ownedAt (s.dmaMask 0) 63 1 = 63 ∧
       (let r := frameBase 6 + (2 ^ 21 - 64)
        let u := { s with bad := [(r, 1)] }
        u.vRuns 0 a 64 = [(r, 64)] ∧ u.failing (u.entryKey r) r 64 = r :: []) ∧
       (cmdOf8 [4, a, 9]).mark = 0 ∧ ({ cmdOf8 [4, a, 9] with mark := 1 } : Cmd).mark = 1 ∧ 1 < ({ cmdOf8 [4, a, 9] with mark := 2 } : Cmd).mark ∧
       ((s.partAt 0).xlatEntry 2).getLsbD 0 = true ∧ s.vFault 0 false (2 ^ 21) 48 = none ∧
       (s.partAt 0).trowels[0]? = some (trec 0 8 4 0) ∧ (trec 0 8 4 0).count ≠ 0) ∧
    State.reset.dmaMask 0 = 0 := by decide +kernel

/-- The quote of 17,088 bytes fits page 2. -/
theorem wit_MemoryCommands_quote :
    let q := (served 0 0).quote 0 0 ((served 0 0).vRead 0 (2 ^ 21) 48)
    (served 0 0).vFault 0 true (2 ^ 22) q.length = none ∧ 2 ^ 22 % 2 ^ 21 + q.length ≤ 2 ^ 21 := by
  have e : ((served 0 0).quote 0 0 ((served 0 0).vRead 0 (2 ^ 21) 48)).length = 17088 := by
    have : ((served 0 0).quoteParts 0 0 ((served 0 0).vRead 0 (2 ^ 21) 48)).length = 480 := by decide +kernel
    unfold State.quote
    dsimp only
    rw [List.length_append, List.length_map, List.length_range, this]
    rfl
  intro q
  rw [show q.length = 17088 from e]
  decide +kernel

/-- An image of one core with no stream, one that needs the slots of another partition, and one with a channel whose members are all
other chips; only core 0 is in service, so that there is one binding, in whatever order the machine looks. -/
def image0 : Image :=
  { kernel := "", cores := 1, streams := [], regions := [], rings := [], channels := [], slotneed := [(18, 0)], grants := [], groups := [], usem := 1
    slack := 0, ilkpad := 0, topology := [(0, [0])] }
def lonely : State :=
  let s := served 0 0
  { s with core := Core.reset 0, others := s.others.map fun c => { c with cap := { c.cap with inService := false } } }
def launchOf8 : Cmd := cmdOf8 [1, 0, 7]

def alien : Image := { image0 with channels := [{ (chan 0 .allred 64).decl with fmt := 1, order := [(1, 0), (2, 0)] }] }
def loneImages : List Image := [image0, { image0 with slotneed := [(4, 1)] }, alien]
def loneFits (im : Image) (p : Nat) : Bool := lonely.coreFits 0 im lonely.ctxEmpty [] 0 p && (!true || (lonely.coreAt p).entriesFree im 0 lonely.now)

theorem lone_fits : (loneImages.all fun im => (List.range 64).all fun p => loneFits im p == (p == 0)) = true := by decide +kernel

theorem lone_found (f : Nat → Bool) (l : List Nat) (h : ∀ p ∈ l, f p = (p == 0)) :
    (l.findSome? fun p => if f p then some [(0, p)] else none) = l.findSome? fun p => if p == 0 then some [(0, p)] else none := by
  induction l with
  | nil => rfl
  | cons a r ih =>
    simp only [List.findSome?_cons, h a (by simp), ih fun p m => h p (by simp [m])]

theorem lone_order (k : Fin 64) :
    (((List.range 64).map fun i => (i + k.val) % 64).findSome? fun p => if p == 0 then some [(0, p)] else none) = some [(0, 0)] := by
  revert k
  decide +kernel

theorem lone_bound (im : Image) (h : im ∈ loneImages) : lonely.bindWith 0 im lonely.ctxEmpty true = some [(0, 0)] := by
  have c : im.cores = 1 := by
    simp only [loneImages, List.mem_cons, List.not_mem_nil, or_false] at h
    rcases h with rfl | rfl | rfl <;> rfl
  have e : lonely.candidates = (List.range 64).map fun i => (i + (⟨Config.bindOrder lonely.draws % 64, Nat.mod_lt _ (by decide)⟩ : Fin 64).val) % 64 := by
    simp [State.candidates]
  have f : ∀ p ∈ lonely.candidates, loneFits im p = (p == 0) := by
    intro p m
    have b : p < 64 := by
      simp only [State.candidates, List.mem_map] at m
      obtain ⟨i, -, rfl⟩ := m
      omega
    have := List.all_eq_true.mp (List.all_eq_true.mp lone_fits im h) p (by simpa using b)
    simpa using this
  have := lone_found (loneFits im) lonely.candidates f
  rw [e, lone_order] at this
  rw [State.bindWith, c, e]
  exact this

theorem wit_LaunchEvents :
    (launchOf8.part < 16 ∧ launchOf8.queue < 8 ∧ launchOf8.words.length = 8 ∧ lonely.yielding 0 (launchOf8.num 2) = [] ∧ lonely.saved = [] ∧ ({ image0 with cores := 0 } : Image).wf = false ∧ ({ image0 with cores := 65 } : Image).wf = false ∧ image0.wf = true ∧
      (lonely.partAt 0).launches.any (fun l => l.tag == launchOf8.num 2) = false) ∧
    (lonely.reserveFor 0 image0 [(0, 0)]).isSome = true ∧ lonely.matched 0 image0 = true ∧
    lonely.reserveFor 0 { image0 with slotneed := [(4, 1)] } [(0, 0)] = none ∧
    alien.wf = true ∧ (lonely.reserveFor 0 alien [(0, 0)]).isSome = true ∧ lonely.matched 0 alien = false ∧
    (let s := fun (st : CtxState) (r : Bool) => withPart { partQ 0 0 with launches := [{ launch0 with running := r, tag := 7 }] } (on { ctx0 [] with st := st, cfg := { (ctx0 []).cfg with launch := 7 } })
     ((s .loaded false).partAt 0).launches.find? (fun l => l.tag == 7) = some { launch0 with running := false, tag := 7 } ∧
       launch0.members.all (s .loaded false).readyAtStart = true ∧ launch0.members.all (s .halted false).readyAtStart = false ∧
       ((s .loaded false).ctxAt 0 0).cfg.free = false ∧ launch0.cmd.part < 16 ∧ launch0.cmd.queue < 8 ∧ launch0.cmd.words.length = 8 ∧ (s .halted true).saved = [] ∧
       launch0.ending = false ∧ launch0.members.any (fun m => (s .halted true).unlanded m.1 m.2.1) = false ∧
       launch0.members.any (fun m => (on { ctx0 [] with acks := [(0, 0, 0)] }).unlanded m.1 m.2.1) = true ∧
       ((s .loaded false).partAt 0).launches.any (fun l => l.tag == launchOf8.num 2) = true ∧
       launch0.members.all (fun m => ((s .halted true).ctxAt m.1 m.2.1).st == .halted && ((s .halted true).ctxAt m.1 m.2.1).cfg.launch == 7) = true) := by decide +kernel

/-- Stop at the least offset A, a hand-over at the least offset B; every context stopped, none, and evicted ones. -/
def pre (a b tag : Nat) (begun : Bool) : Cmd := { cmdOf8 [6, 0, 0, a + b * 2 ^ 32, 0, tag] with begun := begun }
def preempting (st : CtxState) : State :=
  let s := withPart { partQ 0 0 with launches := [launch0, { launch0 with tag := 1, members := [(0, 1, 0)] }] } (on { ctx0 [] with st := st })
  { s with core := { s.core with rest := s.core.rest.map fun x => if x.id = 1 then { x with st := .loaded } else x } }
theorem wit_PreemptEvents :
    (let c := pre 16 0 0 false
     let s := preempting .running
     c.part < 16 ∧ c.queue < 8 ∧ c.words.length = 8 ∧ s.namesSaved c = false ∧ s.named c = some [(0, 0)] ∧ plainPreempt c = true ∧ plainPreempt (pre 15 0 0 false) = false ∧ plainPreempt (pre 16 1 0 false) = false ∧
       (s.coreAt 0).phys = 0 ∧ (s.ctxAt 0 0).id = 0 ∧ (s.ctxAt 0 0).st = .running ∧ (s.ctxAt 0 0).flow.stopAt = none ∧ (s.ctxAt 0 0).flow.evict = none ∧
       (s.evictStep 0 0 16 [(0, 0)] none).2 = false) ∧
    (let s := preempting .stopped
     [(0, 0)].all (fun m => s.stAt m == .stopped) = true ∧ [(0, 0)].all (fun m => (s.stAt m).still) = true ∧
       [(0, 0)].any (fun m => (preempting .running).stAt m == .stopped) = false ∧ ((preempting .empty).evictStep 0 0 16 [(0, 0)] none).2 = true ∧
       (pre 16 0 0 true).begun = true ∧ [(0, 0)].all (fun m => ((preempting .running).stAt m).still) = false ∧ (s.coreAt 0).taken 0 = false ∧
       (s.ctxAt 0 0).st = .stopped) ∧
    (let c := pre 16 1216 1 false
     let s := preempting .running
     s.named c = some [(0, 0)] ∧ (s.partAt 0).launches.find? (fun l => l.tag == c.num 5) = some { launch0 with tag := 1, members := [(0, 1, 0)] } ∧ c.offA = 16 ∧
       c.offB = c.offA + 1200 ∧ s.mayFollow [(0, 0)] { launch0 with tag := 1, members := [(0, 1, 0)] } = true ∧ (s.ctxAt 0 1).id = 1 ∧ (s.ctxAt 0 1).st = .loaded ∧
       (s.ctxAt 0 1).cfg.free = false ∧ (s.successor c.part (c.num 5)).any s.coreBusy = true ∧ ((preempting .stopped).successor c.part (c.num 5)).any (preempting .stopped).coreBusy = false ∧
       launch0.ending = false ∧ s.coreBusy { launch0 with members := [(0, 1, 0)] } = true ∧ (preempting .stopped).coreBusy { launch0 with members := [(0, 1, 0)] } = false ∧ ((preempting .stopped).ctxAt 0 1).st = .loaded ∧
       ({ pre 16 1216 1 true with mark := 5 } : Cmd).mark ≠ 0 ∧ (pre 16 1216 1 true).mark = 0) := by decide +kernel

/-! Records, pages, the host's writes and the platform. -/

def rec0 (sev : Nat) : ErrRecord :=
  { code := 0x0602, sev := sev, part := some 0, owner := none, who := none, engine := 0, bundle := 0, object := 0, scyc := 0, gcyc := 7, addr := none, aux0 := 0, aux1 := 0, seq := 0 }
def recording (st : CtxState) (pend : List ErrRecord) : State :=
  let s := withPart { partQ 0 0 with pend := pend } (on { ctx0 [] with st := st })
  { s with core := { s.core with profile := { s.core.profile with buf := ((s.core.profile.buf.set 0 [0 :: List.replicate 32 1]).set 1 [0 :: List.replicate 32 0]).set 2 [0 :: List.replicate 8 3] } } }
theorem wit_RecordEvents :
    (let s := recording .running [rec0 2]
     (s.coreAt 0).phys = 0 ∧ (s.partAt 0).pend = [rec0 2] ∧ (rec0 2).sev ≠ 3 ∧ (s.partAt 0).pageFault true 0 = none ∧ (s.partAt 0).pageFault true 1 = none ∧
       (s.coreAt 0).profile.buf[0]? = some ((0 :: List.replicate 32 1) :: []) ∧ (s.coreAt 0).profile.buf[1]? = some ((0 :: List.replicate 32 0) :: []) ∧
       (s.coreAt 0).profile.buf[2]? = some ((0 :: List.replicate 8 3) :: []) ∧ (s.coreAt 0).profile.nextKind 0 = some 0 ∧ (s.coreAt 0).profile.nextKind 1 = some 1 ∧
       (s.coreAt 0).profile.nextKind 2 = some 2 ∧ ((on (ctx0 [])).coreAt 0).profile.nextKind 0 = none ∧
       (s.ctxAt 0 (leVal (((List.replicate 32 (0 : Byte)).drop 2).take 1) % 4)).st = .running ∧ ((s.coreAt 0).profile.buf[1]?.getD []).length < 64) ∧
    ((recording .running [rec0 2]).partAt 0).launches = [] ∧ ((recording .running [rec0 2]).partAt 0).torn = false ∧
    (let l := { launch0 with ending := true }
     let s := withPart { partQ 0 0 with trowels := [], launches := [l] } (on { ctx0 [] with st := .stopped })
     (s.partAt 0).pend = [] ∧ (s.partAt 0).torn = false ∧ (s.partAt 0).launches = [l] ∧ (s.partAt 0).trowels = [] ∧ l.ending = true ∧
       s.allStill l = true ∧ l.cmd.part < 16 ∧ l.cmd.queue < 8 ∧ l.cmd.words.length = 8) ∧
    ((recording .stopped []).ctxAt 0 0).st = .stopped ∧ ((recording .running []).partAt 0).pend = [] ∧
    (State.reset.partAt 0).pageFault true 1 ≠ none := by decide +kernel

def frame0 (f : Frame → Frame) : Frame := f frame9

/-- Page 3 under key slot 4 names frame 9, which was written under key slot 5 (R248): its sector fails, and a whole-sector write
encrypts it anew. -/
theorem test_wrong_key_fails_verification :
    let hub := { State.reset.hub with
      parts := State.reset.hub.parts.set 0 { Part.reset with xlat := [(3, BitVec.ofNat 64 (1 + 4 * 8 + 9 * 1024))] }
      frames := [frame0 fun f => { f with cipher := some (5, 3) }] }
    let s := { State.reset with hub := hub }
    s.failing (s.keyed 9) (frameBase 9 + 64) 64 = [frameBase 9 + 64] ∧ s.keyed 9 = some (4, 3) ∧
      ((s.touch (fun _ => s.keyed 9) [frameBase 9 + 64]).failing (s.keyed 9) (frameBase 9) 128) = [frameBase 9] := by decide +kernel
def framed (x : Frame) : State :=
  let s := served 0 0
  { s with hub := { s.hub with frames := [x], keys := [{ slot := 0, part := 0, grant := none }] } }
theorem wit_PageEvents_translation :
    (let s := framed (frame0 id)
     s.up = true ∧ (s.partAt 0).ctl.getLsbD 16 = true ∧ (s.partAt 0).tstat ≠ 1 ∧ s.entryOk 0 (2 ^ 18 - 1) (page 9) = true ∧ s.entryOk 0 0 (page 9) = true ∧
       (s.partAt 0).notice = [] ∧ s.entryOk 0 3 (page 8) = false ∧ s.entryOk 0 3 (page 9 ||| 8) = false ∧ s.entryOk 0 3 0 = true ∧ ((s.partAt 0).xlatEntry 0).getLsbD 0 = true ∧
       page 9 ||| ((s.partAt 0).xlatEntry 0 &&& BitVec.ofNat 64 (2 ^ 28)) ≠ (s.partAt 0).xlatEntry 0) ∧
    (let s := withPart { partQ 0 0 with tstat := 1 } State.reset
     (s.partAt 0).tstat = 1) ∧
    (let l := { launch0 with ending := true }
     let s := withPart { partQ 0 0 with torn := true, launches := [l] } (on { ctx0 [] with st := .stopped })
     (s.partAt 0).torn = true ∧ (s.partAt 0).pend = [] ∧
       (s.partAt 0).launches.all (fun l => s.allStill l && l.members.all fun m => !s.unlanded m.1 m.2.1) = true ∧
       s.allCores.all (fun c => c.link.cmds.isEmpty) = true ∧ (s.partAt 0).chans = []) ∧
    ((chan 0 .send 64).pumping = false) := by decide +kernel

/-- The last frame of the chip in a run of one, a run one too long; a run back, one of a frame that an entry names. -/
def win (first n : Nat) : Word := BitVec.ofNat 64 (first + n * 2 ^ 17)
theorem wit_PageEvents_frames :
    (let s := framed (frame0 id)
     let ok := fun v => decide (winFirst v + winCount v ≤ 2 ^ 17) && (winRun v).all (s.frameFree (winPart v) (winPool v))
     let back := fun v => decide (winFirst v + winCount v ≤ 2 ^ 17) && (winRun v).all (s.frameReturnable (winPart v) (winPool v))
     s.up = true ∧ ok (win (2 ^ 17 - 1) 1) = true ∧ ok (win (2 ^ 17 - 1) 2) = false ∧ back (win 9 1) = true ∧ back (win 10 1) = false ∧
       winCount (win (2 ^ 17 - 1) 1) = 1 ∧ (s.frame (2 ^ 17 - 1)).isNone = true ∧
       ((s.frameClusters 0 false).filter fun k => decide (s.framesOn k < Config.clusterFrames)) ≠ [] ∧
       (State.reset.frameClusters 0 false).filter (fun k => decide (State.reset.framesOn k < Config.clusterFrames)) = [] ∧
       State.reset.up = true ∧ State.reset.frameFree 0 false (2 ^ 17 - 1) = true ∧ (State.reset.frame (2 ^ 17 - 1)).isNone = true ∧
       s.frame 9 = some (frame0 id) ∧ (frame0 id).moving = none ∧ (frame0 id).settled = none ∧ (frame0 id).far ≠ some (1, 7)) ∧
    (let x := frame0 fun x => { x with moving := some (some (1, 7)), moves := [5, 3, 1] }
     (framed x).frame 9 = some x ∧ x.moving = some (some (1, 7)) ∧
       (x.moves.length == 3 && x.moves.all fun m => decide ((framed x).ticks < m + Config.moveTime * Config.tick)) = true ∧ x.settled ≠ some ((framed x).ticks + Config.settleTime * Config.tick)) ∧
    (frame0 fun x => { x with settled := some 5 }).settled.isSome = true ∧
    (let s := framed (frame0 fun x => { x with pool := true, part := none })
     let f := sealed { flit 3 0 0 with offset := 9 * 2 ^ 21 + 2 ^ 21 - 64 }
     Taken s f Port.reset ∧ ageOf s f ≤ 64 ∧ f.dst = s.chip ∧ ((s.frame (f.offset / 2 ^ 21)).map fun x => x.takes f.src) = some true ∧
       (f.data.take f.nsec).all (fun d => d.1.length == 64) = true) := by
  refine ⟨by decide +kernel, by decide +kernel, by decide +kernel, ?_⟩
  exact ⟨by unfold Taken; decide +kernel, by decide +kernel, by decide +kernel, by decide +kernel, by decide +kernel⟩

/-- Every way leads out of port 0, all of whose cycles are partition 0's. -/
def wayOut (x : Frame) (w : List (Option Nat × Flit)) : State :=
  let s := framed x
  { s with hub := { s.hub with
      route := Vector.replicate 512 16, slots := s.hub.slots.set 6 (Vector.replicate 64 0x80), ports := s.hub.ports.set 0 { Port.reset with wait := w } } }

/-- A page may leave where a way with a cycle of its partition leads out; a move with nothing that waits for it, one with a write that
does; what waits at the port may go now. -/
theorem wit_PageEvents_moves :
    (wayOut (frame0 id) []).movable 1 (some 0) = true ∧ (framed (frame0 id)).movable 1 (some 0) = false ∧
    ((frame0 id).moving = none ∧ (frame0 id).settled = none ∧ (frame0 id).far ≠ some (1, 7) ∧ (frame0 id).held = [] ∧
      (frame0 fun x => { x with far := some (1, 7) }).far ≠ none) ∧
    (let x := frame0 fun x => { x with moving := some none, held := [(none, { addr := frameBase 9, bytes := [1] }, [])] }
     (framed x).frame 9 = some x ∧ x.moving = some none ∧ x.held = [(none, { addr := frameBase 9, bytes := [1] }, [])]) ∧
    (let y : Option Nat × Flit := (some 0, { flit 3 0 0 with cmd := 1 })
     let s := wayOut (frame0 id) [y]
     (∃ q, s.hub.ports[0]? = some q ∧ q.retraining = false ∧ q.txAt ≤ s.now ∧ q.wait = y :: []) ∧ s.waitTurn 0 s.now y = some s.now) := by
  have e : ∀ x w r, (wayOut x w).portFor r = some 0 := by
    intro x w r
    have e : (wayOut x w).hub.route[r % 512]? = some 16 := by
      rw [show (wayOut x w).hub.route = Vector.replicate 512 16 from rfl, Vector.getElem?_eq_getElem (Nat.mod_lt _ (by decide)), Vector.getElem_replicate]
    simp only [State.portFor, e]
    rfl
  refine ⟨?_, ?_, by decide +kernel, by decide +kernel, ⟨⟨_, rfl, by decide +kernel, by decide +kernel, rfl⟩, by decide +kernel⟩⟩
  · simp only [State.movable, e]
    decide +kernel
  · simp only [State.movable, noRoute (s := framed (frame0 id)) rfl]

/-- Bytes of no command's source, of one, and of a frame that moves. -/
theorem wit_GatedBytesPerform :
    (let s := linked (chan 0 .send 64) [{ lcmd .send true [0] with src := [(0x100, 64)], lc := 9 }]
     s.heldByMove [0x13F] = false ∧ s.sourceRace 2 [(0x140, 1)] = false ∧ { s with now := 2 }.sourceRace 2 [(0x13F, 1)] = true ∧
       { s with now := 1 }.sourceRace 2 [(0x13F, 1)] = false) ∧
    (framed (frame0 fun x => { x with moving := some (some (1, 7)) })).heldByMove [frameBase 9] = true ∧
    ((linked (chan 0 .send 64) [lcmd .recv false []]).chunkRace 0x50000 1 == .race) = true := by decide +kernel

def launchOn (masks : List (Nat × Word)) : State := withPart { partQ 4 4 with launches := [{ launch0 with masks := masks }] } (on (ctx0 []))
theorem wit_AdminWrites :
    (let s := withPart { partQ 4 4 with chans := [], grants := [] } (on (ctx0 []))
     (s.coreAt 0).phys = 0 ∧ s.up = true ∧ s.ctlOk 15 2 = true ∧ s.ctlOk 15 1 = false ∧ s.ctlOk 0 (BitVec.ofNat 64 (2 ^ 28)) = false ∧
       s.slotInUse 18 63 = false ∧ (launchOn [(18, BitVec.ofNat 64 (2 ^ 63))]).slotInUse 18 63 = true ∧
       s.groupOk 63 ((s.group 63).staged 0) = true ∧ s.groupOk 63 ((s.group 63).staged 1) = false ∧ (aggState.group 7).valid = true ∧
       aggState.groupOk 7 ((aggState.group 7).staged 0) = true ∧
       (s.partAt 0).ctl.getLsbD 16 = true ∧ queueAt s 0 0 = some (queue0 4 4) ∧ (queue0 4 4).head = (queue0 4 4).tail ∧
       queueAt (served 3 4) 0 0 = some (queue0 3 4) ∧ (queue0 3 4).head ≠ (queue0 3 4).tail) ∧
    ({ State.reset with hub := { Hub.reset with power := { Hub.reset.power with off := true } } } : State).up = false := by decide +kernel

/-- The last partition; in recovery and not; the four steps of the clock; throttled; tripped. -/
def powered (p : Power) : State := { State.reset with hub := { Hub.reset with power := p } }
theorem wit_ResetEvents_ClockEvents :
    (15 : Nat) < 16 ∧ (let q : Power := { Hub.reset.power with recovery := true, booted := 2, flash := List.replicate 3 ⟨[], 0, [], []⟩ }
      q.recovery = true ∧ q.booted = 2 ∧ q.flash.length = 3) ∧ State.reset.hub.power.booted ≠ 2 ∧ State.reset.hub.power.recovery = false ∧
    State.reset.hub.power.step = 0 ∧ State.reset.hub.power.throttled = false ∧ 1 < (powered { Hub.reset.power with step := 4 }).hub.power.step ∧
    (powered { Hub.reset.power with throttled := true }).hub.power.throttled = true ∧
    (powered { Hub.reset.power with tripped := true }).hub.power.tripped = true ∧ State.reset.hub.power.tripped = false := by decide +kernel

/-! Steps and groups. -/

/-- A context whose instruction store holds the word w, and which needs a mark or not. -/
def stored (w : Nat) (need : Bool) (x : Ctx) : Ctx := { x with istore := writeRun [] 0 (leBytes 4 w), flow := { x.flow with needMark := need } }
def lone (w : Nat) (x : Ctx) : State := on (stored w false x)
def turning (s : State) : Bool :=
  let x := s.core.ctx
  s.agenda.all (fun d => decide (s.now < d.cyc)) && !s.hub.power.off && s.core.ctxs.all (fun y => !y.stopDue s.now) && s.core.switch.chooseAt.isNone && x.latchSkim == x && !x.overrun &&
  x.st == .running && x.flow.sync.isNone && decide (x.flow.nextAt ≤ s.now) && x.flow.doomed.isNone && (s.core.breaks x).isNone &&
  x.flow.roll.map Roll.suppresses != some true && x.flow.flush == [] && s.core.ctxs.all (fun y => y.flow.doomed.all fun r => r.code != 0x0901)
theorem turning_turn (s : State) (h : turning s = true) : Turn s := by
  simp only [turning, Bool.and_eq_true, bne_iff_ne, beq_iff_eq, Bool.not_eq_true', Option.isNone_iff_eq_none, List.all_eq_true,
    decide_eq_true_eq] at h
  obtain ⟨⟨⟨⟨⟨⟨⟨⟨⟨⟨⟨⟨⟨h1, h2⟩, h3⟩, h4⟩, h5⟩, h6⟩, h7⟩, h8⟩, h9⟩, h10⟩, h11⟩, h12⟩, h13⟩, h14⟩ := h
  exact ⟨fun d r e => h1 d (by simp [e]), h2, h3, h4, h5, h6, h7, h8, h9, h10, fun y m r e => by simpa [e] using h14 y m, h11, h12, h13⟩
def loneSlot (s : State) (i : Instr) : Bool :=
  let x := s.core.ctx
  let w := slotWord x.istore x.flow.bundle x.flow.pos
  decide (x.flow.bundle < Config.bundles) && decide (x.flow.pos < 4) && stopBit w && (match decodeSlot w (lendOf x.istore x.flow.bundle x.flow.pos) with
    | .ok j => j == i
    | .error _ => false) && (!frameForm i || x.cfg.free)
theorem loneSlot_lone (s : State) (i : Instr) (h : loneSlot s i = true) : LoneSlot s i := by
  simp only [loneSlot, Bool.and_eq_true, decide_eq_true_eq, Bool.or_eq_true, Bool.not_eq_true'] at h
  obtain ⟨⟨⟨⟨h1, h2⟩, h3⟩, h4⟩, h5⟩ := h
  refine ⟨h1, h2, h3, ?_, fun f => ?_⟩
  · split at h4
    next j e => rw [e, eq_of_beq h4]
    · contradiction
  · rcases h5 with q | q
    · rw [q] at f; contradiction
    · exact q

/-- Whether the lone slot i of s meets the premises of a step, with the status that exec leaves. -/
def runsTo (s : State) (i : Instr) (f : Status → Bool) : Bool :=
  let x := s.core.ctx
  let u := s.enterGroup (x.group x.flow.bundle x.flow.pos)
  turning s && loneSlot s i && !u.core.ctx.pastBody && (u.interlock [i]).isNone && (u.writeWait exec (numbered [] (x.group x.flow.bundle x.flow.pos))).isNone &&
  after (exec i (entered s)) fun t => f t.core.ctx.status && !t.core.ctx.tooLate

/-- A free context whose one slot adds s0 and s1 to s5, with a result of register r due in cycle c. -/
def awaiting (r : Fin 64) (c : Nat) : State :=
  { lone (0x88000000 + 2 ^ 21 + 5 * 2 ^ 15 + 1 * 2 ^ 3) { ctx0 [] with cfg := { (ctx0 []).cfg with free := true } } with
    agenda := [{ cyc := c, phase := 0, seq := 0, ev := .registerResultLand { land0 with res := .s r 5 } }] }

/-- A slot that reads a register whose result is in flight; one that would land before the result in flight of its own register. -/
theorem wit_StepRuns_held :
    (let s := awaiting 1 3
     let x := s.core.ctx
     (turning s && ((s.enterGroup (x.group 0 0)).interlock [.add ga 5 0 1 false]).isSome && loneSlot s (.add ga 5 0 1 false)) = true) ∧
    (let s := awaiting 5 3
     let x := s.core.ctx
     let u := s.enterGroup (x.group 0 0)
     (turning s && (u.interlock [.add ga 5 0 1 false]).isNone && loneSlot s (.add ga 5 0 1 false) &&
       (u.writeWait exec (numbered [] (x.group 0 0))).isSome) = true) := by decide +kernel

/-- mark issues; a flag wait waits for 1; wrs of a register that a context may not write traps; ckeq of unequal registers
rolls back; a word that decodes to nothing; a context that must begin with a mark and does, or does not. -/
theorem wit_StepRuns :
    runsTo (lone 0xF08AAAAB (ctx0 [])) (.mark 0xAAAAB) (· == .running) = true ∧
    runsTo (on (stored 0xF08AAAAB true (ctx0 []))) (.mark 0xAAAAB) (· == .running) = true ∧ markSlot (.mark 0xAAAAB) = true ∧
    runsTo (lone 0xF1828500 (ctx0 [(10, 1)])) (.ckeq .always 10 5) (fun r => match r with
      | .recover _ => true
      | _ => false) = true ∧
    runsTo (lone 0x8CC50000 (ctx0 [])) (.wrs .always 10 0) (fun r => match r with
      | .trapped _ => true
      | _ => false) = true ∧
    runsTo (owning (stored 0xF43140AB false (ctx0 [(10, 1)]))) (.wflag .always 6 10 .ge 11) (fun r => match r with
      | .held _ => true
      | _ => false) = true ∧
    (let s := on (stored 0x88000000 true (ctx0 []))
     turning s && loneSlot s (.nop .always) && s.core.ctx.flow.needMark && !markSlot (.nop .always)) = true ∧
    (let s := lone 0xFFFFFFFF (ctx0 [])
     turning s && (rejected s.core.ctx.cfg.free (s.core.ctx.group 0 0)).isSome) = true := by decide +kernel

def gated (x : Ctx) : Ctx := { x with gate := [(64, 1)] }
/-- Outside loops: a plain context; one with gated bytes; the first and the last turn of a loop; the last delay group and the one before. -/
theorem wit_GroupEnds_LoopsTurn :
    (let x := ctx0 []
     x.st = .running ∧ x.flow.roll = none ∧ x.flow.xfer = none ∧ x.regs.loops = [] ∧ x.flow.evict = none ∧ (gated x).gate ≠ [] ∧ (gated x).enq = [] ∧
       (gated x).bay.publish = [] ∧ (on (gated x)).core.link.cmds = [] ∧ x.endPos = 3) ∧
    (let l : Loop := { rot := true, ilk := false, first := 0, last := 0, exit := 0 }
     let x : Ctx := { ctx0 [] with regs := { (ctx0 []).regs with loops := [l], lc := Regs.reset.lc.set 0 2 } }
     x.regs.loops = [l] ∧ l.last = x.endBundle ∧ x.endPos = 3 ∧ l.ilk = false ∧ x.regs.lc[0] = 2 ∧ 1 < (2 : Word).toNat ∧ (1 : Word).toNat ≤ 1) := by decide +kernel

/-- A fault of the last partition; an event seen before in its group, one not seen, one in the group of a commit point. -/
theorem wit_TrapTaken_BayRolledBack :
    ({ rec0 3 with part := some 15 } : ErrRecord).part = some 15 ∧ (15 : Nat) < 16 ∧
    (let x := ctx0 []
     x.bay.again 0x0B03 = false ∧ x.commitGroup = false ∧ ({ x.bay with seen := [(0x0B03, 0)] } : Bay).again 0x0B03 = true ∧
       ({ x with commitGroup := true } : Ctx).commitGroup = true) := by decide +kernel

/-- Reset meets the premises, and its first step answers a next state. -/
theorem wit_StepKeepsMemoryForm :
    Memory.wf State.reset.mem = true ∧ Memory.wf State.reset.hostMem = true ∧ after (step State.reset) (fun t => t.turn == 1) = true := by decide +kernel

/-! ## Steps -/

/-- The first step after placing a word runs it: nop, mark, and halt. -/
theorem test_step_nop : after (step (State.reset.withFetchWord 32 0x08000000)) (fun t => (t.allCores.find? fun c => c.phys == 0).any fun c =>
    c.ctx.flow.bundle == 1 && c.ctx.flow.pos == 0 && c.ctx.flow.nextAt == 1) = true := by decide +kernel
theorem test_step_add : after (step (State.reset.withFetchWord 32 (0x08000000 + 1 * 2 ^ 21 + 5 * 2 ^ 15))) (fun t =>
    t.agenda.map (fun d => (d.cyc, (landingOf d.ev).map (·.res))) == [(1, some (.s 5 0))]) = true := by decide +kernel

end Sys2Proof.Tests
end

/-! # The platform's clock (R4, R12, R350) -/

namespace Sys2Proof.Machine

/-! ## What a change of power, a change of step and the next step up make of the state -/

@[simp] theorem State.onPower_hub (f : Power → Power) (s : State) : (s.onPower f).hub = { s.hub with power := f s.hub.power } := rfl
@[simp] theorem State.onPower_agenda (f : Power → Power) (s : State) : (s.onPower f).agenda = s.agenda := rfl
@[simp] theorem State.onPower_now (f : Power → Power) (s : State) : (s.onPower f).now = s.now := rfl
@[simp] theorem State.onPower_bad (f : Power → Power) (s : State) : (s.onPower f).bad = s.bad := rfl

@[simp] theorem State.setStep_hub (k : Nat) (s : State) :
    (s.setStep k).hub = { s.hub with power := { s.hub.power with step := k, stepAt := s.now, refAt := s.ticks } } := rfl
@[simp] theorem State.setStep_now (k : Nat) (s : State) : (s.setStep k).now = s.now := rfl
@[simp] theorem State.setStep_bad (k : Nat) (s : State) : (s.setStep k).bad = s.bad := rfl

@[simp] theorem State.stepUpLater_hub (s : State) : s.stepUpLater.hub = s.hub := rfl
@[simp] theorem State.stepUpLater_now (s : State) : s.stepUpLater.now = s.now := rfl
@[simp] theorem State.stepUpLater_bad (s : State) : s.stepUpLater.bad = s.bad := rfl

/-- The reference timer reads nothing but the cycle and what the hub noted at the last change of step. -/
theorem State.ticks_congr {s t : State} (hub : t.hub = s.hub) (now : t.now = s.now) : t.ticks = s.ticks := by
  simp only [State.ticks, hub, now]

/-- R4, R244. A change of step does not move the reference timer. -/
@[simp] theorem State.setStep_ticks (k : Nat) (s : State) : (s.setStep k).ticks = s.ticks := by
  simp [State.ticks]

theorem isStepUp_iff (i : Instr) : isStepUp i = true ↔ i = .clockStepUp := by
  constructor
  · intro h
    unfold isStepUp at h
    split at h
    · rfl
    · contradiction
  · rintro rfl; rfl

/-- What a list of insertions into the agenda holds. -/
theorem mem_foldl_insertDue (e : Due) (ds l : List Due) : e ∈ ds.foldl (fun l d => insertDue d l) l ↔ e ∈ ds ∨ e ∈ l := by
  induction ds generalizing l with
  | nil => simp
  | cons d ds ih =>
    rw [List.foldl_cons, ih, mem_insertDue, List.mem_cons, or_assoc, or_left_comm]

/-- A change of step moves the events of the reference timer and leaves the others where they are. -/
theorem State.mem_setStep (k : Nat) (s : State) (e : Due) :
    e ∈ (s.setStep k).agenda ↔
      (∃ d ∈ s.agenda, onReference d.ev = true ∧ d.retime s.now (mhz s.hub.power.step) (mhz k) = e) ∨ (e ∈ s.agenda ∧ onReference e.ev = false) := by
  simp [State.setStep, mem_foldl_insertDue, and_assoc]

/-- The agenda then holds one step up, 100 µs on, and of the rest what is no step up. -/
theorem State.mem_stepUpLater (s : State) (e : Due) :
    e ∈ s.stepUpLater.agenda ↔
      e = { cyc := s.now + s.us 100, phase := phExternal, seq := s.issueSeq, ev := .clockStepUp } ∨ (e ∈ s.agenda ∧ isStepUp e.ev = false) := by
  simp [State.stepUpLater, mem_insertDue, Config.stepTime, State.us]

end Sys2Proof.Machine

namespace Sys2Proof.Clock

open Sys2Proof Sys2Proof.Machine Sys2Proof.Claim

/-! ## What the statement asks of a change of the clock -/

/-- From s to t the hub changes in its power w alone, and memory and check words stand. -/
def Powers (s t : State) (w : Power) : Prop := t.hub = { s.hub with power := w } ∧ Quiet s t

/-- The power of s after a change to step k. -/
def stepped (s : State) (k : Nat) : Power := { s.hub.power with step := k, stepAt := s.now, refAt := s.ticks }

/-- From s to t, whose clock is at step k, the reference timer goes on, and each of its events but the step up comes at its moment. -/
def KeepsTimer (s t : State) (k : Nat) : Prop :=
  t.ticks = s.ticks ∧ ∀ d ∈ s.agenda, onReference d.ev = true → d.ev ≠ .clockStepUp →
    ∃ e ∈ t.agenda, e.ev = d.ev ∧ e.cyc = s.now + ((d.cyc - s.now) * mhz k + mhz s.hub.power.step - 1) / mhz s.hub.power.step

theorem powers_setStep (s : State) (k : Nat) : Powers s (s.setStep k) (stepped s k) := ⟨rfl, by simp [Quiet]⟩

theorem keepsTimer_setStep (s : State) (k : Nat) : KeepsTimer s (s.setStep k) k :=
  ⟨s.setStep_ticks k, fun d hd hr _ => ⟨_, (s.mem_setStep k _).mpr (.inl ⟨d, hd, hr, rfl⟩), rfl, rfl⟩⟩

theorem Powers.stepUpLater {s t : State} {w : Power} (h : Powers s t w) : Powers s t.stepUpLater w := by
  simpa [Powers, Quiet] using h

/-- The step up is entered anew; no other event of the timer moves by that. -/
theorem KeepsTimer.stepUpLater {s t : State} {k : Nat} (h : KeepsTimer s t k) : KeepsTimer s t.stepUpLater k := by
  obtain ⟨ticks, moved⟩ := h
  refine ⟨(State.ticks_congr t.stepUpLater_hub t.stepUpLater_now).trans ticks, fun d hd hr hne => ?_⟩
  obtain ⟨e, he, ev, cyc⟩ := moved d hd hr hne
  have notUp : isStepUp e.ev = false := by rwa [ev, Bool.eq_false_iff, ne_eq, isStepUp_iff]
  exact ⟨e, (t.mem_stepUpLater e).mpr (.inr ⟨he, notUp⟩), ev, cyc⟩

theorem coming_stepUpLater (t : State) : Coming t.stepUpLater (t.now + t.us 100) .clockStepUp :=
  ⟨_, (t.mem_stepUpLater _).mpr (.inl rfl), rfl, rfl⟩

/-! ## The events -/

/-- R350: down one step, to 640 MHz at the least, and up again 100 µs on. -/
theorem droopDetect_leads (s : State) (die : Nat) :
    let k := min 4 (s.hub.power.step + 1)
    Leads (.droopDetect die) s fun t => Powers s t (stepped s k) ∧ KeepsTimer s t k ∧ Coming t (s.now + t.us 100) .clockStepUp :=
  ⟨_, rfl, (powers_setStep s _).stepUpLater, (keepsTimer_setStep s _).stepUpLater, coming_stepUpLater _⟩

/-- The clock does not rise when throttled or when it is at 800 MHz. -/
theorem exec_clockStepUp_stays {s : State} (h : s.hub.power.throttled = true ∨ s.hub.power.step = 0) : exec .clockStepUp s = .next s := by
  change execClockStepUp s = .next s
  simp [execClockStepUp, h]

theorem exec_clockStepUp_rises {s : State} (ht : s.hub.power.throttled = false) (hk : 0 < s.hub.power.step) :
    exec .clockStepUp s = .next (if 1 < s.hub.power.step then (s.setStep (s.hub.power.step - 1)).stepUpLater else s.setStep (s.hub.power.step - 1)) := by
  change execClockStepUp s = _
  simp only [execClockStepUp, ht, Nat.pos_iff_ne_zero.mp hk, Bool.false_or, decide_false, Bool.false_eq_true, if_false]
  split <;> rfl

/-- R350: up one step, and up again 100 µs on while it is below 800 MHz. -/
theorem clockStepUp_leads {s : State} (ht : s.hub.power.throttled = false) (hk : 0 < s.hub.power.step) :
    let k := s.hub.power.step - 1
    Leads .clockStepUp s fun t => Powers s t (stepped s k) ∧ KeepsTimer s t k ∧
      (1 < s.hub.power.step → Coming t (s.now + t.us 100) .clockStepUp) := by
  refine ⟨_, exec_clockStepUp_rises ht hk, ?_⟩
  split
  next => exact ⟨(powers_setStep s _).stepUpLater, (keepsTimer_setStep s _).stepUpLater, fun _ => coming_stepUpLater _⟩
  next last => exact ⟨powers_setStep s _, keepsTimer_setStep s _, fun h => absurd h last⟩

theorem not_stepUp_of_mem_cancel {s : State} {d : Due} (h : d ∈ (s.cancel isStepUp).agenda) : d.ev ≠ .clockStepUp := fun e => by
  simp [e, (isStepUp_iff _).mpr] at h

/-- A throttled clock has no step up ahead of it: the coming one is dropped before the rest is moved. -/
theorem not_stepUp_of_mem_throttled {s : State} {k : Nat} {d : Due} (h : d ∈ ((s.cancel isStepUp).setStep k).agenda) : d.ev ≠ .clockStepUp := by
  rcases (State.mem_setStep k _ d).mp h with ⟨e, he, -, rfl⟩ | ⟨hd, -⟩
  · exact not_stepUp_of_mem_cancel (d := e) he
  · exact not_stepUp_of_mem_cancel hd

/-- What is no step up is kept by the drop, so the timer's other events are moved from the agenda as it was. -/
theorem keepsTimer_cancel_setStep (s : State) (k : Nat) : KeepsTimer s ((s.cancel isStepUp).setStep k) k := by
  obtain ⟨ticks, moved⟩ := keepsTimer_setStep (s.cancel isStepUp) k
  refine ⟨ticks, fun d hd hr hne => moved d ?_ hr hne⟩
  rw [State.cancel_agenda, List.mem_filter]
  exact ⟨hd, by rwa [Bool.not_eq_true', Bool.eq_false_iff, ne_eq, isStepUp_iff]⟩

/-- R350: down to 640 MHz, to stay. -/
theorem thermalThrottle_leads (s : State) : Leads .thermalThrottle s fun t => Powers s t { stepped s 4 with throttled := true } ∧ KeepsTimer s t 4 ∧
    ∀ d ∈ t.agenda, d.ev ≠ .clockStepUp :=
  ⟨_, rfl, ⟨rfl, by simp [Quiet]⟩, keepsTimer_cancel_setStep s 4, fun _ h => not_stepUp_of_mem_throttled h⟩

/-- R350: free to rise, the first time 100 µs on. -/
theorem thermalThrottleEnd_leads (s : State) : Leads .thermalThrottleEnd s fun t => Powers s t { s.hub.power with throttled := false } ∧
    Coming t (s.now + s.us 100) .clockStepUp :=
  ⟨_, rfl, Powers.stepUpLater ⟨rfl, by simp [Quiet]⟩, coming_stepUpLater _⟩

theorem exec_thermalTripRelease_tripped {s : State} (h : s.hub.power.tripped = true) :
    exec .thermalTripRelease s = .next (s.onPower fun p => { p with off := false, tripped := false }) := by
  change execThermalTripRelease s = _
  simp only [execThermalTripRelease, h, if_true]
  rfl

theorem exec_thermalTripRelease_stays {s : State} (h : s.hub.power.tripped = false) : exec .thermalTripRelease s = .next s := by
  change execThermalTripRelease s = _
  simp [execThermalTripRelease, h]

/-- R350: a tripped package comes on again. -/
theorem thermalTripRelease_leads {s : State} (h : s.hub.power.tripped = true) : Leads .thermalTripRelease s fun t =>
    Powers s t { s.hub.power with off := false, tripped := false } ∧ t.agenda = s.agenda :=
  ⟨_, exec_thermalTripRelease_tripped h, ⟨rfl, by simp [Quiet]⟩, rfl⟩

/-- R352: the answer joins the others; request 1 reads the reset-cause register. -/
theorem managementRequest_leads (s : State) (req : Nat) : Leads (.managementRequest req) s fun t =>
    ∃ a, t.hub = { s.hub with answers := s.hub.answers ++ [(req, a)] } ∧ Quiet s t ∧ t.agenda = s.agenda ∧ (req = 1 → a = s.hub.resetCause) :=
  ⟨_, rfl, s.answer req, rfl, ⟨rfl, rfl, rfl⟩, rfl, by rintro rfl; rfl⟩

/-- Settles O53: one lemma for each event of the clock, of the package's trip and of the management controller. -/
theorem clockEvents : Obligations.ClockEvents := by
  intro s die req
  exact ⟨droopDetect_leads s die, exec_clockStepUp_stays, clockStepUp_leads, thermalThrottle_leads s, thermalThrottleEnd_leads s,
    thermalTripRelease_leads, exec_thermalTripRelease_stays, managementRequest_leads s req⟩

end Sys2Proof.Clock

/-! # The special functions (R20, R86, R109, R141) -/

namespace Sys2Proof.SpecialFunctions

open Sys2Proof Sys2Proof.Machine Sys2Proof.Claim

/-- A source lane as a number of the format, as the issuing context reads it (R109). -/
def sourceAt (s : State) (f : FFmt) (n : Fin 32) (l : Nat) : Machine.Num :=
  (FFmt.fmt f).val s.core.ctx.flushes (lane (s.core.ctx.rv n.val) l)

/-- s with the numbers v, rounded to nearest even in the slot's format, under way to register d as the result of special function op. -/
def roundedTo (s : State) (g : Gate) (m : Fin 8) (f : FFmt) (op L : Nat) (d : Fin 32) (v : Nat → Machine.Num) : State :=
  vectorTo s L d (s.core.ctx.active g m) (lanesOf fun l => (FFmt.fmt f).out s.core.ctx.flushes .rn (v l)) (mkTag 3 0 op f.code)

section
variable {s : State} {g : Gate} {m : Fin 8} {f : FFmt} {op : Nat}

/-- R141. With an active lane and its capability bit in service, a special-function slot takes its effect. -/
theorem sfun_of_runs (L : Nat) (d : Fin 32) (h : Fmt → Bool → Ctx → Lanes) (runs : VectorRuns s g m (capBit (20 + op))) :
    s.sfun g m f op L d h =
      .next (vectorTo s L d (s.core.ctx.active g m) (h (FFmt.fmt f) s.core.ctx.flushes s.core.ctx) (mkTag 3 0 op f.code)) := by
  obtain ⟨active, serves⟩ := runs
  exact State.vec_go _ active serves

/-- A function of one source, lane by lane. -/
theorem sfun_unary (L : Nat) (d a : Fin 32) (h : Machine.Num → Machine.Num) (runs : VectorRuns s g m (capBit (20 + op))) :
    s.sfun g m f op L d (fun F fl x => map1 (fun w => F.out fl .rn (h (F.val fl w))) (x.rv a.val)) =
      .next (roundedTo s g m f op L d fun l => h (sourceAt s f a l)) :=
  sfun_of_runs L d _ runs

/-- A function of two sources, lane by lane. -/
theorem sfun_binary (L : Nat) (d a b : Fin 32) (h : Machine.Num → Machine.Num → Machine.Num) (runs : VectorRuns s g m (capBit (20 + op))) :
    s.sfun g m f op L d (fun F fl x => map2 (fun w z => F.out fl .rn (h (F.val fl w) (F.val fl z))) (x.rv a.val) (x.rv b.val)) =
      .next (roundedTo s g m f op L d fun l => h (sourceAt s f a l) (sourceAt s f b l)) :=
  sfun_of_runs L d _ runs

end

/-- Settles O13: each slot is the skeleton of a special function with its number, its cycles and its exact function. -/
theorem specialFunctions : Obligations.SpecialFunctions := by
  intro s g m f d a b
  refine ⟨fun runs => ?frcp, fun runs => ?fdiv, fun runs => ?fsqrt, fun runs => ?frsqrt, fun runs => ?fexp2, fun runs => ?flog2⟩
  case frcp => exact sfun_unary 12 d a (.div (.fin false 1 0)) runs
  case fdiv => exact sfun_binary 16 d a b .div runs
  case fsqrt => exact sfun_unary 12 d a .sqrt runs
  case frsqrt => exact sfun_unary 12 d a .rsqrt runs
  case fexp2 => exact sfun_unary 12 d a .exp2 runs
  case flog2 => exact sfun_unary 12 d a .log2 runs

end Sys2Proof.SpecialFunctions

/-! # Writes of the hub and the end of a command (R154, R239, R246, R315, R324, R325) -/

namespace Sys2Proof.Machine

/-! ## Numbers as bytes -/

@[simp] theorem length_leBytes (n v : Nat) : (leBytes n v).length = n := by
  induction n generalizing v with
  | zero => rfl
  | succ n ih => simp [leBytes, ih]

/-- A number that n bytes can hold is read back from its bytes. -/
theorem leVal_leBytes {n v : Nat} (h : v < 256 ^ n) : leVal (leBytes n v) = v := by
  induction n generalizing v with
  | zero => simp only [Nat.pow_zero, Nat.lt_one_iff] at h; simp [leBytes, leVal, h]
  | succ n ih =>
    have : v / 256 < 256 ^ n := Nat.div_lt_of_lt_mul (by rwa [Nat.pow_succ, Nat.mul_comm] at h)
    simp only [leBytes, leVal, ih this, BitVec.toNat_ofNat]
    omega

/-! ## Moves of frames -/

/-- The move under way of a frame (R246). -/
def State.moveOf (s : State) (f : Nat) : Option (Option (Nat × Nat)) := (s.frame f).bind (·.moving)

theorem State.heldByMove_eq (s : State) (as : List Nat) : s.heldByMove as = as.any fun a => ((frameOf a).bind s.moveOf).isSome := by
  unfold State.heldByMove
  congr 1
  funext a
  cases frameOf a with
  | none => rfl
  | some f => cases h : s.frame f <;> simp [State.moveOf, h]

theorem frameOf_frameBase_add {f i : Nat} (h : i < 2 ^ 21) : frameOf (frameBase f + i) = some f := by
  have : 2 ^ 40 ≤ frameBase f + i := by unfold frameBase; omega
  rw [frameOf, if_pos this]
  congr 1
  unfold frameBase
  omega

/-- A frame whose record, if it has one, tells of no move does not move. -/
theorem State.moveOf_eq_none {s : State} {f : Nat} (h : ∀ x, s.frame f = some x → x.moving = none) : s.moveOf f = none :=
  Option.bind_eq_none_iff.mpr h

/-- What changes frames one by one, but neither their numbers nor their moves, leaves every move as it was. -/
theorem State.moveOf_onFrames {g : Frame → Frame} (num : ∀ x, (g x).num = x.num) (moving : ∀ x, (g x).moving = x.moving) (s : State) (f : Nat) :
    (s.onHub fun h => { h with frames := h.frames.map g }).moveOf f = s.moveOf f := by
  have sameNum : (fun x : Frame => x.num == f) ∘ g = fun x => x.num == f := by funext x; simp [num]
  simp only [State.moveOf, State.frame, State.onHub_hub, List.find?_map, sameNum]
  cases s.hub.frames.find? fun x => x.num == f <;> simp [moving]

@[simp] theorem State.moveOf_onPart (s : State) (n : Nat) (g : Part → Part) (f : Nat) : (s.onPart n g).moveOf f = s.moveOf f := rfl

theorem Frame.rekey_num (v : Option (Nat × Nat)) (ks : List Nat) (f : Frame) : (f.rekey v ks).num = f.num := by cases v <;> rfl
theorem Frame.rekey_moving (v : Option (Nat × Nat)) (ks : List Nat) (f : Frame) : (f.rekey v ks).moving = f.moving := by cases v <;> rfl
theorem Frame.rekeyAll_num (v : Option (Nat × Nat)) (f : Frame) : (f.rekeyAll v).num = f.num := by unfold Frame.rekeyAll; split <;> rfl
theorem Frame.rekeyAll_moving (v : Option (Nat × Nat)) (f : Frame) : (f.rekeyAll v).moving = f.moving := by unfold Frame.rekeyAll; split <;> rfl

/-- A field of a frame that no step of a fold over it changes. -/
theorem foldl_frame {α β : Type} (p : Frame → α) {g : Frame → β → Frame} (h : ∀ x b, p (g x b) = p x) (l : List β) (x : Frame) :
    p (l.foldl g x) = p x := by
  induction l generalizing x with
  | nil => rfl
  | cons b r ih => rw [List.foldl_cons, ih, h]

/-! ## What writes and records leave undisturbed -/

/-- A field of the partitions that a change of one of them keeps. -/
theorem State.onPart_same {α : Type} (p : Part → α) {f : Part → Part} (h : ∀ x, p (f x) = p x) (s : State) (n m : Nat) :
    p ((s.onPart n f).partAt m) = p (s.partAt m) := by
  by_cases e : m = n
  · subst e
    by_cases hm : m < 16
    · rw [State.partAt_onPart hm, h]
    · simp [State.onPart, State.partAt, State.onHub, vmod, hm]
  · rw [State.partAt_onPart_ne e]

/-- From s to t time stands still, no page is mapped otherwise, no trowel goes on and no frame's move begins or ends. -/
structure Undisturbed (s t : State) : Prop where
  now : t.now = s.now
  xlat : ∀ n, (t.partAt n).xlat = (s.partAt n).xlat
  trowels : ∀ n, (t.partAt n).trowels = (s.partAt n).trowels
  moveOf : ∀ f, t.moveOf f = s.moveOf f

namespace Undisturbed

theorem refl (s : State) : Undisturbed s s := ⟨rfl, fun _ => rfl, fun _ => rfl, fun _ => rfl⟩

theorem trans {s t u : State} (h : Undisturbed s t) (k : Undisturbed t u) : Undisturbed s u :=
  ⟨k.now.trans h.now, fun n => (k.xlat n).trans (h.xlat n), fun n => (k.trowels n).trans (h.trowels n), fun f => (k.moveOf f).trans (h.moveOf f)⟩

/-- What keeps the cycle and the hub disturbs nothing. -/
theorem of_hub {s t : State} (now : t.now = s.now) (hub : t.hub = s.hub) : Undisturbed s t := by
  refine ⟨now, fun n => ?_, fun n => ?_, fun f => ?_⟩ <;> simp only [State.partAt, State.moveOf, State.frame, hub]

theorem foldl {β : Type} {g : State → β → State} (h : ∀ t b, Undisturbed t (g t b)) (l : List β) (s : State) : Undisturbed s (l.foldl g s) :=
  foldl_keeps (Undisturbed s) g (fun t b ht => ht.trans (h t b)) l s (refl s)

theorem onFrames {g : Frame → Frame} (num : ∀ x, (g x).num = x.num) (moving : ∀ x, (g x).moving = x.moving) (s : State) :
    Undisturbed s (s.onHub fun h => { h with frames := h.frames.map g }) :=
  ⟨rfl, fun _ => rfl, fun _ => rfl, State.moveOf_onFrames num moving s⟩

theorem onPart {f : Part → Part} (xlat : ∀ x, (f x).xlat = x.xlat) (trowels : ∀ x, (f x).trowels = x.trowels) (s : State) (n : Nat) :
    Undisturbed s (s.onPart n f) :=
  ⟨rfl, State.onPart_same Part.xlat xlat s n, State.onPart_same Part.trowels trowels s n, fun _ => rfl⟩

theorem touch (key : Nat → CipherKey) (as : List Nat) (s : State) : Undisturbed s (s.touch key as) := by
  unfold State.touch
  dsimp only
  split
  · exact refl s
  · refine onFrames (fun x => ?_) (fun x => ?_) s <;> split
    · rfl
    · exact foldl_frame Frame.num (fun y k => y.rekey_num _ [k]) _ x
    · rfl
    · exact foldl_frame Frame.moving (fun y k => y.rekey_moving _ [k]) _ x

theorem rekeyWhole (fs : List Nat) (s : State) : Undisturbed s (s.rekeyWhole fs) := by
  refine onFrames (fun x => ?_) (fun x => ?_) s <;> split
  · exact x.rekeyAll_num _
  · rfl
  · exact x.rekeyAll_moving _
  · rfl

theorem landMarked (key : CipherKey) (runs : List Sys2Proof.Run) (marks : List (Nat × W32)) (s : State) : Undisturbed s (s.landMarked key runs marks) := by
  unfold State.landMarked
  refine trans ?_ (touch _ _ _)
  exact of_hub rfl rfl

theorem landHeld (key : CipherKey) (runs : List Sys2Proof.Run) (marks : List (Nat × W32)) (s : State) : Undisturbed s (s.landHeld key runs marks) := by
  unfold State.landHeld
  extract_lets waits t
  have landed : Undisturbed s t := landMarked key _ _ s
  split
  · exact landed
  · exact landed.trans (onFrames (fun _ => by rfl) (fun _ => by rfl) t)

theorem landRuns (runs : List Sys2Proof.Run) (poisoned : List Nat) (s : State) : Undisturbed s (s.landRuns runs poisoned) := landHeld none runs _ s

theorem wakeHarvest (n : Nat) (s : State) : Undisturbed s (s.wakeHarvest n) := by
  unfold State.wakeHarvest
  split
  · exact refl s
  · exact of_hub rfl rfl

theorem addRecord (r : ErrRecord) (s : State) : Undisturbed s (s.addRecord r) := by
  unfold State.addRecord
  split
  · exact ⟨rfl, fun _ => rfl, fun _ => rfl, fun _ => rfl⟩
  · refine trans (trans ?log (onPart ?xlat ?trowels _ _)) (wakeHarvest _ _)
    case log => exact ⟨rfl, fun _ => rfl, fun _ => rfl, fun _ => rfl⟩
    case xlat => exact fun _ => rfl
    case trowels => exact fun _ => rfl

theorem hubRuns (n engine : Nat) (runs : List Sys2Proof.Run) (s : State) : Undisturbed s (s.hubRuns n engine runs) :=
  (landRuns runs _ s).trans (foldl (fun t _ => addRecord _ t) _ _)

theorem vWrite (n engine v : Nat) (bs : List Byte) (s : State) : Undisturbed s (s.vWrite n engine v bs) := hubRuns n engine _ s

theorem writeFence (n a : Nat) (v : Word) (s : State) : Undisturbed s (s.writeFence n a v) := by
  unfold State.writeFence
  split
  · exact refl s
  · exact vWrite n 30 a _ s

theorem pollNext (n q : Nat) (s : State) : Undisturbed s (s.pollNext n q) := by
  unfold State.pollNext
  split
  · exact refl s
  · exact of_hub rfl rfl

theorem freeQueue (c : Cmd) (s : State) : Undisturbed s (s.freeQueue c) := by
  refine trans (onPart (f := fun p => { p with queues := vmod p.queues c.queue fun u => { u with active := none } }) (fun _ => rfl) (fun _ => rfl) s c.part) ?_
  unfold State.freeQueue
  dsimp only
  split
  · exact of_hub rfl rfl
  · exact pollNext _ _ _

theorem complete (c : Cmd) (s : State) : Undisturbed s (s.complete c) := (writeFence _ _ _ s).trans (freeQueue c _)

end Undisturbed

/-! ## What the end of a command and a record make of the hub (R324, R335) -/

@[simp] theorem State.pollNext_hub (n q : Nat) (s : State) : (s.pollNext n q).hub = s.hub := by
  unfold State.pollNext; split <;> rfl

theorem State.freeQueue_hub (c : Cmd) (s : State) : (s.freeQueue c).hub = (s.updQueue c.part c.queue fun u => { u with active := none }).hub := by
  unfold State.freeQueue
  dsimp only
  split
  · rfl
  · exact State.pollNext_hub _ _ _

@[simp] theorem State.freeQueue_log (c : Cmd) (s : State) : (s.freeQueue c).hub.log = s.hub.log := by rw [State.freeQueue_hub]; rfl

@[simp] theorem State.wakeHarvest_hub (n : Nat) (s : State) : (s.wakeHarvest n).hub = s.hub := by
  unfold State.wakeHarvest; split <;> rfl

/-- A record of no context precedes no other. -/
theorem settleRecord_fst {r : ErrRecord} (nobody : r.who = none) (waits : ErrRecord → Bool) (l : List ErrRecord) : (settleRecord waits r l).1 = r := by
  have last (x : ErrRecord) : recPrecedes r x = false := by simp [recPrecedes, nobody]
  induction l with
  | nil => rfl
  | cons x l ih =>
    simp only [settleRecord, last, Bool.false_and, Bool.false_eq_true, if_false]
    split
    · rfl
    · exact ih

/-- A record of no context is the newest of the log. -/
theorem State.addRecord_newest {r : ErrRecord} (nobody : r.who = none) (s : State) : ((s.addRecord r).hub.log.head?).map (·.code) = some r.code := by
  unfold State.addRecord
  split <;> simp [State.onPart, placeRecord, logSize, settleRecord_fst, nobody]

/-! ## One page of virtual memory -/

/-- The check of R239 reads nothing but the page's entry. -/
theorem Part.pageFault_congr {p q : Part} {k : Nat} (h : q.xlatEntry k = p.xlatEntry k) (write : Bool) : q.pageFault write k = p.pageFault write k := by
  simp only [Part.pageFault, h]

/-- A run of some bytes that does not leave its page is one piece. -/
theorem vPages_single {v len : Nat} (pos : 0 < len) (fits : v % 2 ^ 21 + len ≤ 2 ^ 21) : vPages v len = [(v / 2 ^ 21, v % 2 ^ 21, len)] := by
  have last : (v + len - 1) / 2 ^ 21 - v / 2 ^ 21 + 1 = 1 := by omega
  have lo : max v ((v / 2 ^ 21 + 0) * 2 ^ 21) = v := by omega
  have hi : min (v + len) ((v / 2 ^ 21 + 0 + 1) * 2 ^ 21) = v + len := by omega
  simp only [vPages, Nat.pos_iff_ne_zero.mp pos, if_false, last, List.range_one, List.map_cons, List.map_nil, lo, hi, Nat.add_sub_cancel_left]

/-- The eight bytes of a number at a multiple of eight do not leave their page. -/
theorem fits_of_aligned {a : Nat} (h : a % 8 = 0) : a % 2 ^ 21 + 8 ≤ 2 ^ 21 := by omega

end Sys2Proof.Machine

namespace Sys2Proof.Claim

open Sys2Proof Sys2Proof.Machine

theorem vRuns_single {s : State} {n v len : Nat} (pos : 0 < len) (fits : v % 2 ^ 21 + len ≤ 2 ^ 21) : s.vRuns n v len = [(virtAt s n v, len)] := by
  simp only [State.vRuns, vPages_single pos fits, List.map_cons, List.map_nil, virtAt]

theorem vFault_single {s : State} {n v len : Nat} {write : Bool} (pos : 0 < len) (fits : v % 2 ^ 21 + len ≤ 2 ^ 21) :
    s.vFault n write v len = (s.partAt n).pageFault write (v / 2 ^ 21) := by
  simp only [State.vFault, vPages_single pos fits, List.findSome?_cons, List.findSome?_nil]
  cases (s.partAt n).pageFault write (v / 2 ^ 21) <;> rfl

theorem frameOf_virtAt (s : State) (n v : Nat) : frameOf (virtAt s n v) = some (entryFrame ((s.partAt n).xlatEntry (v / 2 ^ 21))) :=
  frameOf_frameBase_add (Nat.mod_lt _ (by decide))

theorem vMoves_single {s : State} {n v len : Nat} (pos : 0 < len) (fits : v % 2 ^ 21 + len ≤ 2 ^ 21) :
    s.vMoves n v len = (s.moveOf (entryFrame ((s.partAt n).xlatEntry (v / 2 ^ 21)))).isSome := by
  simp [State.vMoves, vRuns_single pos fits, State.heldByMove_eq, frameOf_virtAt]

/-- R246. No page that is here moves. -/
theorem vMoves_of_here {s : State} {n v len : Nat} (here : Here s n v len) : s.vMoves n v len = false := by
  rw [State.vMoves, State.heldByMove_eq, List.any_eq_false]
  intro a ha
  obtain ⟨r, hr, rfl⟩ := List.mem_map.mp ha
  cases hf : frameOf r.1 with
  | none => simp
  | some f =>
    have still : s.moveOf f = none := State.moveOf_eq_none fun x hx => (here r hr f x hf hx).1
    simp [still]

/-- R244. Pages that are here are read as this chip holds them. -/
theorem refreshFar_of_here {s : State} {n v len : Nat} (here : Here s n v len) :
    s.refreshFar ((s.vRuns n v len).filterMap fun r => frameOf r.1) = s := by
  have noneFar : (((s.vRuns n v len).filterMap fun r => frameOf r.1).filter fun f =>
      ((s.frame f).map fun x => x.far.isSome && x.moving.isNone) == some true) = [] := by
    rw [List.filter_eq_nil_iff]
    intro f hf
    obtain ⟨r, hr, hrf⟩ := List.mem_filterMap.mp hf
    cases hx : s.frame f with
    | none => simp
    | some x => simp [(here r hr f x hrf hx).2]
  rw [State.refreshFar, noneFar, List.foldl_nil]

theorem vFresh_of_here {s : State} {n v len : Nat} (here : Here s n v len) : s.vFresh n v len = s := refreshFar_of_here here

end Sys2Proof.Claim

namespace Sys2Proof.Machine

open Sys2Proof.Claim

/-! ## Reading what the hub has written -/

/-- Of the runs that land, those of frames that move are not in memory yet. -/
theorem State.landHeld_mem (key : CipherKey) (runs : List Sys2Proof.Run) (marks : List (Nat × W32)) (s : State) :
    (s.landHeld key runs marks).mem = (runs.filter fun r => !s.heldByMove [r.addr]).foldl (fun m r => writeRun m r.addr r.bytes) s.mem := by
  simp only [State.landHeld]
  split <;> simp [State.landMarked]

theorem State.landRuns_mem (runs : List Sys2Proof.Run) (poisoned : List Nat) (s : State) :
    (s.landRuns runs poisoned).mem = (runs.filter fun r => !s.heldByMove [r.addr]).foldl (fun m r => writeRun m r.addr r.bytes) s.mem :=
  s.landHeld_mem none runs _

/-- A run that stays within a page which does not move is written at its physical place. -/
theorem State.vWrite_mem {s : State} {n engine v : Nat} {bs : List Byte} (pos : 0 < bs.length) (fits : v % 2 ^ 21 + bs.length ≤ 2 ^ 21)
    (still : s.vMoves n v bs.length = false) : (s.vWrite n engine v bs).mem = writeRun s.mem (virtAt s n v) bs := by
  rw [State.vMoves, vRuns_single pos fits, List.map_cons, List.map_nil] at still
  simp only [State.vWrite, vRuns_single pos fits, cutRuns, List.take_length, State.hubRuns]
  rw [foldl_mem _ _ _ fun t a => State.addRecord_mem _ t, State.landRuns_mem]
  simp [still]

theorem State.readRun_vWrite {s : State} {n engine v : Nat} {bs : List Byte} (fits : v % 2 ^ 21 + bs.length ≤ 2 ^ 21)
    (still : s.vMoves n v bs.length = false) : readRun (s.vWrite n engine v bs).mem (virtAt s n v) bs.length = bs := by
  rcases Nat.eq_zero_or_pos bs.length with empty | pos
  · obtain rfl := List.length_eq_zero_iff.mp empty
    rfl
  · rw [State.vWrite_mem pos fits still, readRun_writeRun]

/-- A word at a multiple of eight is read back. -/
theorem State.readLe_vWrite {s : State} {n engine a w : Nat} (aligned : a % 8 = 0) (word : w < 2 ^ 64) (still : s.vMoves n a 8 = false) :
    readLe (s.vWrite n engine a (leBytes 8 w)).mem (virtAt s n a) 8 = w := by
  have len := length_leBytes 8 w
  have back := State.readRun_vWrite (engine := engine) (bs := leBytes 8 w) (by rw [len]; exact fits_of_aligned aligned) (by rwa [len])
  rw [len] at back
  rw [readLe, back, leVal_leBytes word]

/-- Runs of zeros leave a byte zero that one of them covers, in whatever order they land. -/
theorem readByte_zeroRuns {l : List Sys2Proof.Run} (zero : ∀ r ∈ l, ∀ i, r.bytes.getD i 0 = 0) {a : Nat} (m : Memory)
    (h : readByte m a = 0 ∨ ∃ r ∈ l, r.addr ≤ a ∧ a < r.addr + r.bytes.length) :
    readByte (l.foldl (fun m r => writeRun m r.addr r.bytes) m) a = 0 := by
  induction l generalizing m with
  | nil => simpa using h
  | cons r l ih =>
    rw [List.foldl_cons]
    refine ih (fun q hq => zero q (List.mem_cons_of_mem _ hq)) _ ?_
    rw [readByte_writeRun]
    by_cases covers : r.addr ≤ a ∧ a < r.addr + r.bytes.length
    · exact .inl (by rw [if_pos covers, zero r List.mem_cons_self])
    · rw [if_neg covers]
      refine h.imp_right fun ⟨q, hq, hc⟩ => ⟨q, (List.mem_cons.mp hq).resolve_left ?_, hc⟩
      rintro rfl
      exact covers hc

/-! ## Lists -/

/-- The first element that satisfies p is the one that is replaced. -/
theorem getElem?_listMod {α : Type} {p : α → Bool} {f : α → α} {l : List α} {i : Nat} {x : α} (found : l[i]? = some x) (hit : p x = true)
    (first : ∀ j < i, ∀ y, l[j]? = some y → p y = false) : (listMod p f l)[i]? = some (f x) := by
  induction l generalizing i with
  | nil => simp at found
  | cons y l ih =>
    cases i with
    | zero =>
      obtain rfl : y = x := by simpa using found
      simp [listMod, hit]
    | succ i =>
      have miss : p y = false := first 0 (Nat.succ_pos i) y rfl
      simp only [listMod, miss, Bool.false_eq_true, if_false, List.getElem?_cons_succ]
      exact ih (by simpa using found) fun j hj z hz => first (j + 1) (Nat.succ_lt_succ hj) z (by simpa using hz)

end Sys2Proof.Machine

/-! # The end of a command, and the commands that read or write memory -/

namespace Sys2Proof.Commands

open Sys2Proof Sys2Proof.Machine Sys2Proof.Claim

/-! ## The fence (R324, R325) -/

/-- From s to u every page that partition n may write keeps its entry, and every frame its move. -/
structure KeepsWritable (n : Nat) (s u : State) : Prop where
  entry : ∀ k, (s.partAt n).pageFault true k = none → (u.partAt n).xlatEntry k = (s.partAt n).xlatEntry k
  moveOf : ∀ f, u.moveOf f = s.moveOf f

theorem keepsWritable_of_undisturbed {s u : State} (n : Nat) (h : Undisturbed s u) : KeepsWritable n s u :=
  ⟨fun k _ => by simp only [Part.xlatEntry, h.xlat], h.moveOf⟩

/-- A fence that could be written before takes its value. -/
theorem readLe_writeFence {s u : State} {n a : Nat} (v : Word) (keeps : KeepsWritable n s u) (named : a ≠ 0) (aligned : a % 8 = 0)
    (here : Here s n a 8) (mapped : s.vFault n true a 8 = none) : readLe (u.writeFence n a v).mem (virtAt s n a) 8 = v.toNat := by
  have fits := fits_of_aligned aligned
  rw [vFault_single (by decide) fits] at mapped
  have entry := keeps.entry _ mapped
  have place : virtAt u n a = virtAt s n a := by simp only [virtAt, entry]
  have mapped' : u.vFault n true a 8 = none := by rw [vFault_single (by decide) fits, Part.pageFault_congr entry, mapped]
  have still : u.vMoves n a 8 = false := by
    have := vMoves_of_here here
    rwa [vMoves_single (by decide) fits, ← entry, ← keeps.moveOf, ← vMoves_single (by decide) fits] at this
  have written : u.writeFence n a v = u.vWrite n 30 a (leBytes 8 v.toNat) := by simp [State.writeFence, named, mapped']
  rw [written, ← place, State.readLe_vWrite aligned v.isLt still]

/-! ## The queue is free again (R324) -/

theorem queueAt_freeQueue {c : Cmd} (real : RealCmd c) (s : State) : (queueAt (s.freeQueue c) c.part c.queue).map (·.active) = some none := by
  obtain ⟨part, queue, -⟩ := real
  have cleared : (s.freeQueue c).partAt c.part = { s.partAt c.part with queues := vmod (s.partAt c.part).queues c.queue fun u => { u with active := none } } := by
    rw [State.partAt, State.freeQueue_hub]
    exact State.partAt_onPart part
  simp [queueAt, cleared, vmod, queue]

/-- A command is over once its fence is written, whatever records come before its queue is freed. -/
theorem ends_freeQueue {s u t : State} {c : Cmd} {v : Word} (real : RealCmd c) (keeps : KeepsWritable c.part s u)
    (mem : t.mem = (u.writeFence c.part (c.num 6) v).mem) : Ends s (t.freeQueue c) c v := by
  refine ⟨queueAt_freeQueue real t, fun named aligned here mapped => ?_⟩
  rw [State.freeQueue_mem, mem, readLe_writeFence v keeps named aligned here mapped]

theorem completed_of_keepsWritable {s u : State} {c : Cmd} (real : RealCmd c) (keeps : KeepsWritable c.part s u) : Completed s (u.complete c) c :=
  ends_freeQueue real keeps rfl

/-- A command without a fence writes nothing when it completes. -/
theorem complete_mem_of_lone {c : Cmd} (lone : c.num 6 = 0) (s : State) : (s.complete c).mem = s.mem := by
  simp [State.complete, State.writeFence, lone]

/-! ## The record of a failure (R335) -/

theorem failed_of_keepsWritable {s u : State} {c : Cmd} {r : ErrRecord} (real : RealCmd c) (keeps : KeepsWritable c.part s u) (nobody : r.who = none) :
    Failed s (u.failWith c r) c r.code :=
  ⟨ends_freeQueue real keeps (State.addRecord_mem _ _), by rw [State.failWith, State.freeQueue_log]; exact State.addRecord_newest nobody _⟩

/-! ## Commands that deliver bytes: SIGNAL, BUDGET_READ, the quote (R291, R325, R348) -/

theorem completed_vWrite {c : Cmd} (real : RealCmd c) (s : State) (v : Nat) (bs : List Byte) :
    Completed s ((s.vWrite c.part 30 v bs).complete c) c :=
  completed_of_keepsWritable real (keepsWritable_of_undisturbed _ (.vWrite _ _ _ _ s))

/-- A word is delivered at a multiple of eight. -/
theorem readLe_delivered {s : State} {c : Cmd} {v w : Nat} (word : w < 2 ^ 64) (lone : c.num 6 = 0) (aligned : v % 8 = 0) (here : Here s c.part v 8) :
    readLe ((s.vWrite c.part 30 v (leBytes 8 w)).complete c).mem (virtAt s c.part v) 8 = w := by
  rw [complete_mem_of_lone lone, State.readLe_vWrite aligned word (vMoves_of_here here)]

theorem exec_signal {s : State} {c : Cmd} (writable : s.vFault c.part true (c.num 1) 8 = none) :
    exec (.signal c) s = .next ((s.vWrite c.part 30 (c.num 1) (leBytes 8 (c.num 2))).complete c) := by
  change execSignal c s = _
  simp [execSignal, State.signal, writable]

theorem signal_leads {s : State} {c : Cmd} (real : RealCmd c) (writable : s.vFault c.part true (c.num 1) 8 = none) :
    Leads (.signal c) s fun t => Completed s t c ∧
      (c.num 6 = 0 → c.num 1 % 8 = 0 → Here s c.part (c.num 1) 8 → readLe t.mem (virtAt s c.part (c.num 1)) 8 = c.num 2) :=
  ⟨_, exec_signal writable, completed_vWrite real s _ _, readLe_delivered (c.word 2).isLt⟩

/-- What BUDGET_READ reads: the owner's budget; 0 without an owner. -/
def budgetOf (s : State) (n : Nat) : Nat :=
  match (s.partAt n).owner with
  | none => 0
  | some o => (s.budget o).toNat

theorem budgetOf_lt (s : State) (n : Nat) : budgetOf s n < 2 ^ 64 := by
  unfold budgetOf
  split
  · decide
  · exact BitVec.isLt _

theorem exec_budgetRead {s : State} {c : Cmd} (writable : s.vFault c.part true (c.num 1) 8 = none) :
    exec (.budgetRead c) s = .next ((s.vWrite c.part 30 (c.num 1) (leBytes 8 (budgetOf s c.part))).complete c) := by
  change execBudgetRead c s = _
  simp only [execBudgetRead, writable, Option.isSome_none, Bool.false_eq_true, if_false, budgetOf]
  cases (s.partAt c.part).owner <;> rfl

theorem budgetRead_leads {s : State} {c : Cmd} (real : RealCmd c) (writable : s.vFault c.part true (c.num 1) 8 = none) :
    Leads (.budgetRead c) s fun t => Completed s t c ∧
      (c.num 6 = 0 → c.num 1 % 8 = 0 → Here s c.part (c.num 1) 8 → readLe t.mem (virtAt s c.part (c.num 1)) 8 = budgetOf s c.part) :=
  ⟨_, exec_budgetRead writable, completed_vWrite real s _ _, readLe_delivered (budgetOf_lt s _)⟩

/-- The quote that a command asks for, over the nonce as memory holds it. -/
def quoteOf (s : State) (c : Cmd) : List Byte := s.quote c.part (c.num 3) (s.vRead c.part (c.num 1) 48)

section
variable {s : State} {c : Cmd} (nonceHere : Here s c.part (c.num 1) 48) (readable : s.vFault c.part false (c.num 1) 48 = none)
  (writable : s.vFault c.part true (c.num 2) (quoteOf s c).length = none)
include nonceHere readable writable

theorem exec_attestQuote : exec (.attestQuote c) s = .next ((s.vWrite c.part 30 (c.num 2) (quoteOf s c)).complete c) := by
  change execAttestQuote c s = _
  rw [quoteOf] at writable
  simp only [execAttestQuote, vFresh_of_here nonceHere, readable, vMoves_of_here nonceHere, writable, Option.isSome_none, Bool.false_eq_true, if_false,
    quoteOf]

theorem attestQuote_leads (real : RealCmd c) (here : Here s c.part (c.num 2) (quoteOf s c).length) :
    Leads (.attestQuote c) s fun t => Completed s t c ∧
      (c.num 6 = 0 → c.num 2 % 2 ^ 21 + (quoteOf s c).length ≤ 2 ^ 21 →
        readRun t.mem (virtAt s c.part (c.num 2)) (quoteOf s c).length = quoteOf s c) := by
  refine ⟨_, exec_attestQuote nonceHere readable writable, completed_vWrite real s _ _, fun lone fits => ?_⟩
  rw [complete_mem_of_lone lone, State.readRun_vWrite fits (vMoves_of_here here)]

end

/-! ## Host DMA (R17, R313, R325) -/

/-- The instruction enters an event of a later cycle, and does nothing else. -/
def Waits (s : State) (i : Instr) (cyc : Nat) (j : Instr) : Prop := Leads i s fun t => OnlyAgenda s t ∧ Coming t cyc j

theorem coming_schedule (s : State) (cyc phase : Nat) (j : Instr) : Coming (s.schedule cyc phase j) cyc j := ⟨_, s.mem_schedule cyc phase j, rfl, rfl⟩

theorem waits_of_schedule {s : State} {i j : Instr} {cyc : Nat} (h : exec i s = .next (s.schedule cyc phExternal j)) : Waits s i cyc j :=
  ⟨_, h, rfl, coming_schedule s cyc phExternal j⟩

/-- The checks of a copy whose bytes have not moved: host DMA is the partition's at some cycle, its pages are mapped and permitted, and
no context holds one. -/
structure Passes (s : State) (c : Cmd) (write : Bool) (v : Nat) : Prop where
  unmoved : c.mark = 0
  owns : s.dmaMask c.part ≠ 0
  mapped : s.vFault c.part write v (c.num 3) = none
  free : (vPages v (c.num 3)).any (fun x => s.pageHeld c.part x.1) = false

/-- The record of a copy over a sector that failed its check names the sector. -/
def copyRecord (s : State) (c : Cmd) : ErrRecord := { s.partRecord c.part 0x0C01 3 17 0 0 0 with addr := some (placeOf 64 (c.mark - 2)) }

section
variable {s : State} {c : Cmd} {ev : Cmd → Instr} {write : Bool} {v : Nat} {move : State → State × Nat}

/-- What is left of a copy that passes its checks: to begin, to await its cycle, to await a move's end, to move its bytes. -/
theorem hostCopy_of_passes (p : Passes s c write v) :
    s.hostCopy c ev write v move =
      if !c.begun then s.schedule (ownedAt (s.dmaMask c.part) s.now (max 1 ((c.num 3 + 255) / 256))) phExternal (ev { c with begun := true })
      else if ownedAt (s.dmaMask c.part) s.now 1 ≠ s.now then s.schedule (ownedAt (s.dmaMask c.part) s.now 1) phExternal (ev c)
      else if s.vMoves c.part v (c.num 3) then s.schedule (ownedAt (s.dmaMask c.part) (s.now + 1) 1) phExternal (ev c)
      else (move s).1.again (pollSlot c.queue) (ev { c with mark := (move s).2 }) := by
  obtain ⟨unmoved, owns, mapped, free⟩ := p
  dsimp only [State.hostCopy]
  rw [if_neg fun moved => moved unmoved, if_neg owns, mapped, free]
  rfl

/-- With the last of its cycles the copy moves its bytes, and tells its outcome in its queue's next slot. -/
theorem hostCopy_moves (p : Passes s c write v) (begun : c.begun = true) (last : ownedAt (s.dmaMask c.part) s.now 1 = s.now)
    (still : s.vMoves c.part v (c.num 3) = false) :
    s.hostCopy c ev write v move = (move s).1.again (pollSlot c.queue) (ev { c with mark := (move s).2 }) := by
  rw [hostCopy_of_passes p]
  simp [begun, last, still]

variable (arm : exec (ev c) s = .next (s.hostCopy c ev write v move))
include arm

/-- A partition without a cycle of host DMA. -/
theorem copy_unowned (unmoved : c.mark = 0) (unowned : s.dmaMask c.part = 0) :
    Waits s (ev c) (nextSlot s.now (pollSlot c.queue)) (ev { c with begun := false }) :=
  waits_of_schedule (arm.trans (by simp [State.hostCopy, unmoved, unowned, State.again]))

theorem copy_begins (p : Passes s c write v) (fresh : c.begun = false) :
    Waits s (ev c) (ownedAt (s.dmaMask c.part) s.now (max 1 ((c.num 3 + 255) / 256))) (ev { c with begun := true }) :=
  waits_of_schedule (arm.trans (by rw [hostCopy_of_passes p]; simp [fresh]))

theorem copy_awaits_cycle (p : Passes s c write v) (begun : c.begun = true) (early : ownedAt (s.dmaMask c.part) s.now 1 ≠ s.now) :
    Waits s (ev c) (ownedAt (s.dmaMask c.part) s.now 1) (ev c) :=
  waits_of_schedule (arm.trans (by rw [hostCopy_of_passes p]; simp [begun, early]))

theorem copy_awaits_move (p : Passes s c write v) (begun : c.begun = true) (last : ownedAt (s.dmaMask c.part) s.now 1 = s.now)
    (moves : s.vMoves c.part v (c.num 3) = true) : Waits s (ev c) (ownedAt (s.dmaMask c.part) (s.now + 1) 1) (ev c) :=
  waits_of_schedule (arm.trans (by rw [hostCopy_of_passes p]; simp [begun, last, moves]))

/-- A copy whose bytes have moved completes. -/
theorem copy_completes (real : RealCmd c) (moved : c.mark = 1) : Leads (ev c) s fun t => Completed s t c ∧ t.hostMem = s.hostMem := by
  refine ⟨s.complete c, arm.trans (by simp [State.hostCopy, State.hostCopied, moved]), ?_, State.complete_hostMem c s⟩
  exact completed_of_keepsWritable real (keepsWritable_of_undisturbed _ (.refl s))

/-- R313. A copy over a sector that failed its check fails. -/
theorem copy_fails (real : RealCmd c) (bad : 1 < c.mark) : Leads (ev c) s fun t => Failed s t c 0x0C01 := by
  have moved : c.mark ≠ 0 := by omega
  have told : c.mark ≠ 1 := by omega
  refine ⟨s.failWith c (copyRecord s c), arm.trans (congrArg _ ?_), failed_of_keepsWritable real (keepsWritable_of_undisturbed _ (.refl s)) rfl⟩
  simp only [State.hostCopy, State.hostCopied, moved, told, ne_eq, not_false_iff, if_true, if_false, copyRecord]

end

/-! ### COPY_IN -/

/-- The bytes that COPY_IN has read from host memory, written; the mark of a copy that has moved them. -/
def copiedIn (c : Cmd) (s : State) : State × Nat := (s.vWrite c.part 17 (c.num 2) (readRun s.hostMem (c.num 1) (c.num 3)), 1)

theorem exec_copyIn (c : Cmd) (s : State) : exec (.copyIn c) s = .next (s.hostCopy c .copyIn true (c.num 2) (copiedIn c)) := rfl

theorem copyIn_moves {s : State} {c : Cmd} (p : Passes s c true (c.num 2)) (begun : c.begun = true)
    (last : ownedAt (s.dmaMask c.part) s.now 1 = s.now) (here : Here s c.part (c.num 2) (c.num 3)) :
    Leads (.copyIn c) s fun t => t.hostMem = s.hostMem ∧ Coming t (nextSlot s.now (pollSlot c.queue)) (.copyIn { c with mark := 1 }) ∧
      (0 < c.num 3 → c.num 2 % 2 ^ 21 + c.num 3 ≤ 2 ^ 21 →
        readRun t.mem (virtAt s c.part (c.num 2)) (c.num 3) = readRun s.hostMem (c.num 1) (c.num 3)) := by
  have still := vMoves_of_here here
  have len := length_readRun s.hostMem (c.num 1) (c.num 3)
  have now := (Undisturbed.vWrite c.part 17 (c.num 2) (readRun s.hostMem (c.num 1) (c.num 3)) s).now
  refine ⟨_, (exec_copyIn c s).trans (congrArg _ (hostCopy_moves p begun last still)), ?_, ?_, fun _ fits => ?_⟩
  · simp [State.again, copiedIn]
  · rw [← now]
    exact coming_schedule _ _ _ _
  · have back := State.readRun_vWrite (engine := 17) (bs := readRun s.hostMem (c.num 1) (c.num 3)) (by rwa [len]) (by rwa [len])
    rwa [len] at back

/-! ### COPY_OUT -/

/-- The sectors of a virtual run that fail their check. -/
def failingAt (s : State) (n v len : Nat) : List Nat := (s.vRuns n v len).flatMap fun r => s.failing (s.entryKey r.1) r.1 r.2

/-- The bytes that COPY_OUT delivers to host memory, as stored; the mark names the first sector that fails, and is 1 without one. -/
def copiedOut (c : Cmd) (s : State) : State × Nat :=
  let u := s.vFresh c.part (c.num 1) (c.num 3)
  ({ u with hostMem := writeRun u.hostMem (c.num 2) (u.vRead c.part (c.num 1) (c.num 3)) },
    (((s.vRuns c.part (c.num 1) (c.num 3)).flatMap fun r => u.failing (u.entryKey r.1) r.1 r.2).head?.map (· + 2)).getD 1)

theorem exec_copyOut (c : Cmd) (s : State) : exec (.copyOut c) s = .next (s.hostCopy c .copyOut false (c.num 1) (copiedOut c)) := rfl

/-- From pages that are here this chip's bytes are delivered. -/
theorem copiedOut_of_here {s : State} {c : Cmd} (here : Here s c.part (c.num 1) (c.num 3)) :
    copiedOut c s = ({ s with hostMem := writeRun s.hostMem (c.num 2) (s.vRead c.part (c.num 1) (c.num 3)) },
      ((failingAt s c.part (c.num 1) (c.num 3)).head?.map (· + 2)).getD 1) := by
  rw [copiedOut, vFresh_of_here here, failingAt]

theorem copyOut_moves {s : State} {c : Cmd} (p : Passes s c false (c.num 1)) (begun : c.begun = true)
    (last : ownedAt (s.dmaMask c.part) s.now 1 = s.now) (here : Here s c.part (c.num 1) (c.num 3)) :
    Leads (.copyOut c) s fun t => t.mem = s.mem ∧ t.hostMem = writeRun s.hostMem (c.num 2) (s.vRead c.part (c.num 1) (c.num 3)) ∧
      ((∀ r ∈ s.vRuns c.part (c.num 1) (c.num 3), s.failing (s.entryKey r.1) r.1 r.2 = []) →
        Coming t (nextSlot s.now (pollSlot c.queue)) (.copyOut { c with mark := 1 })) ∧
      (∀ r a l, s.vRuns c.part (c.num 1) (c.num 3) = [r] → s.failing (s.entryKey r.1) r.1 r.2 = a :: l →
        Coming t (nextSlot s.now (pollSlot c.queue)) (.copyOut { c with mark := a + 2 })) := by
  have moved := hostCopy_moves (ev := .copyOut) (move := copiedOut c) p begun last (vMoves_of_here here)
  rw [copiedOut_of_here here] at moved
  refine ⟨_, (exec_copyOut c s).trans (congrArg _ moved), rfl, rfl, fun good => ?_, fun r a l single fails => ?_⟩
  · have noneFail : failingAt s c.part (c.num 1) (c.num 3) = [] := List.flatMap_eq_nil_iff.mpr good
    rw [noneFail]
    exact coming_schedule _ _ _ _
  · have first : failingAt s c.part (c.num 1) (c.num 3) = a :: l := by simp [failingAt, single, fails]
    rw [first]
    exact coming_schedule _ _ _ _

/-! ## SCRUB (R315) -/

/-- Bit 28 of an entry, quarantine, is cleared (R315). -/
def unquarantined (e : Word) : Word := e &&& ~~~(BitVec.ofNat 64 (2 ^ 28))

theorem unquarantined_bit (e : Word) (i : Nat) : (unquarantined e).getLsbD i = (e.getLsbD i && decide (i ≠ 28)) := by
  have bit28 : BitVec.ofNat 64 (2 ^ 28) = BitVec.twoPow 64 28 := by decide
  rw [unquarantined, bit28, BitVec.getLsbD_and, BitVec.getLsbD_not, BitVec.getLsbD_twoPow]
  by_cases h : i < 64
  · simp [h, eq_comm]
  · simp [BitVec.getLsbD_of_ge e i (by omega)]

theorem unquarantined_eq_self {e : Word} (h : e.getLsbD 28 = false) : unquarantined e = e := by
  refine BitVec.eq_of_getLsbD_eq fun i _ => ?_
  rw [unquarantined_bit]
  by_cases hi : i = 28
  · rw [hi, h, Bool.false_and]
  · simp [hi]

/-- Pages of a SCRUB, and the frames of those that are mapped. -/
def scrubPages (c : Cmd) : List Nat := (List.range (c.num 2)).map fun i => c.num 1 + i
def scrubFrames (s : State) (c : Cmd) : List Nat :=
  ((scrubPages c).filter fun k => ((s.partAt c.part).xlatEntry k).getLsbD 0).map fun k => entryFrame ((s.partAt c.part).xlatEntry k)

theorem mem_scrubPages {c : Cmd} {k : Nat} (lo : c.num 1 ≤ k) (hi : k < c.num 1 + c.num 2) : k ∈ scrubPages c :=
  List.mem_map.mpr ⟨k - c.num 1, List.mem_range.mpr (by omega), by omega⟩

/-- The frames of a SCRUB zero, encrypted anew and counted as not written. -/
def zeroed (c : Cmd) (s : State) : State :=
  ((s.landRuns ((scrubFrames s c).map zeroPage) []).rekeyWhole (scrubFrames s c)).onHub fun h =>
    { h with frames := h.frames.map fun f => if (scrubFrames s c).contains f.num then { f with written := false } else f }

/-- The entries of a partition with those of some pages out of quarantine. -/
def cleared (pages : List Nat) (p : Part) : Part :=
  { p with xlat := p.xlat.map fun e => if pages.contains e.1 then (e.1, unquarantined e.2) else e }

/-- What SCRUB makes of the state before it completes. -/
def scrubbed (c : Cmd) (s : State) : State := (zeroed c s).onPart c.part (cleared (scrubPages c))

theorem exec_scrub (c : Cmd) (s : State) : exec (.scrub c) s = .next ((scrubbed c s).complete c) := rfl

theorem undisturbed_zeroed (c : Cmd) (s : State) : Undisturbed s (zeroed c s) := by
  refine ((Undisturbed.landRuns _ _ s).trans (.rekeyWhole _ _)).trans (.onFrames (fun x => ?_) (fun x => ?_) _) <;> split <;> rfl

theorem xlatEntry_cleared (pages : List Nat) (p : Part) (k : Nat) :
    (cleared pages p).xlatEntry k = if pages.contains k then unquarantined (p.xlatEntry k) else p.xlatEntry k := by
  have sameKey : (fun e : Nat × Word => e.1 == k) ∘ (fun e => if pages.contains e.1 then (e.1, unquarantined e.2) else e) = fun e => e.1 == k := by
    funext e; simp only [Function.comp]; split <;> rfl
  simp only [Part.xlatEntry, cleared, List.find?_map, sameKey]
  cases h : p.xlat.find? fun e => e.1 == k with
  | none => simp [unquarantined]
  | some e =>
    have key : e.1 = k := by simpa using List.find?_some h
    simp only [Option.map_some, Option.getD_some, key]
    split <;> rfl

theorem xlatEntry_scrubbed {c : Cmd} (real : RealCmd c) (s : State) (k : Nat) :
    ((scrubbed c s).partAt c.part).xlatEntry k =
      if (scrubPages c).contains k then unquarantined ((s.partAt c.part).xlatEntry k) else (s.partAt c.part).xlatEntry k := by
  obtain ⟨part, -, -⟩ := real
  rw [scrubbed, State.partAt_onPart part, xlatEntry_cleared]
  simp only [Part.xlatEntry, (undisturbed_zeroed c s).xlat]

/-- A page that may be written is not in quarantine, so its entry stays. -/
theorem keepsWritable_scrubbed {c : Cmd} (real : RealCmd c) (s : State) :
    KeepsWritable c.part s (scrubbed c s) := by
  refine ⟨fun k writable => ?_, fun f => by rw [scrubbed, State.moveOf_onPart, (undisturbed_zeroed c s).moveOf]⟩
  have clean : ((s.partAt c.part).xlatEntry k).getLsbD 28 = false := by
    cases q : ((s.partAt c.part).xlatEntry k).getLsbD 28 with
    | false => rfl
    | true => simp [Part.pageFault, entryValid, q] at writable
  rw [xlatEntry_scrubbed real, unquarantined_eq_self clean, ite_self]

theorem zeroPage_addr (f : Nat) : (zeroPage f).addr = frameBase f := rfl
theorem zeroPage_length (f : Nat) : (zeroPage f).bytes.length = 2 ^ 21 := List.length_replicate
theorem zeroPage_zero (f i : Nat) : (zeroPage f).bytes.getD i 0 = 0 := by
  rw [zeroPage, List.getD_eq_getElem?_getD, List.getElem?_replicate]
  split
  · exact Option.getD_some
  · exact Option.getD_none

/-- R315. A frame of a SCRUB that does not move is zero. -/
theorem readByte_scrubbed {s : State} {c : Cmd} {f i : Nat} (mapped : f ∈ scrubFrames s c) (still : s.moveOf f = none) (inside : i < 2 ^ 21) :
    readByte (scrubbed c s).mem (frameBase f + i) = 0 := by
  have landed : (scrubbed c s).mem = (s.landRuns ((scrubFrames s c).map zeroPage) []).mem := by
    rw [scrubbed, State.onPart_mem, zeroed, State.onHub_mem, State.rekeyWhole_mem]
  have run : zeroPage f ∈ ((scrubFrames s c).map zeroPage).filter fun r => !s.heldByMove [r.addr] := by
    have : frameOf (frameBase f) = some f := by rw [← Nat.add_zero (frameBase f), frameOf_frameBase_add (by decide)]
    refine List.mem_filter.mpr ⟨List.mem_map_of_mem mapped, ?_⟩
    rw [zeroPage_addr, State.heldByMove_eq]
    simp only [List.any_cons, List.any_nil, this, Option.bind_some, still, Option.isSome_none, Bool.or_false, Bool.not_false]
  rw [landed, State.landRuns_mem]
  refine readByte_zeroRuns (fun r hr => ?_) _ (.inr ⟨_, run, ?_⟩)
  · obtain ⟨mem, -⟩ := List.mem_filter.mp hr
    obtain ⟨g, -, rfl⟩ := List.mem_map.mp mem
    exact zeroPage_zero g
  · rw [zeroPage_addr, zeroPage_length]
    exact ⟨Nat.le_add_right _ _, Nat.add_lt_add_left inside _⟩

theorem scrub_leads {s : State} {c : Cmd} (real : RealCmd c) : Leads (.scrub c) s fun t => Completed s t c ∧
    (c.num 6 = 0 → ∀ k, c.num 1 ≤ k → k < c.num 1 + c.num 2 → ((s.partAt c.part).xlatEntry k).getLsbD 0 = true →
      (∀ x, s.frame (entryFrame ((s.partAt c.part).xlatEntry k)) = some x → x.moving = none) →
      ((t.partAt c.part).xlatEntry k).getLsbD 28 = false ∧
      ∀ i, i < 2 ^ 21 → byteAt t (frameBase (entryFrame ((s.partAt c.part).xlatEntry k)) + i) = 0) := by
  refine ⟨_, exec_scrub c s, completed_of_keepsWritable real (keepsWritable_scrubbed real s), fun lone k lo hi valid moves => ⟨?_, fun i inside => ?_⟩⟩
  · have page : (scrubPages c).contains k = true := List.contains_iff_mem.mpr (mem_scrubPages lo hi)
    rw [Part.xlatEntry, (Undisturbed.complete c _).xlat, ← Part.xlatEntry, xlatEntry_scrubbed real, if_pos page, unquarantined_bit]
    simp
  · have mapped : entryFrame ((s.partAt c.part).xlatEntry k) ∈ scrubFrames s c :=
      List.mem_map_of_mem (List.mem_filter.mpr ⟨mem_scrubPages lo hi, valid⟩)
    rw [Claim.byteAt, complete_mem_of_lone lone]
    exact readByte_scrubbed mapped (State.moveOf_eq_none moves) inside

/-! ## TROWEL_RECLAIM (R180) -/

section
variable {s : State} {c : Cmd} {r : TRec} (named : (s.partAt c.part).trowels[c.num 1]? = some r)
include named

theorem exec_trowelReclaim (covers : r.count ≠ 0) :
    exec (.trowelReclaim c) s = .next (((s.reclaim c.part r false).wakeHarvest c.part).complete c) := by
  change execTrowelReclaim c s = _
  simp only [execTrowelReclaim, named, covers, if_false]

theorem trowels_reclaim (part : c.part < 16) (first : ∀ i, i < c.num 1 → (s.partAt c.part).trowels[i]? ≠ some r) :
    ((s.reclaim c.part r false).partAt c.part).trowels[c.num 1]? = some { r with gen := (r.gen + 1) % 256, holder := .home } := by
  simp only [State.reclaim, State.partAt_onPart part, Bool.or_false]
  refine getElem?_listMod named (beq_self_eq_true r) fun i hi y hy => ?_
  exact beq_eq_false_iff_ne.mpr fun e => first i hi (e ▸ hy)

theorem trowelReclaim_leads (real : RealCmd c) (covers : r.count ≠ 0) (first : ∀ i, i < c.num 1 → (s.partAt c.part).trowels[i]? ≠ some r) :
    Leads (.trowelReclaim c) s fun t => Completed s t c ∧
      (t.partAt c.part).trowels[c.num 1]? = some { r with gen := (r.gen + 1) % 256, holder := .home } := by
  have woken := Undisturbed.wakeHarvest c.part (s.reclaim c.part r false)
  refine ⟨_, exec_trowelReclaim named covers, completed_of_keepsWritable real ⟨fun k _ => ?_, woken.moveOf⟩, ?_⟩
  · have xlat : ((s.reclaim c.part r false).partAt c.part).xlat = (s.partAt c.part).xlat :=
      State.onPart_same Part.xlat (fun _ => by rfl) s _ _
    simp only [Part.xlatEntry, woken.xlat, xlat]
  · rw [(woken.trans (.complete c _)).trowels]
    exact trowels_reclaim named real.1 first

end

/-- Settles O46: one lemma for each command; the two copies are the same host DMA but for the way their bytes move. -/
theorem memoryCommands : Obligations.MemoryCommands := by
  intro s c real
  refine ⟨signal_leads real, budgetRead_leads real, ⟨?unowned, ?owned, ?told, ?bad⟩, scrub_leads real, ?quote, fun r named covers first => ?reclaim⟩
  case unowned => exact fun unmoved unowned => ⟨copy_unowned (exec_copyIn c s) unmoved unowned, copy_unowned (exec_copyOut c s) unmoved unowned⟩
  case owned =>
    refine fun unmoved owns => ⟨fun mapped free => ?copyIn, fun mapped free => ?copyOut⟩
    case copyIn =>
      have p : Passes s c true (c.num 2) := ⟨unmoved, owns, mapped, free⟩
      exact ⟨copy_begins (exec_copyIn c s) p, copy_awaits_cycle (exec_copyIn c s) p, copy_awaits_move (exec_copyIn c s) p, copyIn_moves p⟩
    case copyOut =>
      have p : Passes s c false (c.num 1) := ⟨unmoved, owns, mapped, free⟩
      exact ⟨copy_begins (exec_copyOut c s) p, copy_awaits_cycle (exec_copyOut c s) p, copy_awaits_move (exec_copyOut c s) p, copyOut_moves p⟩
  case told => exact fun moved => ⟨copy_completes (exec_copyIn c s) real moved, copy_completes (exec_copyOut c s) real moved⟩
  case bad => exact fun bad => ⟨copy_fails (exec_copyIn c s) real bad, copy_fails (exec_copyOut c s) real bad⟩
  case quote => exact fun nonceHere here readable writable => attestQuote_leads nonceHere readable writable real here
  case reclaim => exact trowelReclaim_leads named real covers first

end Sys2Proof.Commands

/-! # Floating-point arithmetic, order, compares and classes (R86, R105, R109, R124 to R128) -/

namespace Sys2Proof.FloatLanes

open Sys2Proof Sys2Proof.Machine Sys2Proof.Claim Sys2Proof.SpecialFunctions

/-- A source lane's pattern, subnormals flushed as the issuing context has it (R109). -/
def patternAt (s : State) (f : FFmt) (n : Fin 32) (l : Nat) : Nat :=
  (FFmt.fmt f).flush s.core.ctx.flushes (lane (s.core.ctx.rv n.val) l).toNat

/-- Floating-point slot op answers the lanes out: four cycles, and two more for a subnormal among result and sources (R86). -/
def floatOut (s : State) (g : Gate) (m : Fin 8) (f : FFmt) (op : Nat) (d : Fin 32) (srcs : List Lanes) (out : Nat → W32) : Out :=
  vectorOut s g m (4 + subExtra s.core.ctx (s.core.ctx.active g m) (FFmt.fmt f) (lanesOf out :: srcs)) d op f.code out

/-- The numbers v as lanes, each rounded once in mode r to the slot's format (R105). -/
def roundedLanes (s : State) (f : FFmt) (r : Rnd) (v : Nat → Machine.Num) (l : Nat) : W32 :=
  (FFmt.fmt f).out s.core.ctx.flushes r (v l)

section
variable {s : State} {g : Gate} {m : Fin 8} {f : FFmt} {op : Nat} (runs : VectorRuns s g m (FFmt.cap f))
include runs

/-- R122. With an active lane and its format's capability bit in service, a floating-point slot answers the lanes it computes. -/
theorem vecFloat_of_runs (d : Fin 32) (srcs : Ctx → List Lanes) (h : Fmt → Bool → Ctx → Nat → W32) :
    s.vecFloat g m f op d srcs (fun F fl x => lanesOf (h F fl x)) =
      floatOut s g m f op d (srcs s.core.ctx) (h (FFmt.fmt f) s.core.ctx.flushes s.core.ctx) := by
  obtain ⟨active, serves⟩ := runs
  exact State.vec_go _ active serves

/-- R124. An exact function of two sources, rounded lane by lane. -/
theorem vecFloat_rounded₂ (d a b : Fin 32) (r : Rnd) (h : Machine.Num → Machine.Num → Machine.Num) :
    s.vecFloat g m f op d (fun x => [x.rv a.val, x.rv b.val])
        (fun F fl x => map2 (fun w z => F.out fl r (h (F.val fl w) (F.val fl z))) (x.rv a.val) (x.rv b.val)) =
      floatOut s g m f op d [s.core.ctx.rv a.val, s.core.ctx.rv b.val]
        (roundedLanes s f r fun l => h (sourceAt s f a l) (sourceAt s f b l)) :=
  vecFloat_of_runs runs d _ _

/-- R124. An exact function of two sources and the destination's old value, rounded lane by lane. -/
theorem vecFloat_rounded₃ (d a b : Fin 32) (r : Rnd) (h : Machine.Num → Machine.Num → Machine.Num → Machine.Num) :
    s.vecFloat g m f op d (fun x => [x.rv d.val, x.rv a.val, x.rv b.val])
        (fun F fl x => map3 (fun u w z => F.out fl r (h (F.val fl u) (F.val fl w) (F.val fl z))) (x.rv a.val) (x.rv b.val) (x.rv d.val)) =
      floatOut s g m f op d [s.core.ctx.rv d.val, s.core.ctx.rv a.val, s.core.ctx.rv b.val]
        (roundedLanes s f r fun l => h (sourceAt s f a l) (sourceAt s f b l) (sourceAt s f d l)) :=
  vecFloat_of_runs runs d _ _

/-- R126. A function of one source's pattern, lane by lane. -/
theorem vecFloat_pattern₁ (d a : Fin 32) (h : Fmt → Nat → Nat) :
    s.vecFloat g m f op d (fun x => [x.rv a.val])
        (fun F fl x => map1 (fun w => BitVec.ofNat 32 (h F (F.flush fl w.toNat))) (x.rv a.val)) =
      floatOut s g m f op d [s.core.ctx.rv a.val] (fun l => BitVec.ofNat 32 (h (FFmt.fmt f) (patternAt s f a l))) :=
  vecFloat_of_runs runs d _ _

/-- R125. A function of two sources' patterns, lane by lane. -/
theorem vecFloat_pattern₂ (d a b : Fin 32) (h : Fmt → Nat → Nat → Nat) :
    s.vecFloat g m f op d (fun x => [x.rv a.val, x.rv b.val])
        (fun F fl x => map2 (fun w z => BitVec.ofNat 32 (h F (F.flush fl w.toNat) (F.flush fl z.toNat))) (x.rv a.val) (x.rv b.val)) =
      floatOut s g m f op d [s.core.ctx.rv a.val, s.core.ctx.rv b.val]
        (fun l => BitVec.ofNat 32 (h (FFmt.fmt f) (patternAt s f a l) (patternAt s f b l))) :=
  vecFloat_of_runs runs d _ _

/-- R122, R123. Under the same two conditions a slot whose result is a predicate answers the lanes it computes. -/
theorem vecMask_of_runs (p : Fin 32) (L : LaneMask → Ctx → Nat) (holds : Ctx → Nat → Bool) :
    s.vec g m (FFmt.cap f) (fun am t => t.landP (L am t.core.ctx) p am (maskOf (holds t.core.ctx)) (t.vecTag op f.code)) =
      maskOut s g m (L (s.core.ctx.active g m) s.core.ctx) p op f.code (holds s.core.ctx) := by
  obtain ⟨active, serves⟩ := runs
  exact State.vec_go _ active serves

/-- R127. A compare answers, in each active lane, whether its condition holds of the two numbers. -/
theorem exec_fcmp (p a b : Fin 32) (c : FCond) :
    exec (.fcmp g m f p a b c) s =
      maskOut s g m (4 + subExtra s.core.ctx (s.core.ctx.active g m) (FFmt.fmt f) [s.core.ctx.rv a.val, s.core.ctx.rv b.val]) p 10 f.code
        (fun l => FCond.holds c (sourceAt s f a l) (sourceAt s f b l)) :=
  vecMask_of_runs runs p (fun am x => 4 + subExtra x am (FFmt.fmt f) [x.rv a.val, x.rv b.val])
    fun x l => FCond.holds c ((FFmt.fmt f).val x.flushes (lane (x.rv a.val) l)) ((FFmt.fmt f).val x.flushes (lane (x.rv b.val) l))

/-- R128. A class test answers, in each active lane, whether the pattern is of one of the classes asked for. -/
theorem exec_fclass (p a : Fin 32) (k : BitVec 5) :
    exec (.fclass g m f p a k) s =
      maskOut s g m (2 + subExtra s.core.ctx (s.core.ctx.active g m) (FFmt.fmt f) [s.core.ctx.rv a.val]) p 11 f.code
        (fun l => k &&& (FFmt.fmt f).classOf (patternAt s f a l) != 0) :=
  vecMask_of_runs runs p (fun am x => 2 + subExtra x am (FFmt.fmt f) [x.rv a.val])
    fun x l => k &&& (FFmt.fmt f).classOf ((FFmt.fmt f).flush x.flushes (lane (x.rv a.val) l).toNat) != 0

end

/-- The arithmetic slots: each is a rounded slot with its number and its exact function. -/
theorem vectorFloat : Claim.VectorFloat := by
  intro s g m f d a b r runs
  refine ⟨?fadd, ?fsub, ?fmul, ?fma, ?fms, ?fnma⟩
  case fadd => exact vecFloat_rounded₂ runs d a b r (.add r)
  case fsub => exact vecFloat_rounded₂ runs d a b r fun u v => .add r u v.neg
  case fmul => exact vecFloat_rounded₂ runs d a b r .mul
  case fma => exact vecFloat_rounded₃ runs d a b r fun u v w => .add r (.mul u v) w
  case fms => exact vecFloat_rounded₃ runs d a b r fun u v w => .add r (.mul u v) w.neg
  case fnma => exact vecFloat_rounded₃ runs d a b r fun u v w => .add r (Machine.Num.mul u v).neg w

/-- Order and sign act on patterns; a compare and a class test answer a predicate. -/
theorem vectorFloatOrder : Claim.VectorFloatOrder := by
  intro s g m f d a b p c k runs
  refine ⟨?fmin, ?fmax, ?fneg, ?fabs, exec_fcmp runs p a b c, exec_fclass runs p a k⟩
  case fmin => exact vecFloat_pattern₂ runs d a b Fmt.minPat
  case fmax => exact vecFloat_pattern₂ runs d a b Fmt.maxPat
  case fneg => exact vecFloat_pattern₁ runs d a fun F w => w ^^^ F.sign true 0
  case fabs => exact vecFloat_pattern₁ runs d a fun F w => w % F.sign true 0

/-- Settles O12: the arithmetic slots, then order, sign, compare and class. -/
theorem vectorFloatArithmetic : Obligations.VectorFloatArithmetic := ⟨vectorFloat, vectorFloatOrder⟩

end Sys2Proof.FloatLanes

/-! # Vector slots that move or compute lanes (R86, R129 to R139, R302, R303) -/

namespace Sys2Proof.VectorLanes

open Sys2Proof Sys2Proof.Machine Sys2Proof.Claim

section
variable {s : State} {g : Gate} {m : Fin 8} {cap : W32} {op fmt : Nat} (runs : VectorRuns s g m cap)
include runs

/-- R122, R123. A slot that runs answers the lanes it computes, bits as computed. -/
theorem vecMove_of_runs (d : Fin 32) (L : Nat) (h : Ctx → Nat → W32) :
    s.vecMove g m cap op fmt d L (fun x => lanesOf (h x)) = vectorOut s g m L d op fmt (h s.core.ctx) := by
  obtain ⟨active, serves⟩ := runs
  exact State.vec_go _ active serves

/-- A function of one source, lane by lane. -/
theorem vecMove_unary (d a : Fin 32) (L : Nat) (h : W32 → W32) :
    s.vecMove g m cap op fmt d L (fun x => map1 h (x.rv a.val)) =
      vectorOut s g m L d op fmt (fun l => h (lane (s.core.ctx.rv a.val) l)) :=
  vecMove_of_runs runs d L _

/-- A function of two sources, lane by lane. -/
theorem vecMove_binary (d a b : Fin 32) (L : Nat) (h : W32 → W32 → W32) :
    s.vecMove g m cap op fmt d L (fun x => map2 h (x.rv a.val) (x.rv b.val)) =
      vectorOut s g m L d op fmt (fun l => h (lane (s.core.ctx.rv a.val) l) (lane (s.core.ctx.rv b.val) l)) :=
  vecMove_of_runs runs d L _

end

/-! ## Integers (R129 to R132) -/

/-- A pattern is that of its value in either format. -/
@[simp] theorem ofInt_ifmtVal (f : IFmt) (w : W32) : BitVec.ofInt 32 (ifmtVal f w) = w := by
  cases f with
  | i32 => exact BitVec.ofInt_toInt
  | n32 => simp only [ifmtVal, BitVec.ofInt_natCast, BitVec.ofNat_toNat, BitVec.setWidth_eq]

/-- R129. Without .sat a sum is that of the patterns, modulo 2^32 in either format. -/
theorem satOr_false_add (f : IFmt) (v w : W32) : satOr f false (ifmtVal f v + ifmtVal f w) = v + w := by
  simp [satOr, BitVec.ofInt_add]

/-- R129. Without .sat a difference is that of the patterns, modulo 2^32 in either format. -/
theorem satOr_false_sub (f : IFmt) (v w : W32) : satOr f false (ifmtVal f v - ifmtVal f w) = v - w := by
  simp [satOr, Int.sub_eq_add_neg, BitVec.ofInt_add, BitVec.ofInt_neg, BitVec.sub_eq_add_neg]

/-- R132. Equality is that of the patterns, in either format. -/
theorem icondHolds_eq (f : IFmt) (v w : W32) : icondHolds .eq f v w = decide (v = w) := rfl

theorem icondHolds_ne (f : IFmt) (v w : W32) : icondHolds .ne f v w = decide (v ≠ w) := by
  have negated : icondHolds .ne f v w = !icondHolds .eq f v w := rfl
  rw [negated, icondHolds_eq, ← decide_not]

/-- R132. The pattern compare of either format is the order of the numbers. -/
theorem icondHolds_lt (f : IFmt) (v w : W32) : icondHolds .lt f v w = decide (ifmtVal f v < ifmtVal f w) := by
  cases f with
  | i32 => exact BitVec.slt_eq_decide
  | n32 => simp [icondHolds, ifmtVal, BitVec.ult_eq_decide]

theorem icondHolds_gt (f : IFmt) (v w : W32) : icondHolds .gt f v w = decide (ifmtVal f w < ifmtVal f v) :=
  icondHolds_lt f w v

/-- R132. At most is not greater: the strict compare with its sources exchanged, negated. -/
theorem icondHolds_le (f : IFmt) (v w : W32) : icondHolds .le f v w = decide (ifmtVal f v ≤ ifmtVal f w) := by
  have negated : icondHolds .le f v w = !icondHolds .lt f w v := rfl
  rw [negated, icondHolds_lt, ← decide_not, decide_eq_decide, Int.not_lt]

theorem icondHolds_ge (f : IFmt) (v w : W32) : icondHolds .ge f v w = decide (ifmtVal f w ≤ ifmtVal f v) :=
  icondHolds_le f w v

section
variable {s : State} {g : Gate} {m : Fin 8} (runs : VectorRuns s g m (capBit 18))
include runs

theorem exec_iadd (f : IFmt) (d a b : Fin 32) (sat : Bool) :
    exec (.iadd g m f d a b sat) s = vectorOut s g m 2 d 12 f.code
      (fun l => satOr f sat (ifmtVal f (lane (s.core.ctx.rv a.val) l) + ifmtVal f (lane (s.core.ctx.rv b.val) l))) :=
  vecMove_binary runs d a b 2 fun v w => satOr f sat (ifmtVal f v + ifmtVal f w)

theorem exec_isub (f : IFmt) (d a b : Fin 32) (sat : Bool) :
    exec (.isub g m f d a b sat) s = vectorOut s g m 2 d 13 f.code
      (fun l => satOr f sat (ifmtVal f (lane (s.core.ctx.rv a.val) l) - ifmtVal f (lane (s.core.ctx.rv b.val) l))) :=
  vecMove_binary runs d a b 2 fun v w => satOr f sat (ifmtVal f v - ifmtVal f w)

/-- R132. A compare answers, in each active lane, whether its condition, read as the predicate P, holds of the two sources. -/
theorem exec_icmp {f : IFmt} {c : ICond} (p a b : Fin 32) (P : W32 → W32 → Bool) (means : ∀ v w, icondHolds c f v w = P v w) :
    exec (.icmp g m f p a b c) s = maskOut s g m 2 p 25 f.code
      (fun l => P (lane (s.core.ctx.rv a.val) l) (lane (s.core.ctx.rv b.val) l)) := by
  obtain ⟨active, serves⟩ := runs
  obtain rfl : icondHolds c f = P := funext fun v => funext (means v)
  change execIcmp g m f p a b c s = _
  exact State.vec_go _ active serves

end

/-- Settles O14: each slot is the integer skeleton with its number, its cycles and its function; the compares go by the order of the
format's numbers. -/
theorem vectorInteger : Obligations.VectorInteger := by
  intro s g m f d a b p sat i runs
  refine ⟨?iaddWraps, ?isubWraps, exec_iadd runs f d a b sat, exec_isub runs f d a b sat, ?imul, ?imulh, ?iand, ?ior, ?ixor, ?iandn,
    ?ishl, ?ishlImm, ?ishr, ?ishrImm, ?isar, ?isarImm, ?imin, ?imax, ?eq, ?ne, ?lt, ?le, ?gt, ?ge⟩
  case iaddWraps => simpa only [satOr_false_add] using exec_iadd runs f d a b false
  case isubWraps => simpa only [satOr_false_sub] using exec_isub runs f d a b false
  case imul => exact vecMove_binary runs d a b 3 fun v w => v * w
  case imulh => exact vecMove_binary runs d a b 3 fun v w => BitVec.ofInt 32 (ifmtVal f v * ifmtVal f w / 2 ^ 32)
  case iand => exact vecMove_binary runs d a b 2 fun v w => v &&& w
  case ior => exact vecMove_binary runs d a b 2 fun v w => v ||| w
  case ixor => exact vecMove_binary runs d a b 2 fun v w => v ^^^ w
  case iandn => exact vecMove_binary runs d a b 2 fun v w => v &&& ~~~w
  case ishl => exact vecMove_binary runs d a b 2 fun v w => v <<< (w.toNat % 32)
  case ishlImm => exact vecMove_unary runs d a 2 fun v => v <<< i.toNat
  case ishr => exact vecMove_binary runs d a b 2 fun v w => v >>> (w.toNat % 32)
  case ishrImm => exact vecMove_unary runs d a 2 fun v => v >>> i.toNat
  case isar => exact vecMove_binary runs d a b 2 fun v w => v.sshiftRight (w.toNat % 32)
  case isarImm => exact vecMove_unary runs d a 2 fun v => v.sshiftRight i.toNat
  case imin => exact vecMove_binary runs d a b 2 fun v w => if ifmtVal f w < ifmtVal f v then w else v
  case imax => exact vecMove_binary runs d a b 2 fun v w => if ifmtVal f v < ifmtVal f w then w else v
  case eq => exact exec_icmp runs p a b (fun v w => decide (v = w)) (icondHolds_eq f)
  case ne => exact exec_icmp runs p a b (fun v w => decide (v ≠ w)) (icondHolds_ne f)
  case lt => exact exec_icmp runs p a b (fun v w => decide (ifmtVal f v < ifmtVal f w)) (icondHolds_lt f)
  case le => exact exec_icmp runs p a b (fun v w => decide (ifmtVal f v ≤ ifmtVal f w)) (icondHolds_le f)
  case gt => exact exec_icmp runs p a b (fun v w => decide (ifmtVal f w < ifmtVal f v)) (icondHolds_gt f)
  case ge => exact exec_icmp runs p a b (fun v w => decide (ifmtVal f w ≤ ifmtVal f v)) (icondHolds_ge f)

/-! ## Moves (R133, R135) -/

/-- The lanes of a register are its lanes one by one. -/
@[simp] theorem lanesOf_lane (x : Lanes) : lanesOf (lane x) = x := by
  apply Vector.ext
  intro l inside
  simp [lanesOf, lane, inside]

/-- Settles O15: a move is the vector skeleton with its lanes; vsel alone makes all lanes of its groups active. -/
theorem vectorMoves : Obligations.VectorMoves := by
  intro s g m d a b x k q hi i
  refine ⟨fun runs => ⟨?vmov, ?vbcast, ?vlane, ?vidx, ?vperm, ?vimm⟩, fun runs => ?xg, fun selected serves => ?vsel⟩
  case vmov =>
    have moved := vecMove_of_runs (op := 26) (fmt := 0) runs d 2 fun c => lane (c.rv a.val)
    simp only [lanesOf_lane] at moved
    exact moved
  case vbcast => exact vecMove_of_runs runs d 2 fun c _ => if hi then (c.rs x >>> 32).setWidth 32 else (c.rs x).setWidth 32
  case vlane => exact vecMove_of_runs runs d 4 fun c l => lane (c.rv a.val) (l / 16 * 16 + k.val)
  case vidx => exact vecMove_of_runs runs d 2 fun _ l => BitVec.ofNat 32 l
  case vperm => exact vecMove_of_runs runs d 4 fun c l => lane (c.rv a.val) (l / 16 * 16 + (lane (c.rv b.val) l).toNat % 16)
  case vimm => exact vecMove_of_runs runs d 2 fun _ _ => if hi then (i.setWidth 32) <<< 18 else i.signExtend 32
  case xg => exact vecMove_of_runs runs d 4 fun c l => lane (c.rv a.val) (16 * q.val + l % 16)
  case vsel =>
    change execVsel g m d a b s = _
    exact State.plain_go (beq_eq_false_iff_ne.mpr selected) serves

/-! ## Conversions (R136 to R138) -/

/-- What a conversion slot answers: three cycles, and two more where sub finds a subnormal in an active lane (R86); one draw for each
active lane when it rounds stochastically (R302). -/
def convertOut (s : State) (g : Gate) (m : Fin 8) (op : Nat) (d : Fin 32) (sr : Bool) (sub : Nat → W32 → Bool) (out : Nat → W32) : Out :=
  let am := s.core.ctx.active g m
  let extra := if s.core.ctx.interlocked && anyLane am (fun l => sub l (lane (lanesOf out) l)) then 2 else 0
  let t := vectorTo s (3 + extra) d am (lanesOf out) (s.vecTag op 0)
  .next (if sr then t.drew am else t)

/-- The random bits of a conversion's lane: drawn when it rounds stochastically, else 0. -/
def convertDraw (sr : Bool) (s : State) (am : LaneMask) (l : Nat) : W32 := if sr then drawAt s am l else 0

/-- R136. A conversion that runs answers the lanes it computes. -/
theorem vecCvt_of_runs {s : State} {g : Gate} {m : Fin 8} {op : Nat} (runs : VectorRuns s g m (capBit 19)) (d : Fin 32) (sr : Bool)
    (sub : Ctx → Nat → W32 → Bool) (out : State → LaneMask → Nat → W32) :
    s.vecCvt g m op d sr (fun x v l => sub x l (lane v l)) (fun t am => lanesOf (out t am)) =
      convertOut s g m op d sr (sub s.core.ctx) (out s (s.core.ctx.active g m)) := by
  obtain ⟨active, serves⟩ := runs
  exact State.vec_go _ active serves

/-- The conversions by their skeleton, pack and unpack as functions of lanes. -/
theorem vectorConvert : Claim.VectorConvert := by
  intro s g m dt st d a sat sr r w k sx runs
  refine ⟨?cvt, ?qnt, ?dqnt, ?pack, ?unpack⟩
  case cvt =>
    exact vecCvt_of_runs runs d sr (fun x l v => cvtSub st (lane (x.rv a.val) l) || cvtSub dt v) fun t am l =>
      cvtLane dt st sat sr r t.core.ctx.flushes (convertDraw sr t am l) (lane (t.core.ctx.rv a.val) l)
  case qnt =>
    exact vecCvt_of_runs runs d sr (fun x l _ => cvtSub st (lane (x.rv a.val) l) || cvtSub .f16 (lane (x.rv (a.val + 1)) l))
      fun t am l => qntLane dt sr r t.core.ctx.flushes (convertDraw sr t am l) (lane (t.core.ctx.rv a.val) l)
        (lane (t.core.ctx.rv (a.val + 1)) l)
  case dqnt =>
    exact vecCvt_of_runs runs d sr (fun x l v => cvtSub .f16 (lane (x.rv (a.val + 1)) l) || cvtSub dt v)
      fun t am l => dqntLane sr r t.core.ctx.flushes (convertDraw sr t am l) (lane (t.core.ctx.rv a.val) l)
        (lane (t.core.ctx.rv (a.val + 1)) l)
  case pack => exact vecMove_binary runs d a d 3 _
  case unpack => exact vecMove_unary runs d a 3 _

/-! ## Reductions (R134) -/

/-- Eight results of lane groups, read lane by lane. -/
theorem getD_map_range_group (f : Nat → W32) (l : Nat) :
    ((List.range 8).map f)[l / 16]?.getD 0 = if l < 128 then f (l / 16) else 0 := by
  by_cases inside : l < 128
  · have group : l / 16 < 8 := by omega
    simp [inside, group]
  · have beyond : 8 ≤ l / 16 := by omega
    simp [inside, beyond]

theorem subExtra_zero_or_two (x : Ctx) (am : LaneMask) (F : Fmt) (vs : List Lanes) :
    subExtra x am F vs = 0 ∨ subExtra x am F vs = 2 := by
  unfold subExtra
  split
  · exact .inr rfl
  · exact .inl rfl

/-- The capability bit that a reduction needs (R122). -/
def redCap (o : RedOp) : W32 :=
  match redFloat o with
  | some f => FFmt.cap f
  | none => capBit 18

/-- The reductions of the lane groups, in every lane of their group (R134). -/
def redLanes (s : State) (am : LaneMask) (o : RedOp) (a : Fin 32) (l : Nat) : W32 :=
  if l < 128 then redGroup o s.core.ctx.flushes am (s.core.ctx.rv a.val) (l / 16) else 0

/-- The further cycles of a floating-point reduction that involves a subnormal (R86). -/
def redExtra (s : State) (am : LaneMask) (o : RedOp) (a : Fin 32) : Nat :=
  match redFloat o with
  | some f => subExtra s.core.ctx am (FFmt.fmt f) [s.core.ctx.rv a.val, lanesOf (redLanes s am o a)]
  | none => 0

theorem redExtra_zero_or_two (s : State) (am : LaneMask) (o : RedOp) (a : Fin 32) : redExtra s am o a = 0 ∨ redExtra s am o a = 2 := by
  unfold redExtra
  split
  · exact subExtra_zero_or_two _ _ _ _
  · exact .inl rfl

theorem redExtra_integer {s : State} {am : LaneMask} {o : RedOp} {a : Fin 32} (integer : redFloat o = none) : redExtra s am o a = 0 := by
  simp only [redExtra, integer]

/-- R134. Six cycles, or eight for a subnormal. -/
theorem exec_vred {s : State} {g : Gate} {m : Fin 8} {o : RedOp} (d a : Fin 32) (runs : VectorRuns s g m (redCap o)) :
    exec (.vred g m o d a) s =
      vectorOut s g m (6 + redExtra s (s.core.ctx.active g m) o a) d 32 o.fmtCode (redLanes s (s.core.ctx.active g m) o a) := by
  obtain ⟨active, serves⟩ := runs
  have grouped : redLanes s (s.core.ctx.active g m) o a = fun l =>
      ((List.range 8).map (redGroup o s.core.ctx.flushes (s.core.ctx.active g m) (s.core.ctx.rv a.val)))[l / 16]?.getD 0 :=
    funext fun l => (getD_map_range_group _ l).symm
  simp only [redExtra, grouped]
  change execVred g m o d a s = _
  exact State.vec_go _ active serves

/-! ## Skim bits and random draws (R139, R302, R303) -/

section
variable {s : State} {g : Gate} {m : Fin 8} (runs : VectorRuns s g m 0)
include runs

/-- R139. vskim writes the skim bits of its active lanes below 64, if any. -/
theorem exec_vskim (p : Fin 32) :
    exec (.vskim g m p) s = .next (if (s.core.ctx.active g m).setWidth 64 = 0 then s else
      inFlight s 2 (.skim ((s.core.ctx.active g m).setWidth 64) ((s.core.ctx.rp p).setWidth 64)) 0) := by
  obtain ⟨active, serves⟩ := runs
  change execVskim g m p s = _
  exact State.vec_go _ active serves

/-- R303. vrand answers the bits drawn. -/
theorem exec_vrand (d : Fin 32) :
    exec (.vrand g m d) s = .next ((vectorTo s 2 d (s.core.ctx.active g m) (lanesOf fun l => drawAt s (s.core.ctx.active g m) l)
      (s.vecTag 41 0)).drew (s.core.ctx.active g m)) := by
  obtain ⟨active, serves⟩ := runs
  change execVrand g m d s = _
  exact State.vec_go _ active serves

/-- R303. vbern answers, lane by lane, whether the low sixteen bits drawn are below the count in a scalar register. -/
theorem exec_vbern (p : Fin 32) (x : Fin 64) :
    exec (.vbern g m p x) s = .next ((predTo s 2 p (s.core.ctx.active g m)
      (maskOf fun l => decide ((drawAt s (s.core.ctx.active g m) l).toNat % 65536 < min (s.core.ctx.rs x).toNat 65536))
      (s.vecTag 40 0)).drew (s.core.ctx.active g m)) := by
  obtain ⟨active, serves⟩ := runs
  change execVbern g m p x s = _
  exact State.vec_go _ active serves

end

/-- A predicate result draws nothing. -/
theorem predTo_draws (s : State) (L : Nat) (p : Fin 32) (m v : LaneMask) (tag : Tag) : (predTo s L p m v tag).draws = s.draws := by
  unfold predTo
  split <;> rfl

/-- Draws change nothing but their count. -/
theorem drew_with_draws (am : LaneMask) (t : State) : { t.drew am with draws := t.draws } = t := by
  simp only [State.drew]

/-- R302. What a slot with draws leaves is what it leaves without them, but for the draws of its active lanes. -/
theorem next_of_drew {o : Out} {s t : State} {am : LaneMask} (answers : o = .next (t.drew am)) (same : t.draws = s.draws) :
    ∃ u, o = .next u ∧ u.draws = s.draws + popCount 128 am.toNat ∧ { u with draws := s.draws } = t := by
  rw [← same]
  exact ⟨_, answers, rfl, drew_with_draws am t⟩

/-- Reductions, the skim vector and the draws, each by what its slot answers. -/
theorem vectorReduceDraw : Claim.VectorReduceDraw := by
  intro s g m o d a p x
  refine ⟨fun runs => ?vred, fun runs => ⟨fun low => ?skim, fun high => ?noSkim, ?vrand, ?vbern⟩⟩
  case vred => exact ⟨redExtra s (s.core.ctx.active g m) o a, redExtra_zero_or_two s _ o a, redExtra_integer, exec_vred d a runs⟩
  case skim => rw [exec_vskim runs, if_neg low]
  case noSkim => rw [exec_vskim runs, if_pos high]
  case vrand => exact next_of_drew (exec_vrand runs d) rfl
  case vbern => exact next_of_drew (exec_vbern runs p x) (predTo_draws s 2 p _ _ _)

/-- Settles O16: the conversions, then the reductions and draws. -/
theorem vectorConvertReduceDraw : Obligations.VectorConvertReduceDraw := ⟨vectorConvert, vectorReduceDraw⟩

end Sys2Proof.VectorLanes

/-! # The canonical form of memory under every step (R142, R148, R149) -/

namespace Sys2Proof.MemoryForm

open Sys2Proof Sys2Proof.Machine Sys2Proof.Claim

/-! ## What an outcome leaves of the memories -/

/-- Every state that an outcome answers satisfies p. -/
def Answers (o : Out) (p : State → Prop) : Prop := ∀ t, o = .next t → p t

@[simp] theorem answers_next {t : State} {p : State → Prop} : Answers (.next t) p ↔ p t :=
  ⟨fun h => h t rfl, fun h _ e => by cases e; exact h⟩
@[simp] theorem answers_fault {r : Fault} {p : State → Prop} : Answers (.fault r) p := by simp [Answers]

/-- Both memories of t are those of s. -/
structure SameMemory (s t : State) : Prop where
  mem : t.mem = s.mem
  hostMem : t.hostMem = s.hostMem

/-- Both memories are in canonical form. -/
structure Canonical (s : State) : Prop where
  mem : Memory.wf s.mem = true
  hostMem : Memory.wf s.hostMem = true

theorem canonical_iff {s : State} : Canonical s ↔ Memory.wf s.mem = true ∧ Memory.wf s.hostMem = true :=
  ⟨fun h => ⟨h.mem, h.hostMem⟩, fun h => ⟨h.1, h.2⟩⟩

theorem SameMemory.canonical {s t : State} (h : SameMemory s t) (hs : Canonical s) : Canonical t := ⟨h.mem ▸ hs.mem, h.hostMem ▸ hs.hostMem⟩

theorem Canonical.schedule {s : State} {cyc ph : Nat} {ev : Instr} (h : Canonical s) : Canonical (s.schedule cyc ph ev) := ⟨h.mem, h.hostMem⟩

theorem foldl_canonical {β : Type} {g : State → β → State} (keeps : ∀ t b, Canonical t → Canonical (g t b)) (l : List β) {s : State}
    (hs : Canonical s) : Canonical (l.foldl g s) := foldl_keeps Canonical g keeps l s hs

/-! ## The skeletons of slots

A slot starts results, posts effects or enters commands; it writes no byte. What it posts performs later, as an event or at the end
of its group. -/

/-- A slot leaves both memories as they are when its effect does: traps, waits and rollbacks write nothing. -/
theorem slot_same {s : State} {sq : Bool} {need : W32} {chk : State → Verdict} {eff : State → State}
    (mem : (eff s).mem = s.mem) (hostMem : (eff s).hostMem = s.hostMem) : Answers (s.slot sq need chk eff) (SameMemory s) := by
  rcases State.slot_cases s sq need chk eff with h | h | ⟨r, h⟩ | ⟨w, h⟩ | ⟨r, h⟩ | h <;> rw [h]
  case inl => exact answers_next.mpr ⟨rfl, rfl⟩
  case inr.inl => exact answers_next.mpr ⟨mem, hostMem⟩
  case inr.inr.inr.inr.inr => exact answers_fault
  all_goals exact answers_next.mpr ⟨by simp, by simp⟩

theorem plain_same {s : State} {sq : Bool} {need : W32} {eff : State → State}
    (mem : (eff s).mem = s.mem) (hostMem : (eff s).hostMem = s.hostMem) : Answers (s.plain sq need eff) (SameMemory s) := slot_same mem hostMem

theorem vec_same {s : State} {g : Gate} {m : Fin 8} {cap : W32} {eff : LaneMask → State → State}
    (mem : ∀ am, (eff am s).mem = s.mem) (hostMem : ∀ am, (eff am s).hostMem = s.hostMem) : Answers (s.vec g m cap eff) (SameMemory s) :=
  plain_same (mem _) (hostMem _)

section
variable (s : State) (g : Gate) (m : Fin 8)

theorem scalar_same (d : Fin 64) (op L : Nat) (f : Ctx → Word) : Answers (s.scalar g d op L f) (SameMemory s) := plain_same (by simp) (by simp)

theorem scalarMul_same (d : Fin 64) (op L : Nat) (f : Ctx → Word) : Answers (s.scalarMul g d op L f) (SameMemory s) :=
  plain_same (by simp) (by simp)

theorem scalarCmp_same (p : Fin 32) (op : Nat) (f : Ctx → Bool) : Answers (s.scalarCmp g p op f) (SameMemory s) := plain_same (by simp) (by simp)

theorem scalarAddr_same (d : Fin 16) (f : Ctx → AddrReg) : Answers (s.scalarAddr g d f) (SameMemory s) := plain_same (by simp) (by simp)

theorem vecMove_same (cap : W32) (op fmt : Nat) (d : Fin 32) (L : Nat) (f : Ctx → Lanes) :
    Answers (s.vecMove g m cap op fmt d L f) (SameMemory s) := vec_same (by simp) (by simp)

theorem vecInt_same (f : IFmt) (op : Nat) (d : Fin 32) (L : Nat) (h : Ctx → Lanes) : Answers (s.vecInt g m f op d L h) (SameMemory s) :=
  vecMove_same s g m _ op _ d L h

theorem vecFloat_same (f : FFmt) (op : Nat) (d : Fin 32) (srcs : Ctx → List Lanes) (h : Fmt → Bool → Ctx → Lanes) :
    Answers (s.vecFloat g m f op d srcs h) (SameMemory s) := vec_same (by simp) (by simp)

theorem vecCvt_same (op : Nat) (d : Fin 32) (sr : Bool) (sub : Ctx → Lanes → Nat → Bool) (f : State → LaneMask → Lanes) :
    Answers (s.vecCvt g m op d sr sub f) (SameMemory s) := by
  cases sr <;> exact vec_same (by simp) (by simp)

theorem sfun_same (f : FFmt) (op L : Nat) (d : Fin 32) (h : Fmt → Bool → Ctx → Lanes) : Answers (s.sfun g m f op L d h) (SameMemory s) :=
  vec_same (by simp) (by simp)

theorem scalarLoad_same (spaces : List Nat) (d : Fin 64) (n : Fin 16) (o : BitVec 12) (ac : Fin 8) {land : AddrReg → Word → State → State}
    (mem : ∀ a v t, (land a v t).mem = t.mem) (hostMem : ∀ a v t, (land a v t).hostMem = t.hostMem) :
    Answers (s.scalarLoad g spaces d n o ac land) (SameMemory s) := by
  unfold State.scalarLoad
  refine slot_same ?_ ?_ <;> dsimp only <;> split <;> simp [mem, hostMem]

theorem scalarStore_same (spaces : List Nat) (d : Fin 64) (n : Fin 16) (o : BitVec 12) (ac : Fin 8) :
    Answers (s.scalarStore g spaces d n o ac) (SameMemory s) := by
  unfold State.scalarStore
  exact slot_same (by simp) (by simp)

theorem vectorLoad_same (q L : Nat) (d : Fin 32) (n : Fin 16) (o : BitVec 9) (ac : Fin 8) :
    Answers (s.vectorLoad g m q L d n o ac) (SameMemory s) := by
  unfold State.vectorLoad
  exact slot_same (by simp) (by simp)

theorem vectorStore_same (q : Nat) (d : Fin 32) (n : Fin 16) (o : BitVec 9) (ac : Fin 8) :
    Answers (s.vectorStore g m q d n o ac) (SameMemory s) := by
  unfold State.vectorStore
  exact slot_same (by simp) (by simp)

theorem transfer_same (chk : State → Verdict) (x : Ctx → Xfer) : Answers (s.transfer g chk x) (SameMemory s) := by
  unfold State.transfer
  split
  · exact answers_next.mpr ⟨by simp, by simp⟩
  · exact answers_next.mpr ⟨rfl, rfl⟩
  · exact slot_same (by simp) (by simp)

theorem startLoop_same (l : Fin 4) (count : Word) (n : Nat) (rot ilk : Bool) : Answers (s.startLoop l count n rot ilk) (SameMemory s) :=
  slot_same (by simp) (by simp)

theorem portSlot_same (b : Fin 32) (row : Fin 64) (kind : PortKind) (writes : Bool) :
    Answers (s.portSlot g m b row kind writes) (SameMemory s) := by
  unfold State.portSlot
  cases writes <;> exact slot_same (by simp) (by simp)

theorem allocBank_same (b : Fin 32) (lo hi : Nat) : Answers (s.allocBank g b lo hi) (SameMemory s) := slot_same (by simp) (by simp)

theorem scaleLoad_same (n : Fin 16) (o : BitVec 9) (part len : Nat) : Answers (s.scaleLoad g n o part len) (SameMemory s) := by
  unfold State.scaleLoad
  exact slot_same (by simp) (by simp)

theorem multiply_same (qa qb : Fin 16) (b : Fin 32) (q : Fin 4) (f : MFmt) (ck zp : Bool) (gs : GroupSize) (acc : Bool) :
    Answers (s.multiply g qa qb b q f ck zp gs acc) (SameMemory s) := by
  refine slot_same ?_ ?_ <;> cases ck
  all_goals simp [foldl_mem _ _ _ fun _ _ => State.schedule_mem _ _ _ _, foldl_hostMem _ _ _ fun _ _ => State.schedule_hostMem _ _ _ _]

theorem multiplyDl_same (qa qb : Fin 16) (d : Fin 32) (f : MFmt) (zp : Bool) (gs : GroupSize) :
    Answers (s.multiplyDl g qa qb d f zp gs) (SameMemory s) := by
  refine slot_same ?_ ?_
  · exact (foldl_mem _ _ _ fun _ _ => foldl_mem _ _ _ fun _ _ => by simp).trans (by simp)
  · exact (foldl_hostMem _ _ _ fun _ _ => foldl_hostMem _ _ _ fun _ _ => by simp).trans (by simp)

theorem copySlot_same (n : Fin 4) (op : CopyOp) : Answers (s.copySlot g n op) (SameMemory s) := by
  unfold State.copySlot
  exact slot_same (by simp) (by simp)

theorem cleanSlot_same (t : Fin 64) (zero : Bool) : Answers (s.cleanSlot g t zero) (SameMemory s) := slot_same (by simp) (by simp)

theorem linkSlot_same (o : LinkOp) (ch : Fin 256) (n : Fin 4) : Answers (s.linkSlot g o ch n) (SameMemory s) := by
  unfold State.linkSlot
  refine slot_same ?_ ?_ <;> dsimp only <;> split <;> simp [apply_ite State.mem, apply_ite State.hostMem]

end

/-! ## Every slot -/

/-- A slot of any class leaves both memories as they are: no byte changes before what it posts performs (R148). -/
theorem exec_slot_same {i : Instr} (slot : clsOf i ≠ 0) (s : State) : Answers (exec i s) (SameMemory s) := by
  cases i <;> unfold exec
  -- scalar
  case add | sub | and | or | xor | andn | shl | shr | sar | rotl | min | max | minn | maxn | clz | popc | mov | addi | andi | ori | xori |
      shli | shri | sari | movi | movhi | stgr => exact scalar_same _ _ _ _ _ _
  case mul | mulh | mulhn | div | divn | rem | remn => exact scalarMul_same _ _ _ _ _ _
  case cmp | cmpi => exact scalarCmp_same _ _ _ _ _
  case amkLocation | amkRegister | aaddImm | aaddReg => exact scalarAddr_same _ _ _ _
  case nop | sel | rds | stgw => exact plain_same (by simp) (by simp)
  case gmsetReg | gmsetImm => exact plain_same (by simp [apply_ite State.mem]) (by simp [apply_ite State.hostMem])
  case wrs => exact slot_same (by simp [apply_ite State.mem]) (by simp [apply_ite State.hostMem])
  -- vector and special functions
  case fadd | fsub | fmul | fma | fms | fnma | fmin | fmax | fneg | fabs => exact vecFloat_same _ _ _ _ _ _ _ _
  case iadd | isub | imul | imulh | iand | ior | ixor | iandn | ishl | ishlImm | ishr | ishrImm | isar | isarImm | imin | imax =>
    exact vecInt_same _ _ _ _ _ _ _ _
  case vmov | vbcast | vlane | vidx | vperm | vimm | xg | pack | unpack => exact vecMove_same _ _ _ _ _ _ _ _ _
  case cvt | qnt | dqnt => exact vecCvt_same _ _ _ _ _ _ _ _
  case frcp | fdiv | fsqrt | frsqrt | fexp2 | flog2 => exact sfun_same _ _ _ _ _ _ _ _
  case fcmp | fclass | icmp | vbern | vrand | vred => exact vec_same (by simp) (by simp)
  case vskim => exact vec_same (by simp [apply_ite State.mem]) (by simp [apply_ite State.hostMem])
  case vsel => exact plain_same (by simp) (by simp)
  -- memory
  case lds | ldh => exact scalarLoad_same _ _ _ _ _ _ _ (by simp) (by simp)
  case sts | sth => exact scalarStore_same _ _ _ _ _ _ _
  case ldv | ldvq => exact vectorLoad_same _ _ _ _ _ _ _ _ _
  case stv | stvq => exact vectorStore_same _ _ _ _ _ _ _ _
  case ldsp | drain => exact slot_same (by simp) (by simp)
  case ldvsp | ldx | stx => dsimp only [execLdvsp, execLdx, execStx]; exact slot_same (by simp) (by simp)
  case stsp | stvsp | xlat | hinv => exact plain_same (by simp) (by simp)
  -- branch
  case br | brr | call | ret | lbreak => exact transfer_same _ _ _ _
  case loop | loopi => exact startLoop_same _ _ _ _ _ _
  case roll => dsimp only [execRoll]; exact slot_same (by split <;> simp) (by split <;> simp)
  case yield => exact plain_same (by simp [apply_ite State.mem]) (by simp [apply_ite State.hostMem])
  case halt => exact plain_same (by simp) (by simp)
  -- matrix, accumulator port, scale
  case mma | mmaz => exact multiply_same _ _ _ _ _ _ _ _ _ _ _
  case mmaDl | mmazDl => exact multiplyDl_same _ _ _ _ _ _ _ _
  case bld | bswap | qpop | qadv | qrst => exact slot_same (by simp) (by simp)
  case accrd | accwr | accadd | accclr => exact portSlot_same _ _ _ _ _ _ _
  case scld | scldb => exact scaleLoad_same _ _ _ _ _ _
  case zpclr => exact plain_same (by simp) (by simp)
  -- engines, links, aggregation
  case cp | tmv | cpfill => exact copySlot_same _ _ _ _
  case cphalt | saflush | sawin => exact slot_same (by simp) (by simp)
  case cpq | cpchain | saenq | sarun | aggq =>
    dsimp only [execCpq, execCpchain, execSaenq, execSarun, execAggq]; exact slot_same (by simp) (by simp)
  case send | put | recv | allred | agfwd => exact linkSlot_same _ _ _ _ _
  case agg => dsimp only [execAgg]; exact slot_same (by split <;> simp) (by split <;> simp)
  -- ownership
  case tlend => dsimp only [execTlend]; exact slot_same (by simp [apply_ite State.mem]) (by simp [apply_ite State.hostMem])
  case tret => exact slot_same (by simp [apply_ite State.mem]) (by simp [apply_ite State.hostMem])
  case tsplit | tshare | tunshare => dsimp only [execTsplit, execTshare, execTunshare]; exact slot_same (by simp) (by simp)
  case tjoin | bkfree => exact slot_same (by simp) (by simp)
  case tprobe => exact plain_same (by simp) (by simp)
  case tcleanKeep | tcleanZero => exact cleanSlot_same _ _ _ _
  case bkalloc | bkallocNamed => exact allocBank_same _ _ _ _ _
  -- check and sync
  case hold | ckeq | wflag | tflag => exact slot_same (by simp) (by simp)
  case sync | ckeqv | ckeqp => dsimp only [execSync, execCkeqv, execCkeqp]; exact slot_same (by simp) (by simp)
  case mark | brk => exact plain_same (by simp [apply_ite State.mem]) (by simp [apply_ite State.hostMem])
  case trap => exact plain_same (by simp) (by simp)
  -- events
  all_goals exact absurd rfl slot

/-! ## What an event does behind the checks that it shares with others -/

theorem accept_canonical {f : Flit} {body : State → State} (keeps : ∀ t, Canonical t → Canonical (body t)) {s : State} (hs : Canonical s) :
    Canonical (s.accept f body) := by
  unfold State.accept
  dsimp only
  repeat' split
  case isFalse.isFalse.isFalse.isFalse => exact keeps _ (by simp [canonical_iff, hs.mem, hs.hostMem])
  all_goals simp [canonical_iff, hs.mem, hs.hostMem]

theorem onChannel_canonical {f : Flit} {body : Nat → ChanRec → State → State} (keeps : ∀ n c t, Canonical t → Canonical (body n c t)) {s : State}
    (hs : Canonical s) : Canonical (s.onChannel f body) := by
  unfold State.onChannel
  repeat' split
  case h_2.isTrue => exact keeps _ _ _ hs
  all_goals simp [canonical_iff, hs.mem, hs.hostMem]

/-- A packet of a channel: whatever its kind does once the channel is found. -/
theorem channelFlit_canonical {f : Flit} {body : Nat → ChanRec → State → State} (keeps : ∀ n c t, Canonical t → Canonical (body n c t)) {s : State}
    (hs : Canonical s) : Answers (.next (s.accept f fun t => t.onChannel f body)) Canonical :=
  answers_next.mpr (accept_canonical (fun _ h => onChannel_canonical keeps h) hs)

theorem admin_canonical {f : State → State} {s : State} (keeps : Canonical (f s)) (hs : Canonical s) : Answers (s.admin f) Canonical := by
  unfold State.admin
  rw [answers_next]
  split
  · exact keeps
  · exact hs

theorem hostCopy_canonical {c : Cmd} {ev : Cmd → Instr} {write : Bool} {v : Nat} {move : State → State × Nat} {s : State}
    (keeps : Canonical (move s).1) (hs : Canonical s) : Canonical (s.hostCopy c ev write v move) := by
  unfold State.hostCopy
  dsimp only
  (repeat' split) <;> simp [canonical_iff, hs.mem, hs.hostMem, keeps.mem, keeps.hostMem]

theorem giveFrame_same {s t : State} {n f : Nat} {pool : Bool} (h : s.giveFrame n pool f = some t) : SameMemory s t := by
  unfold State.giveFrame at h
  extract_lets had room at h
  split at h
  · exact Option.some.inj h ▸ ⟨rfl, rfl⟩
  · obtain ⟨k, -, rfl⟩ := Option.map_eq_some_iff.mp h
    exact ⟨by simp, by simp⟩

/-- Frames given one by one, as far as there is room for them. -/
theorem giveFrames_canonical {n : Nat} {pool : Bool} {fs : List Nat} {o : Option State} {t : State} (ho : ∀ s, o = some s → Canonical s)
    (h : fs.foldl (fun (t : Option State) f => t.bind (State.giveFrame n pool f)) o = some t) : Canonical t := by
  induction fs generalizing o with
  | nil => exact ho t h
  | cons f fs ih =>
    refine ih (fun u hu => ?_) h
    obtain ⟨s, rfl, given⟩ := Option.bind_eq_some_iff.mp hu
    exact (giveFrame_same given).canonical (ho s rfl)

/-! ## Events with a shape of their own -/

section
variable {s : State} (hs : Canonical s)
include hs

/-- COPY_OUT is the one event that writes host memory, in one run. -/
theorem execCopyOut_canonical (c : Cmd) : Answers (execCopyOut c s) Canonical :=
  answers_next.mpr (hostCopy_canonical ⟨by simp [hs.mem], Memory.wf_writeRun _ _ _ (by simp [hs.hostMem])⟩ hs)

theorem execCopyIn_canonical (c : Cmd) : Answers (execCopyIn c s) Canonical :=
  answers_next.mpr (hostCopy_canonical ⟨by simp [hs.mem], by simp [hs.hostMem]⟩ hs)

theorem execAttestQuote_canonical (c : Cmd) : Answers (execAttestQuote c s) Canonical := by
  have fresh : Canonical (s.vFresh c.part (c.num 1) 48) := ⟨by simp [hs.mem], by simp [hs.hostMem]⟩
  unfold execAttestQuote
  dsimp only
  (repeat' split) <;> simp [canonical_iff, fresh.mem, hs.hostMem]

theorem execLaunchStart_canonical (n tag : Nat) : Answers (execLaunchStart n tag s) Canonical := by
  unfold execLaunchStart
  split
  · exact answers_next.mpr hs
  dsimp only
  split
  · exact answers_next.mpr hs
  split
  · exact answers_next.mpr (foldl_canonical (fun _ _ h => h.schedule) _ (foldl_canonical (fun _ _ h => h.schedule) _ ⟨hs.mem, hs.hostMem⟩))
  · simp [canonical_iff, hs.mem, hs.hostMem]

theorem execSuccessorStart_canonical (n tag start : Nat) : Answers (execSuccessorStart n tag start s) Canonical := by
  have handed : ∀ {t : State}, Canonical t → Canonical (t.handedOver n tag) := fun h => by simp [canonical_iff, h.mem, h.hostMem]
  unfold execSuccessorStart
  split
  · exact answers_next.mpr (handed hs)
  dsimp only
  split
  · exact answers_next.mpr hs.schedule
  · refine answers_next.mpr (handed (foldl_canonical (fun t p h => ?_) _ (foldl_canonical (fun t m h => ?_) _ ⟨hs.mem, hs.hostMem⟩)))
    · split
      · exact h
      · simp [canonical_iff, h.mem, h.hostMem]
    · simp [canonical_iff, h.mem, h.hostMem]

theorem execMoveComplete_canonical (f : Nat) : Answers (execMoveComplete f s) Canonical := by
  unfold execMoveComplete
  split
  · exact answers_next.mpr hs
  split
  · exact answers_next.mpr hs
  extract_lets y t
  have landed : Canonical t :=
    foldl_canonical (fun u h hu => by simp [canonical_iff, hu.mem, hu.hostMem]) _ (by simp [canonical_iff, hs.mem, hs.hostMem])
  split
  · exact answers_next.mpr landed
  · simp [canonical_iff, landed.mem, landed.hostMem]

theorem execAggHomeRelease_canonical (g r : Nat) : Answers (execAggHomeRelease g r s) Canonical := by
  unfold execAggHomeRelease
  split
  · exact answers_next.mpr hs
  · refine answers_next.mpr (foldl_canonical (fun _ _ h => h.schedule) _ ?_)
    (repeat' split) <;> simp [canonical_iff, hs.mem, hs.hostMem]

/-! ### Flits -/

theorem execIdleFlit_canonical (f : Flit) : Answers (execIdleFlit f s) Canonical :=
  answers_next.mpr (accept_canonical (fun t h => by split <;> simp [canonical_iff, h.mem, h.hostMem]) hs)

theorem execMigrationFlit_canonical (f : Flit) : Answers (execMigrationFlit f s) Canonical :=
  answers_next.mpr (accept_canonical (fun t h => by simp [canonical_iff, h.mem, h.hostMem]) hs)

theorem execDataFlit_canonical (f : Flit) : Answers (execDataFlit f s) Canonical :=
  channelFlit_canonical (fun n c t h => by (repeat' split) <;> simp [canonical_iff, h.mem, h.hostMem]) hs

theorem execChunkAckFlit_canonical (f : Flit) : Answers (execChunkAckFlit f s) Canonical :=
  channelFlit_canonical (fun n c t h => by (repeat' split) <;> simp [canonical_iff, h.mem, h.hostMem]) hs

theorem execArmNoticeFlit_canonical (f : Flit) : Answers (execArmNoticeFlit f s) Canonical :=
  channelFlit_canonical (fun n c t h => by dsimp only; split <;> simp [canonical_iff, h.mem, h.hostMem]) hs

theorem execAbortFlit_canonical (f : Flit) : Answers (execAbortFlit f s) Canonical :=
  channelFlit_canonical (fun n c t h => by (repeat' split) <;> simp [canonical_iff, h.mem, h.hostMem]) hs

theorem execRefusalFlit_canonical (f : Flit) : Answers (execRefusalFlit f s) Canonical :=
  channelFlit_canonical (fun n c t h => by (repeat' split) <;> simp [canonical_iff, h.mem, h.hostMem]) hs

/-! ### Writes of the host -/

theorem execPartitionControlWrite_canonical (n : Nat) (v : Word) : Answers (execPartitionControlWrite n v s) Canonical :=
  admin_canonical (by split <;> simp [canonical_iff, hs.mem, hs.hostMem]) hs

theorem execRegisterWrite_canonical (vf : Option Nat) (off : Nat) (v : Word) : Answers (execRegisterWrite vf off v s) Canonical :=
  admin_canonical (by split <;> simp [canonical_iff, hs.mem, hs.hostMem]) hs

theorem execFramewinAssign_canonical (v : Word) : Answers (execFramewinAssign v s) Canonical := by
  have refused : Canonical (s.refuse 0x0300) := by simp [canonical_iff, hs.mem, hs.hostMem]
  refine admin_canonical ?_ hs
  split
  · cases given : (winRun v).foldl (fun (t : Option State) f => t.bind (State.giveFrame (winPart v) (winPool v) f)) (some s) with
    | none => exact refused
    | some t => exact giveFrames_canonical (fun _ e => Option.some.inj e ▸ hs) given
  · exact refused

theorem execFramewinReturn_canonical (v : Word) : Answers (execFramewinReturn v s) Canonical :=
  admin_canonical (by split <;> simp [canonical_iff, hs.mem, hs.hostMem]) hs

theorem execSlotTableWrite_canonical (res entry : Nat) (v : Byte) : Answers (execSlotTableWrite res entry v s) Canonical :=
  admin_canonical (by dsimp only; (repeat' split) <;> simp [canonical_iff, hs.mem, hs.hostMem]) hs

theorem execCapabilityEntryWrite_canonical (p off : Nat) (v : Word) : Answers (execCapabilityEntryWrite p off v s) Canonical :=
  admin_canonical (by simp [canonical_iff, hs.mem, hs.hostMem]) hs

theorem execGroupEntryWrite_canonical (g : Nat) (v : Word) : Answers (execGroupEntryWrite g v s) Canonical :=
  admin_canonical (by dsimp only; (repeat' split) <;> simp [canonical_iff, hs.mem, hs.hostMem]) hs

theorem execBudgetWrite_canonical (o : Nat) (v : Word) : Answers (execBudgetWrite o v s) Canonical :=
  admin_canonical (by split <;> simp [canonical_iff, hs.mem, hs.hostMem]) hs

end

/-! ## Every instruction -/

/-- Every slot and every event keeps the form: a slot writes nothing, and an event writes whole runs and cells. -/
theorem exec_canonical (i : Instr) {s : State} (hs : Canonical s) : Answers (exec i s) Canonical := by
  by_cases slot : clsOf i = 0
  case neg => exact fun t h => (exec_slot_same slot s t h).canonical hs
  cases i
  -- the events with a lemma of their own
  case copyOut => exact execCopyOut_canonical hs _
  case copyIn => exact execCopyIn_canonical hs _
  case attestQuote => exact execAttestQuote_canonical hs _
  case launchStart => exact execLaunchStart_canonical hs _ _
  case successorStart => exact execSuccessorStart_canonical hs _ _ _
  case moveComplete => exact execMoveComplete_canonical hs _
  case aggHomeRelease => exact execAggHomeRelease_canonical hs _ _
  case idleFlit => exact execIdleFlit_canonical hs _
  case flitAgeDiscard => exact answers_next.mpr (accept_canonical (fun _ h => h) hs)
  case migrationFlit => exact execMigrationFlit_canonical hs _
  case dataFlit => exact execDataFlit_canonical hs _
  case chunkAckFlit => exact execChunkAckFlit_canonical hs _
  case armNoticeFlit => exact execArmNoticeFlit_canonical hs _
  case abortFlit => exact execAbortFlit_canonical hs _
  case refusalFlit => exact execRefusalFlit_canonical hs _
  case partitionControlWrite => exact execPartitionControlWrite_canonical hs _ _
  case registerWrite => exact execRegisterWrite_canonical hs _ _ _
  case framewinAssign => exact execFramewinAssign_canonical hs _
  case framewinReturn => exact execFramewinReturn_canonical hs _
  case slotTableWrite => exact execSlotTableWrite_canonical hs _ _ _
  case capabilityEntryWrite => exact execCapabilityEntryWrite_canonical hs _ _ _
  case groupEntryWrite => exact execGroupEntryWrite_canonical hs _ _
  case budgetWrite => exact execBudgetWrite_canonical hs _ _
  all_goals unfold exec
  -- one operation of the state, whose law says that it keeps the form
  case preemptStopBoundary | withheldGroupIssue | branchTransfer | ilkLoopExit | rollIterationEnd | rollComplete | plumbLineComplete | syncResume |
      debugStop | debugGo | debugStep | finjOff | finjArray | finjSector | illegalEncoding |
      mmaTileRetire | mmaRowLand | mmaExtraRowLand | mmaDrainLand | bldLand | swapPerform |
      chainEnd | chainCopy | chainLoop | chainSkipp | chainSkipf | chainReservedEntry | saEntryArrive | maskReseed |
      swatchReturn | settlementEnd | putTrowelReturn | channelReuseHoldEnd | linkRetrainDone | groupReuseHoldEnd | aggLate | stippleRekey |
      queuePoll | cmdInvalid | signal | wait | scrub | launch | preemptStop | preemptEvict | preemptSwitch | spaceTeardown |
      recordHarvest | capMirrorUpdate | profileDrain | powerOn | pcieFundamentalReset | partitionReset | thermalTrip | securityViolation |
      fabricError | railOutOfRange | droopDetect | thermalThrottle | thermalThrottleEnd | managementRequest =>
    exact answers_next.mpr ⟨by simp [hs.mem], by simp [hs.hostMem]⟩
  -- contexts and results
  case timetableStart | freeContextStart | contextStopped | contextResume | contextSwitch | bayReexecute | syncWaitLimit =>
    dsimp only [execTimetableStart, execFreeContextStart, execContextStopped, execContextResume, execContextSwitch, execBayReexecute, execSyncWaitLimit]
    (repeat' split) <;> simp [canonical_iff, hs.mem, hs.hostMem]
  case registerResultLand | dustSheetLand | sampleEntryWrite | accPortPerform =>
    dsimp only [execRegisterResultLand, execDustSheetLand, execSampleEntryWrite, execAccPortPerform]
    (repeat' split) <;> simp [canonical_iff, hs.mem, hs.hostMem]
  -- commits and engines
  case gatedCommitPerform | copyCommandStart | copyRelease | saRetirePerform | sarunRelease =>
    dsimp only [execGatedCommitPerform, execCopyCommandStart, execCopyRelease, execSaRetirePerform, execSarunRelease]
    (repeat' split) <;> simp [canonical_iff, hs.mem, hs.hostMem]
  -- trowels
  case trowelArrive | trowelHome | swatchArrive | swatchRevoke | tcleanZeroDone | remoteLendAck | trowelReclaim =>
    dsimp only [execTrowelArrive, execTrowelHome, execSwatchArrive, execSwatchRevoke, execTcleanZeroDone, execRemoteLendAck, execTrowelReclaim]
    (repeat' split) <;> simp [canonical_iff, hs.mem, hs.hostMem]
  -- links
  case linkLocalComplete | chunkFlagWrite | chunkTimeout | allredCombine | agfwdForward | faultyFlit | linkRetrain =>
    dsimp only [execLinkLocalComplete, execChunkFlagWrite, execChunkTimeout, execAllredCombine, execAgfwdForward, execFaultyFlit, execLinkRetrain]
    (repeat' split) <;> simp [canonical_iff, hs.mem, hs.hostMem]
  -- rounds
  case aggReachHome | roundClose | roundTimeout | aggReleaseMember =>
    dsimp only [execAggReachHome, execRoundClose, execRoundTimeout, execAggReleaseMember]
    (repeat' split) <;> simp [canonical_iff, hs.mem, hs.hostMem]
  -- commands, launches, pages
  case budgetRead | queueTailWrite | launchRetire | preemptResume | pageMigration | translationUpdate | tentryWrite =>
    dsimp only [execBudgetRead, execQueueTailWrite, execLaunchRetire, execPreemptResume, execPageMigration, execTranslationUpdate, execTentryWrite]
    (repeat' split) <;> simp [canonical_iff, hs.mem, hs.hostMem]
  -- the platform
  case functionLevelReset | firmwareWatchdog | thermalTripRelease | clockStepUp | recoveryImage =>
    dsimp only [execFunctionLevelReset, execFirmwareWatchdog, execThermalTripRelease, execClockStepUp, execRecoveryImage]
    (repeat' split) <;> simp [canonical_iff, hs.mem, hs.hostMem]
  -- slots
  all_goals exact absurd slot (Nat.succ_ne_zero _)

/-! ## Issue and the step -/

/-- An attempt to issue carries a state when the slots of its group have all executed, and an outcome when one of them is a data race. -/
def TryCanonical : Try → Prop
  | .done t => Canonical t
  | .stop o => Answers o Canonical
  | _ => True

/-- A reading of slots and events that keeps the form. -/
def Keeps (run : Machine.Run) : Prop := ∀ i s, Canonical s → Answers (run i s) Canonical

section
variable {run : Machine.Run} (keeps : Keeps run)
include keeps

theorem runSlots_canonical (l : List (FSlot × Nat × Nat)) {s : State} (hs : Canonical s) : TryCanonical (runSlots run s l).1 := by
  induction l generalizing s with
  | nil => exact hs
  | cons e l ih =>
    obtain ⟨f, pos, unit⟩ := e
    unfold runSlots
    split
    · exact ih hs
    next i _ =>
      have ran := keeps i (s.enterSlot f pos unit) ⟨hs.mem, hs.hostMem⟩
      split
      next t answered =>
        split
        · exact ih (ran t answered)
        all_goals trivial
      · split
        · exact ran
        · exact ih hs

theorem tryGroup_canonical {s : State} (hs : Canonical s) : TryCanonical (s.tryGroup run) := by
  unfold State.tryGroup
  split
  · trivial
  extract_lets x fs is t u
  have hu : TryCanonical u.1 := runSlots_canonical keeps _ ⟨hs.mem, hs.hostMem⟩
  iterate 5
    split
    · trivial
  split
  next v e =>
    rw [e] at hu
    split
    · trivial
    · exact hu
  next =>
    split
    · exact hu
    · split
      · trivial
      · exact hu

theorem attempt_canonical {s : State} (hs : Canonical s) : Answers (s.attempt run) Canonical := by
  unfold State.attempt
  extract_lets p k t
  have ht : Canonical t := ⟨hs.mem, hs.hostMem⟩
  have tried := tryGroup_canonical keeps ht
  split
  · simp [canonical_iff, hs.mem, hs.hostMem]
  split
  · simp [canonical_iff, hs.mem, hs.hostMem]
  split
  · simp [canonical_iff, ht.mem, ht.hostMem]
  generalize t.tryGroup run = o at tried
  split
  case h_3 => simp [canonical_iff, tried.mem, tried.hostMem]
  case h_6 => exact tried
  all_goals simp [canonical_iff, ht.mem, ht.hostMem]

theorem turnOf_canonical {s : State} (hs : Canonical s) : Answers (s.turnOf run) Canonical := by
  unfold State.turnOf
  extract_lets t x
  have ht : Canonical t := by simp [t, canonical_iff, hs.mem, hs.hostMem]
  split
  · simp [canonical_iff, ht.mem, ht.hostMem]
  split
  · exact attempt_canonical keeps ht
  · simp [canonical_iff, ht.mem, ht.hostMem]

end

theorem turnStep_canonical {s : State} (hs : Canonical s) : Answers s.turnStep Canonical := by
  unfold State.turnStep
  split
  · simp [canonical_iff, hs.mem, hs.hostMem]
  have turned := turnOf_canonical (fun i _ h => exec_canonical i h) hs
  split
  next t answered =>
    have ht := turned t answered
    simp [canonical_iff, ht.mem, ht.hostMem]
  · exact turned

/-- A step performs the first event that is due, or gives the core in front its turn. -/
theorem step_canonical {s : State} (hs : Canonical s) : Answers (step s) Canonical := by
  unfold step
  split
  next d r _ =>
    split
    · exact exec_canonical d.ev ⟨hs.mem, hs.hostMem⟩
    · exact turnStep_canonical hs
  · exact turnStep_canonical hs

/-- Settles O60: an event that is due keeps the form, and so does the group that a turn issues, slot by slot. -/
theorem stepKeepsMemoryForm : Obligations.StepKeepsMemoryForm := by
  intro s t mem hostMem stepped
  have ht := step_canonical ⟨mem, hostMem⟩ t stepped
  exact ⟨ht.mem, ht.hostMem⟩

end Sys2Proof.MemoryForm

/-! # Loads and stores (R89, R120, R148, R151, R156 to R159) -/

namespace Sys2Proof.MemorySlots

open Sys2Proof Sys2Proof.Machine Sys2Proof.Claim

/-! ## Spill memory without recorded errors (R151) -/

section
variable {s : State}

theorem firstOf_go {vs : List Verdict} (h : ∀ v ∈ vs, v = .go) : firstOf vs = .go := by
  induction vs with
  | nil => rfl
  | cons v vs ih =>
    obtain ⟨rfl, rest⟩ := List.forall_mem_cons.mp h
    exact ih rest

theorem spillCheck_of_clean (clean : s.core.ctx.spillErr = []) (off n : Nat) : s.spillCheck off n = .go := by
  simp [State.spillCheck, clean]

/-- With no error recorded the counter of corrected errors keeps its value. -/
theorem spillCount_of_clean (clean : s.core.ctx.spillErr = []) (off n : Nat) : s.spillCount off n = s := by
  have most : s.core.cap.corrected.toNat ≤ 2 ^ 32 - 1 := by have := s.core.cap.corrected.isLt; omega
  simp only [State.spillCount, State.onCore, clean, List.filter_nil, List.length_nil, Nat.add_zero, Nat.min_eq_right most, BitVec.ofNat_toNat,
    BitVec.setWidth_eq]

theorem foldl_spillCount_of_clean (clean : s.core.ctx.spillErr = []) (ps : List (Int × Nat)) :
    ps.foldl (fun t p => t.spillCount p.1.toNat p.2) s = s :=
  foldl_keeps (· = s) _ (fun _ p h => h.symm ▸ spillCount_of_clean clean p.1.toNat p.2) ps s rfl

/-- A load finds no error in spill memory: its address is in another space, or no error is recorded. -/
def Unerring (s : State) (a : AddrReg) : Prop := a.space ≠ 1 ∨ s.core.ctx.spillErr = []

variable {a : AddrReg}

theorem space_toNat_eq_one : a.space.toNat = 1 ↔ a.space = 1 := (BitVec.toNat_eq (x := a.space) (y := 1#3)).symm

theorem spillVerdict_of_unerring (h : Unerring s a) (ps : List (Int × Nat)) : s.spillVerdict a ps = .go := by
  unfold State.spillVerdict
  split
  next spill =>
    have clean := h.resolve_left fun other => other (space_toNat_eq_one.mp spill)
    exact firstOf_go (List.forall_mem_map.mpr fun p _ => spillCheck_of_clean clean p.1.toNat p.2)
  next => rfl

theorem spillCounts_of_unerring (h : Unerring s a) (ps : List (Int × Nat)) : s.spillCounts a ps = s := by
  unfold State.spillCounts
  split
  next spill => exact foldl_spillCount_of_clean (h.resolve_left fun other => other (space_toNat_eq_one.mp spill)) ps
  next => rfl

end

/-! ## The skeletons of loads and stores -/

section
variable {s : State} {g : Gate}

/-- A gated slot that needs no capability bit, with the outcome of its own checks. -/
theorem gatedSlot_settles (on : s.core.ctx.gate0 g = true) (chk : State → Verdict) (eff : State → State) :
    s.slot (!s.core.ctx.gate0 g) 0 chk eff = (chk s).settle eff s := by
  simp [State.slot, on]

theorem gatedSlot_go (on : s.core.ctx.gate0 g = true) {chk : State → Verdict} {eff : State → State} (passes : chk s = .go) :
    s.slot (!s.core.ctx.gate0 g) 0 chk eff = .next (eff s) := by
  rw [gatedSlot_settles on, passes, Verdict.settle_go]

section
variable {spaces : List Nat} {d : Fin 64} {n : Fin 16} {a : AddrReg} {o : BitVec 12} {ac : Fin 8} (on : s.core.ctx.gate0 g = true)
  (named : s.core.ctx.ra n = a)
include on named

theorem scalarLoad_go {land : AddrReg → Word → State → State} (kept : d ≠ 0)
    (passes : s.memCheck false spaces 8 a [(effOff a o.toInt 8, 8)] [] (some ac.val) = .go) (unerring : Unerring s a) :
    s.scalarLoad g spaces d n o ac land = .next (land a (s.loadWord a.space.toNat a.index.toNat (effOff a o.toInt 8).toNat) s) := by
  subst named
  unfold State.scalarLoad
  refine (gatedSlot_go on ?_).trans ?_
  · rw [passes]
    exact spillVerdict_of_unerring unerring _
  · simp only [if_neg kept, spillCounts_of_unerring unerring]

theorem scalarStore_go {cells : List Host.Cell}
    (made : cells = s.cellsOf a.space.toNat a.index.toNat (effOff a o.toInt 8).toNat 8 (s.core.ctx.rs d).toNat)
    (passes : s.memCheck true spaces 8 a [(effOff a o.toInt 8, 8)] cells (some ac.val) = .go) :
    s.scalarStore g spaces d n o ac = .next (s.storeCells a.space.toNat a.index.toNat cells) := by
  subst named made
  unfold State.scalarStore
  exact gatedSlot_go on passes

end

theorem exec_lds (d : Fin 64) (n : Fin 16) (o : BitVec 12) (ac : Fin 8) :
    exec (.lds g d n o ac) s = s.scalarLoad g [0, 1] d n o ac fun _ v t => t.landS 5 d v 0 := rfl

/-- The result that an ldh through an address register starts: it carries the frame it comes from (R159). -/
def framedResult (s : State) (a : AddrReg) (d : Fin 64) (v : Word) : Landing :=
  { core := s.core.phys, ctx := s.core.ctx.id, res := .s d.val v, tag := 0, bay := s.core.ctx.bay.serial, seq := s.issueSeq,
    frame := some (handleFrame (s.core.ctx.handle a.index.toNat)) }

theorem exec_ldh (d : Fin 64) (n : Fin 16) (o : BitVec 12) (ac : Fin 8) :
    exec (.ldh g d n o ac) s = s.scalarLoad g [4] d n o ac fun a v t =>
      t.schedule (t.now + t.gddrLatency (handleFrame (t.core.ctx.handle a.index.toNat))) phReg (.registerResultLand (framedResult t a d v)) := rfl

end

theorem scalarLoads : Claim.ScalarLoads := by
  intro s g d n o ac on kept a ea
  refine ⟨fun passes other => ?scratchpad, fun passes spill clean => ?spill, fun passes other => ?gddr⟩
  case scratchpad => rw [exec_lds, scalarLoad_go on rfl kept passes (.inl other)]; rfl
  case spill =>
    have loads := (exec_lds d n o ac).trans (scalarLoad_go on rfl kept passes (.inr clean))
    rw [space_toNat_eq_one.mpr spill] at loads
    exact ⟨_, loads, rfl, State.landS_mem ..⟩
  case gddr =>
    have loads := (exec_ldh d n o ac).trans (scalarLoad_go on rfl kept passes (.inl other))
    exact ⟨_, framedResult s a d (s.loadWord a.space.toNat a.index.toNat ea.toNat), loads, rfl, rfl, rfl, rfl, rfl⟩

theorem scalarStores : Claim.ScalarStores := by
  intro s g d n o ac on a ea cells t
  exact ⟨fun passes => scalarStore_go on rfl rfl passes, fun passes => scalarStore_go on rfl rfl passes, fun b => rfl⟩

/-- Settles O17: a slot that passes its checks starts its result, or posts its cells. -/
theorem scalarMemory : Obligations.ScalarMemory := ⟨scalarLoads, scalarStores⟩

/-! ## Vector loads and stores (R156) -/

section
variable {s : State} {g : Gate} {m : Fin 8} {q L : Nat} {d : Fin 32} {n : Fin 16} {a : AddrReg} {o : BitVec 9} {ac : Fin 8}
  (runs : VectorRuns s g m 0)
include runs

/-- A vector slot of the memory class that makes checks of its own. -/
theorem vectorSlot_go {chk : State → Verdict} {eff : State → State} (passes : chk s = .go) :
    s.slot (s.core.ctx.active g m == 0) (laneNeed (s.core.ctx.rgm m)) chk eff = .next (eff s) := by
  obtain ⟨active, serves⟩ := runs
  simp only [BitVec.ofNat_eq_ofNat, BitVec.zero_or] at serves
  exact State.slot_go (beq_eq_false_iff_ne.mpr active) serves passes

theorem vectorLoad_go (named : s.core.ctx.ra n = a) (unerring : Unerring s a)
    (passes : s.memCheck false [0, 1] 64 a (groupPieces (s.core.ctx.rgm m) (effOff a o.toInt (64 * q : Nat)) (64 * q)) [] (some ac.val) = .go) :
    s.vectorLoad g m q L d n o ac = .next ((List.range q).foldl (fun t i => t.landV L (d.val + i) (s.core.ctx.active g m)
      (lanesOf fun l => s.loadLane a.space.toNat a.index.toNat (laneOff ((effOff a o.toInt (64 * q)).toNat + 64 * i) (64 * q) l)) 0) s) := by
  subst named
  unfold State.vectorLoad
  refine (vectorSlot_go runs ?_).trans ?_
  · rw [passes]
    exact spillVerdict_of_unerring unerring _
  · rw [spillCounts_of_unerring unerring]

theorem vectorStore_go (named : s.core.ctx.ra n = a) {cells : List Host.Cell}
    (made : cells = (List.range q).flatMap fun i => s.laneCells a.space.toNat a.index.toNat (s.core.ctx.active g m)
      (laneOff ((effOff a o.toInt (64 * q)).toNat + 64 * i) (64 * q)) (s.core.ctx.rv (d.val + i)))
    (passes : s.memCheck true [0, 1] 64 a (groupPieces (s.core.ctx.rgm m) (effOff a o.toInt (64 * q : Nat)) (64 * q)) cells (some ac.val) = .go) :
    s.vectorStore g m q d n o ac = .next (s.storeCells a.space.toNat a.index.toNat cells) := by
  subst named made
  unfold State.vectorStore
  exact vectorSlot_go runs passes

end

theorem vectorLoads : Claim.VectorLoads := by
  intro s g m d v n o ac runs x a am word
  refine ⟨fun other passes => ?ldv, fun other passes => ?ldvq, fun passes => ?ldx⟩
  case ldv => exact vectorLoad_go (q := 1) runs rfl (.inl other) passes
  case ldvq => exact vectorLoad_go (q := 4) runs rfl (.inl other) passes
  case ldx =>
    change execLdx g m d n v ac s = _
    unfold execLdx
    exact vectorSlot_go runs passes

theorem vectorStores : Claim.VectorStores := by
  intro s g m d v n o ac runs x a am cells xs wr
  refine ⟨fun passes => ?stv, fun passes => ?stvq, fun passes => ?stx, fun cs b => rfl⟩
  case stv => exact vectorStore_go (q := 1) runs rfl rfl passes
  case stvq => exact vectorStore_go (q := 4) runs rfl rfl passes
  case stx =>
    change execStx g m d n v ac s = _
    unfold execStx
    exact vectorSlot_go runs passes

/-- Settles O18: the slots of both widths share one load and one store, of q registers; ldx and stx give each lane its own address. -/
theorem vectorMemory : Obligations.VectorMemory := ⟨vectorLoads, vectorStores⟩

/-! ## Gated bytes at their commit (R148, R149, R246, R272, R281) -/

section
variable {s : State} {c : Commit}

/-- The bytes of a commit whose frames move at its event (R246). -/
def heldBytes (s : State) (c : Commit) : List Host.Cell := c.bytes.filter fun x => s.heldByMove [x.1]

/-- The others, which its event writes. -/
def dueBytes (s : State) (c : Commit) : List Host.Cell := c.bytes.filter fun x => !s.heldByMove [x.1]

/-- Whether one of them is a data race (R272, R281). -/
def races (s : State) (c : Commit) : Bool :=
  s.sourceRace 2 ((dueBytes s c).map fun x => (x.1, 1)) || (dueBytes s c).any fun x => s.chunkRace x.1 1 == .race

theorem storeCellsAt_mem (p k engine : Nat) (note : Nat → GateNote) (cs : List Host.Cell) (s : State) :
    (s.storeCellsAt p k engine note cs).mem = writeCells s.mem cs := by
  unfold State.storeCellsAt State.storeCellsBy
  dsimp only
  rw [foldl_mem _ _ _ fun t r => State.addRecord_mem r t, State.touch_mem]

/-- The state behind a commit's event: its due cells are written, and what is held comes again in the next cycle. -/
def committed (s : State) (c : Commit) : State :=
  let t := s.storeCellsAt c.core c.ctx 0 (noteIn c) (dueBytes s c)
  if (heldBytes s c).isEmpty then t else t.schedule (s.now + 1) phExternal (.gatedCommitPerform { c with bytes := heldBytes s c })

theorem exec_gatedCommitPerform : exec (.gatedCommitPerform c) s = if races s c then .fault .dataRace else .next (committed s c) := rfl

theorem committed_mem : (committed s c).mem = writeCells s.mem (dueBytes s c) := by
  unfold committed
  dsimp only
  split <;> simp [storeCellsAt_mem]

theorem coming_committed (some_held : heldBytes s c ≠ []) :
    Coming (committed s c) (s.now + 1) (.gatedCommitPerform { c with bytes := heldBytes s c }) := by
  unfold committed
  dsimp only
  rw [if_neg (by simpa using some_held)]
  exact ⟨_, State.mem_schedule .., rfl, rfl⟩

end

theorem gatedBytesPerform : Claim.GatedBytesPerform := by
  intro s c held due race
  refine ⟨fun safe => ⟨committed s c, exec_gatedCommitPerform.trans (if_neg (ne_true_of_eq_false safe)), ?other, ?written, coming_committed⟩,
    fun racing => exec_gatedCommitPerform.trans (if_pos racing)⟩
  case other =>
    intro a apart
    simp only [Claim.byteAt, committed_mem]
    exact readByte_writeCells_ne _ _ _ apart
  case written =>
    intro pre a v post split last
    simp only [Claim.byteAt, committed_mem]
    rw [show dueBytes s c = pre ++ (a, v) :: post from split]
    exact readByte_writeCells_last pre post _ a v last

/-! ## Spill memory, handles and the drain (R157, R161, R238, R258) -/

/-- A scalar result in flight changes the agenda alone. -/
theorem onlyAgenda_landS (s : State) (L : Nat) (d : Fin 64) (v : Word) (tag : Tag) : OnlyAgenda s (s.landS L d v tag) := by
  unfold State.landS
  split <;> rfl

section
variable {s : State} {g : Gate}

theorem exec_ldsp (on : s.core.ctx.gate0 g = true) (clean : s.core.ctx.spillErr = []) (d : Fin 64) (l : BitVec 11) :
    exec (.ldsp g d l) s = .next (s.landS 1 d (s.loadWord 1 0 (8 * l.toNat)) 0) := by
  have kept : (s.landS 1 d (s.loadWord 1 0 (8 * l.toNat)) 0).core.ctx.spillErr = [] := by rw [onlyAgenda_landS]; exact clean
  change execLdsp g d l s = _
  unfold execLdsp
  refine (gatedSlot_go on (spillCheck_of_clean clean _ _)).trans ?_
  rw [spillCount_of_clean kept]

theorem exec_ldvsp {m : Fin 8} (runs : VectorRuns s g m 0) (clean : s.core.ctx.spillErr = []) (v : Fin 32) (l : BitVec 11) :
    exec (.ldvsp g m v l) s = .next (s.landV 1 v.val (s.core.ctx.active g m)
      (lanesOf fun i => s.loadLane 1 0 (laneOff (8 * l.toNat) 64 i)) 0) := by
  change execLdvsp g m v l s = _
  unfold execLdvsp
  refine (vectorSlot_go runs (firstOf_go (List.forall_mem_map.mpr fun p _ => spillCheck_of_clean clean _ _))).trans ?_
  rw [foldl_spillCount_of_clean (s := s.landV ..) clean]

theorem exec_drain (on : s.core.ctx.gate0 g = true) :
    exec (.drain g) s = .next (if s.core.ctx.acks = [] then s else s.withhold { cause := 8, blocks := true }) := by
  change execDrain g s = _
  unfold execDrain
  rw [gatedSlot_settles on]
  simp only [List.isEmpty_iff]
  split <;> rfl

end

theorem spillHandlesDrain : Claim.SpillHandlesDrain := by
  intro s g m d v l h
  refine ⟨fun on => ⟨fun clean => ?ldsp, ?stsp, ?hinv, ?xlat, fun idle => ?drained, fun awaited => ?waits⟩, fun runs => ⟨fun clean => ?ldvsp, ?stvsp⟩⟩
  case ldsp =>
    refine ⟨_, exec_ldsp on clean d l, rfl, State.landS_mem .., ?_, ?_, ?_⟩ <;> rw [onlyAgenda_landS]
  case stsp => exact State.plain_go (by simp [on]) (State.capCheck_zero s)
  case hinv => exact State.plain_go (by simp [on]) (State.capCheck_zero s)
  case xlat => exact State.plain_go (by simp [on]) (State.capCheck_zero s)
  case drained => rw [exec_drain on, if_pos idle]
  case waits => rw [exec_drain on, if_neg awaited]
  case ldvsp => exact ⟨_, exec_ldvsp runs clean v l, rfl, rfl, rfl⟩
  case stvsp => exact vectorSlot_go (chk := fun _ => .go) runs rfl

/-- Settles O19: a commit's event writes its due cells in order, and the slots of spill memory, handles and the drain pass by their skeletons. -/
theorem gatedSpillHandles : Obligations.GatedSpillHandles := ⟨gatedBytesPerform, spillHandlesDrain⟩

end Sys2Proof.MemorySlots

/-! # Ownership slots (R170, R172 to R178) -/

namespace Sys2Proof.OwnershipSlots

open Sys2Proof Sys2Proof.Machine Sys2Proof.Claim Sys2Proof.MemorySlots

/-! ## Operand checks (R170) -/

section
variable {s : State} {t : Nat} {ok : TEntry → Bool}

/-- An entry that does not serve the issuing context fails every check as not held. -/
theorem entryCheck_of_foreign (foreign : s.serves (s.entry t) = false) :
    s.entryCheck t ok = .trap (s.trowelFault 0x0505 (s.entry t) 0) := by
  simp [State.entryCheck, foreign]

/-- An entry that serves it and is stale fails every check as stale. -/
theorem entryCheck_of_stale (mine : s.serves (s.entry t) = true) (stale : s.ownPart.staleEntry (s.entry t) = true) :
    s.entryCheck t ok = .trap (s.trowelFault 0x050C (s.entry t) 0) := by
  simp [State.entryCheck, mine, stale]

end

/-! ## tclean (R178) -/

section
variable {s : State} {g : Gate} {t : Fin 64} (on : s.core.ctx.gate0 g = true)
include on

theorem cleanSlot_held (held : s.entryCheck t.val heldTrowel = .go) (zero : Bool) :
    let e := s.entry t.val
    let c : TEntry := { e with taint := false }
    s.cleanSlot g t zero = .next (posted (posted (posted s (.board t.val c)) (.table (s.recChange e c))) (.publish (.clean c zero))) :=
  gatedSlot_go on held

theorem cleanSlot_traps {r : ErrRecord} (fails : s.entryCheck t.val heldTrowel = .trap r) (zero : Bool) :
    s.cleanSlot g t zero = .next (s.takeTrap r) := by
  unfold State.cleanSlot
  rw [gatedSlot_settles on, fails]
  rfl

end

/-! ## tlend and tret (R172 to R174) -/

section
variable {s : State} {g : Gate} {t a : Fin 64} (on : s.core.ctx.gate0 g = true)
include on

/-- A lend that passes its checks posts the lender's entry and the way that its target asks for; it is a commit point and flushes. -/
theorem exec_tlend (passes : s.lendCheck t.val (s.core.ctx.rs a) = .go) :
    let d := targetOf (s.core.ctx.rs a)
    let e := s.entry t.val
    exec (.tlend g t a) s = .next (posted (posted
      (if d.kind = 2 then posted (posted s (.leave t.val { e with state := 5 })) (.lendRemote t.val d.grant d.flag)
        else posted (posted s (.leave t.val { e with state := 2 })) (.lend
          { fromCore := s.core.phys, fromEntry := t.val, toCore := (s.targetCore d).getD 0, toCtx := d.ctx, toEntry := d.entry
            toEngine := d.kind == 1, trowel := e, flushed := false })) .commitPoint) .flush) := by
  change execTlend g t a s = _
  unfold execTlend
  exact gatedSlot_go on passes

/-- What a tret posts: an entry that is stale is only emptied, a swatch is given up, a trowel begins its way home. -/
theorem exec_tret (passes : s.retStale t.val = false →
      (s.entryCheck t.val fun e => e.kind == 2 || (e.kind == 1 && (e.state == 0 || e.state == 4))) = .go) :
    let e := s.entry t.val
    exec (.tret g t) s = .next (if s.retStale t.val = true then posted s (.board t.val TEntry.empty)
      else if e.kind = 2 then posted (posted s (.board t.val TEntry.empty)) (.publish (.unswatch e))
      else posted (posted s (.board t.val { e with state := 3 })) (.publish (.ret t.val))) := by
  change execTret g t s = _
  unfold execTret
  refine gatedSlot_go on ?_
  cases stale : s.retStale t.val with
  | true => rfl
  | false => exact passes stale

end

theorem lendReturnSlots : Claim.LendReturnSlots := by
  intro s g t a on w d e m
  refine ⟨fun passes near => ?near, fun passes remote => ?remote, fun stale => ?stale,
    fun current passes => ⟨fun swatch => ?swatch, fun trowel => ?trowel⟩⟩
  case near => rw [exec_tlend on passes, if_neg near]
  case remote => rw [exec_tlend on passes, if_pos remote]
  case stale => rw [exec_tret on (by simp [stale]), if_pos stale]
  case swatch => rw [exec_tret on fun _ => passes, if_neg (by simp [current]), if_pos swatch]
  case trowel => rw [exec_tret on fun _ => passes, if_neg (by simp [current]), if_neg trowel]

/-! ## tshare, tunshare and tprobe (R176, R177) -/

theorem shareSlots : Claim.ShareSlots := by
  intro s g t a d on w x e f p
  refine ⟨fun held countable near named free => ?tshare, fun held near named => ?tunshare, ?tprobe⟩
  case tshare =>
    change execTshare g t a s = _
    unfold execTshare
    have counts : ((s.entry t.val).swatch != 255) = true := bne_iff_ne.mpr countable
    exact gatedSlot_go on (by simp [held, counts, near, named, free, x, w])
  case tunshare =>
    change execTunshare g t a s = _
    unfold execTunshare
    exact gatedSlot_go on (by simp [held, near, named, x, w])
  case tprobe => exact State.plain_go (by simp [on]) (State.capCheck_zero s)

/-- Settles O30: each slot passes its checks and posts its effects in order. -/
theorem lendShareSlots : Obligations.LendShareSlots := ⟨lendReturnSlots, shareSlots⟩

/-! ## The faults of a wrong entry, tsplit and tjoin (R170, R175) -/

theorem entryFaults : Claim.EntryFaults := by
  intro s g t on
  exact ⟨fun foreign => cleanSlot_traps on (entryCheck_of_foreign foreign) false,
    fun mine stale => cleanSlot_traps on (entryCheck_of_stale mine stale) false⟩

theorem splitJoinSlots : Claim.SplitJoinCleanSlots := by
  intro s g t m a on held k e f
  refine ⟨fun apart unshared first rest free room => ?tsplit, fun apart other unshared otherUnshared next taint => ?tjoin,
    cleanSlot_held on held false, cleanSlot_held on held true⟩
  case tsplit =>
    change execTsplit g t m a s = _
    unfold execTsplit
    exact gatedSlot_go on (by simp [held, bne_iff_ne.mpr apart, unshared, first, rest, free, room, e, k])
  case tjoin =>
    change execTjoin g t m s = _
    unfold execTjoin
    rw [gatedSlot_go on (by simp [held, bne_iff_ne.mpr apart, other, unshared, otherUnshared, next, taint, e, f])]
    dsimp only [e, f]
    cases s.ownPart.recOf (s.entry m.val) <;> rfl

/-- Settles O31: a slot whose entries pass the checks of R170 posts both entries and the records; one whose entry fails them traps. -/
theorem splitJoinCleanSlots : Obligations.SplitJoinCleanSlots := ⟨entryFaults, splitJoinSlots⟩

end Sys2Proof.OwnershipSlots

/-! # Trowels and swatches on their way (R166, R172 to R174, R176, R178, R224, R246) -/

namespace Sys2Proof.Machine

/-! ## Lists and vectors -/

/-- Of the elements of a vector only the one named is changed. -/
theorem getElem?_vmod {α : Type} {n : Nat} (x : Vector α n) (i j : Nat) (f : α → α) :
    (vmod x i f)[j]? = if i = j then (x[j]?).map f else x[j]? := by
  unfold vmod
  split
  next inside =>
    by_cases same : i = j
    · subst same; simp [inside]
    · simp [same]
  next outside =>
    split
    next same => subst same; simp [outside]
    next => rfl

/-- The element found is the one that is replaced, and it is found again if it still satisfies p. -/
theorem find?_listMod {α : Type} {p : α → Bool} {f : α → α} {l : List α} {x : α} (found : l.find? p = some x) (keeps : p (f x) = true) :
    (listMod p f l).find? p = some (f x) := by
  induction l with
  | nil => simp at found
  | cons y l ih =>
    cases hit : p y with
    | true =>
      obtain rfl : y = x := by simpa [hit] using found
      simp [listMod, hit, keeps]
    | false =>
      simp only [List.find?_cons, hit] at found
      simp only [listMod, hit, Bool.false_eq_true, if_false, List.find?_cons, ih found]

/-! ## What the ownership operations leave as it was -/

@[simp] theorem State.modEntry_bad (p t : Nat) (f : TEntry → TEntry) (s : State) : (s.modEntry p t f).bad = s.bad := by simp [State.modEntry]
@[simp] theorem State.modEntry_hub (p t : Nat) (f : TEntry → TEntry) (s : State) : (s.modEntry p t f).hub = s.hub := by simp [State.modEntry]
@[simp] theorem State.modEntry_agenda (p t : Nat) (f : TEntry → TEntry) (s : State) : (s.modEntry p t f).agenda = s.agenda := by simp [State.modEntry]

@[simp] theorem State.mapEntries_bad (n : Nat) (q : TEntry → Bool) (f : TEntry → TEntry) (s : State) : (s.mapEntries n q f).bad = s.bad := rfl
@[simp] theorem State.mapEntries_hub (n : Nat) (q : TEntry → Bool) (f : TEntry → TEntry) (s : State) : (s.mapEntries n q f).hub = s.hub := rfl
@[simp] theorem State.mapEntries_agenda (n : Nat) (q : TEntry → Bool) (f : TEntry → TEntry) (s : State) : (s.mapEntries n q f).agenda = s.agenda := rfl

@[simp] theorem State.regen_bad (n : Nat) (e : TEntry) (old gen : Nat) (taint : Bool) (s : State) : (s.regen n e old gen taint).bad = s.bad := rfl
@[simp] theorem State.regen_hub (n : Nat) (e : TEntry) (old gen : Nat) (taint : Bool) (s : State) : (s.regen n e old gen taint).hub = s.hub := rfl
@[simp] theorem State.regen_agenda (n : Nat) (e : TEntry) (old gen : Nat) (taint : Bool) (s : State) : (s.regen n e old gen taint).agenda = s.agenda := rfl

@[simp] theorem State.updRec_bad (n : Nat) (e : TEntry) (f : TRec → TRec) (s : State) : (s.updRec n e f).bad = s.bad := rfl
@[simp] theorem State.updRec_agenda (n : Nat) (e : TEntry) (f : TRec → TRec) (s : State) : (s.updRec n e f).agenda = s.agenda := rfl

@[simp] theorem State.dropSwatch_bad (n : Nat) (e : TEntry) (s : State) : (s.dropSwatch n e).bad = s.bad := rfl

@[simp] theorem State.wakeHarvest_bad (n : Nat) (s : State) : (s.wakeHarvest n).bad = s.bad := by unfold State.wakeHarvest; split <;> rfl
@[simp] theorem State.coreAt_wakeHarvest (n : Nat) (s : State) (p : Nat) : (s.wakeHarvest n).coreAt p = s.coreAt p := by
  unfold State.wakeHarvest; split <;> rfl

/-- A page that may migrate only adds to the agenda, and draws. -/
theorem State.mayMigrate_same {α : Type} (q : State → α) (later : ∀ (t : State) (l : List Due) (d : Nat), q { t with agenda := l, draws := d } = q t)
    (n grant : Nat) (out : Bool) (space loc count : Nat) (s : State) : q (s.mayMigrate n grant out space loc count) = q s := by
  unfold State.mayMigrate
  split
  · rfl
  · split
    · rfl
    · refine foldl_same q _ (fun t f => ?_) _ _
      dsimp only
      split
      · exact later t _ _
      · exact later t t.agenda _

theorem State.coreAt_writeLent (p a : Nat) (bs : List Byte) (s : State) (q : Nat) : (s.writeLent p a bs).coreAt q = s.coreAt q := by
  unfold State.writeLent; dsimp only; split <;> rfl
@[simp] theorem State.writeLent_hub (p a : Nat) (bs : List Byte) (s : State) : (s.writeLent p a bs).hub = s.hub := by
  unfold State.writeLent; dsimp only; split <;> rfl

/-- The cores that contexts are saved from. -/
def State.savedCores (s : State) : List Nat := s.saved.map (·.core)

theorem State.savedCores_of_map {s t : State} {g : SavedCtx → SavedCtx} (changed : t.saved = s.saved.map g) (keeps : ∀ v, (g v).core = v.core) :
    t.savedCores = s.savedCores := by
  rw [State.savedCores, changed, List.map_map]
  exact List.map_congr_left fun v _ => keeps v

@[simp] theorem State.savedCores_modEntry (p t : Nat) (f : TEntry → TEntry) (s : State) : (s.modEntry p t f).savedCores = s.savedCores :=
  savedCores_of_map rfl fun v => by split <;> rfl

@[simp] theorem State.savedCores_mapEntries (n : Nat) (q : TEntry → Bool) (f : TEntry → TEntry) (s : State) :
    (s.mapEntries n q f).savedCores = s.savedCores :=
  savedCores_of_map rfl fun v => by split <;> rfl

/-- With no context saved from its core a flag word is written in memory. -/
theorem State.writeLent_mem {p : Nat} {s : State} (unsaved : p ∉ s.savedCores) (a : Nat) (bs : List Byte) :
    (s.writeLent p a bs).mem = writeRun s.mem a bs := by
  unfold State.writeLent
  dsimp only
  rw [if_neg]
  simp only [List.any_eq_true, Bool.and_eq_true, beq_iff_eq, not_exists, not_and]
  exact fun v saved core => absurd (List.mem_map.mpr ⟨v, saved, core⟩) unsaved

/-! ## Cores -/

theorem Core.partNo_lt (c : Core) : c.partNo < 16 := c.part.isLt

/-- What keeps the numbers of the cores changes each where it is. -/
theorem State.coreAt_mapCores {f : Core → Core} (keeps : ∀ c, (f c).phys = c.phys) (s : State) (p : Nat) :
    (s.mapCores f).coreAt p = f (s.coreAt p) := by
  have same : (fun c : Core => c.phys == p) ∘ f = fun c => c.phys == p := by funext c; simp [keeps]
  simp only [State.coreAt, State.mapCores, keeps, List.find?_map, same]
  split
  · rfl
  · cases s.others.find? fun c => c.phys == p <;> rfl

theorem State.coreAt_mapEntries (n : Nat) (q : TEntry → Bool) (f : TEntry → TEntry) (s : State) (p : Nat) :
    (s.mapEntries n q f).coreAt p = if (s.coreAt p).partNo = n then (s.coreAt p).mapEntries q f else s.coreAt p :=
  State.coreAt_mapCores (f := fun c => if c.partNo = n then c.mapEntries q f else c) (fun c => by split <;> rfl) s p

theorem State.coreAt_modEntry {s : State} {p : Nat} (here : (s.coreAt p).phys = p) (t : Nat) (f : TEntry → TEntry) :
    (s.modEntry p t f).coreAt p = { s.coreAt p with board := vmod (s.coreAt p).board t f } :=
  State.coreAt_updCore s p (fun c => { c with board := vmod c.board t f }) here fun _ h => h

theorem State.coreAt_modEntry_ne {s : State} {p q : Nat} (here : (s.coreAt q).phys = q) (other : q ≠ p) (t : Nat) (f : TEntry → TEntry) :
    (s.modEntry p t f).coreAt q = s.coreAt q :=
  State.coreAt_updCore_ne s p q (fun c => { c with board := vmod c.board t f }) other (fun _ h => h) here

end Sys2Proof.Machine

namespace Sys2Proof.OwnershipMoves

open Sys2Proof Sys2Proof.Machine Sys2Proof.Claim Sys2Proof.Commands

/-! ## An entry of a board after a change -/

section
variable {s : State} {p q t u n : Nat} {f : TEntry → TEntry} {hit : TEntry → Bool} {e : TEntry}

theorem board_getElem? (inside : t < 64) : (s.coreAt p).board[t]? = some (boardAt s p t) := by
  simp [boardAt, inside]

theorem phys_modEntry (here : (s.coreAt q).phys = q) : ((s.modEntry p t f).coreAt q).phys = q := by
  by_cases same : q = p
  · subst same; rw [State.coreAt_modEntry here, here]
  · rw [State.coreAt_modEntry_ne here same, here]

theorem boardAt_modEntry (here : (s.coreAt p).phys = p) (inside : t < 64) : boardAt (s.modEntry p t f) p t = f (boardAt s p t) := by
  rw [boardAt, State.coreAt_modEntry here, getElem?_vmod, if_pos rfl, board_getElem? inside]
  rfl

/-- Every other entry, of this core or of another, is as it was. -/
theorem boardAt_modEntry_ne (here : (s.coreAt q).phys = q) (apart : ¬(q = p ∧ u = t)) : boardAt (s.modEntry p t f) q u = boardAt s q u := by
  by_cases same : q = p
  · subst same
    rw [boardAt, State.coreAt_modEntry here, getElem?_vmod, if_neg fun e => apart ⟨rfl, e.symm⟩, boardAt]
  · rw [boardAt, State.coreAt_modEntry_ne here same, boardAt]

/-- A change of the entries of a partition reaches an entry that it names there, and no other. -/
theorem boardAt_mapEntries (inside : t < 64) :
    boardAt (s.mapEntries n hit f) p t = if (s.coreAt p).partNo = n ∧ hit (boardAt s p t) = true then f (boardAt s p t) else boardAt s p t := by
  rw [boardAt, State.coreAt_mapEntries]
  by_cases part : (s.coreAt p).partNo = n
  · simp only [part, if_true, true_and]
    have changed : ((s.coreAt p).mapEntries hit f).board[t]? = some (if hit (boardAt s p t) then f (boardAt s p t) else boardAt s p t) := by
      simp [Core.mapEntries, Core.mapCtx, Vector.getElem?_map, board_getElem? inside]
    rw [changed, Option.getD_some]
  · rw [if_neg part, if_neg fun h => part h.1, boardAt]

theorem boardAt_mapEntries_of_miss (inside : t < 64) (miss : hit (boardAt s p t) = false) :
    boardAt (s.mapEntries n hit f) p t = boardAt s p t := by
  rw [boardAt_mapEntries inside, if_neg (by simp [miss])]

/-- A change of holder changes swatch entries only. -/
theorem boardAt_regen {old gen : Nat} {taint : Bool} (inside : t < 64) (other : (boardAt s p t).kind ≠ 2) :
    boardAt (s.regen n e old gen taint) p t = boardAt s p t :=
  boardAt_mapEntries_of_miss inside (by simp [other])

/-- The end of a swatch changes trowel entries only. -/
theorem boardAt_dropSwatch (inside : t < 64) (other : (boardAt s p t).kind ≠ 1) : boardAt (s.dropSwatch n e) p t = boardAt s p t :=
  boardAt_mapEntries_of_miss (s := s.updRec n e fun r => { r with swatch := r.swatch - 1 }) inside
    (Bool.and_eq_false_imp.mpr fun trowel => absurd (beq_iff_eq.mp trowel) other)

/-! ## Records -/

theorem recAt_congr {v : State} (hub : v.hub = s.hub) : recAt v n e = recAt s n e := by simp only [recAt, State.partAt, hub]

/-- The record of a trowel, changed but for its region. -/
theorem recAt_updRec {g : TRec → TRec} {r : TRec} (part : n < 16) (found : recAt s n e = some r) (region : recHolds (g r) e = recHolds r e) :
    recAt (s.updRec n e g) n e = some (g r) := by
  have holds : recHolds r e = true := List.find?_some (p := fun r => recHolds r e) found
  rw [recAt, State.updRec, State.partAt_onPart part]
  exact find?_listMod found (region.trans holds)

/-! ## A change of holder: the record, then the swatch entries (R166) -/

theorem boardAt_handOver {g : TRec → TRec} {old gen : Nat} {taint : Bool} {x : TEntry} (inside : t < 64) (stands : boardAt s p t = x) (other : x.kind ≠ 2) :
    boardAt ((s.updRec n e g).regen n e old gen taint) p t = x := by
  subst stands
  exact boardAt_regen (s := s.updRec n e g) inside other

theorem recAt_handOver {g : TRec → TRec} {r : TRec} {old gen : Nat} {taint : Bool} (part : n < 16) (found : recAt s n e = some r)
    (region : recHolds (g r) e = recHolds r e) : recAt ((s.updRec n e g).regen n e old gen taint) n e = some (g r) :=
  (recAt_congr (State.regen_hub ..)).trans (recAt_updRec part found region)

/-! ## Where an entry is found (R166, R222, R224) -/

/-- An entry on the board is found there first. -/
theorem findEntry_of_board (inside : t < 64) (fits : hit (boardAt s p t) = true) : s.findEntry p t hit = some (boardAt s p t) := by
  simp [State.findEntry, board_getElem? inside, fits]

theorem findEntry_fits (found : s.findEntry p t hit = some e) : hit e = true := List.find?_some found

/-- With no context saved from its core an entry is found on the board only. -/
theorem findEntry_of_unsaved (unsaved : p ∉ s.savedCores) (inside : t < 64) (found : s.findEntry p t hit = some e) : e = boardAt s p t := by
  have nobody : s.saved.filter (fun v => v.core == p) = [] :=
    List.filter_eq_nil_iff.mpr fun v saved core => unsaved (List.mem_map.mpr ⟨v, saved, beq_iff_eq.mp core⟩)
  rw [State.findEntry, nobody, List.flatMap_nil, List.append_nil, board_getElem? inside] at found
  exact List.mem_singleton.mp (List.mem_of_find?_eq_some found)

end

/-! ## The arrival of a lent trowel (R172) -/

section
variable {s : State} {m : TrowelMove} {r : TRec}

/-- Until it leaves, a lent trowel asks every cycle whether the lender's writes have performed. -/
theorem exec_trowelArrive_unflushed (unflushed : m.flushed = false) : exec (.trowelArrive m) s = .next
    (if s.lenderBusy m.fromCore m.trowel then s.schedule (s.now + 1) phArrive (.trowelArrive m)
      else s.schedule (s.now + lendLatency m.fromCore m.toCore) phArrive (.trowelArrive { m with flushed := true })) := by
  change execTrowelArrive m s = _
  simp only [execTrowelArrive, unflushed, Bool.false_eq_true, if_false]
  split <;> rfl

/-- The lender's entry while its trowel is on its way, and the target's. -/
def isLent (m : TrowelMove) (e : TEntry) : Bool := e.kind == 1 && e.state == 2 && sameRegion e m.trowel
def isDue (m : TrowelMove) (e : TEntry) : Bool := e.kind == 1 && e.state == 1 && sameRegion e m.trowel

theorem isLent_iff {e : TEntry} : isLent m e = true ↔ e.kind = 1 ∧ e.state = 2 ∧ sameRegion e m.trowel = true := by simp [isLent, and_assoc]
theorem isDue_iff {e : TEntry} : isDue m e = true ↔ e.kind = 1 ∧ e.state = 1 ∧ sameRegion e m.trowel = true := by simp [isDue, and_assoc]

/-- The target's entry once it holds the trowel of record r. -/
def held (m : TrowelMove) (r : TRec) (e : TEntry) : TEntry :=
  { e with state := if m.toEngine then 4 else 0, ctx := e.ctx % 4, gen := (r.gen + 1) % 256, taint := r.taint, swatch := r.swatch }

/-- The lender's entry empties. -/
def departed (m : TrowelMove) (s : State) : State := s.modEntry m.fromCore m.fromEntry fun e => if isLent m e then TEntry.empty else e

/-- The target's entry holds the trowel. -/
def arrived (m : TrowelMove) (r : TRec) (s : State) : State :=
  (departed m s).modEntry m.toCore m.toEntry fun e => if isDue m e then held m r e else e

/-- The record of a trowel that its target holds. -/
def heldRecord (m : TrowelMove) (r : TRec) : TRec := { r with gen := (r.gen + 1) % 256, holder := .board m.toCore m.toEntry }

/-- A trowel whose record stands where it departed finds the entry that expects it. -/
theorem exec_trowelArrive_flushed (flushed : m.flushed = true) (found : recAt s (s.coreAt m.fromCore).partNo m.trowel = some r)
    (current : r.gen % 256 = m.trowel.gen % 256) (due : ((departed m s).findEntry m.toCore m.toEntry (isDue m)).isSome = true) :
    let n := (s.coreAt m.fromCore).partNo
    exec (.trowelArrive m) s = .next (((arrived m r s).updRec n m.trowel (heldRecord m)).regen n m.trowel r.gen (r.gen + 1) r.taint) := by
  have same : ((departed m s).partAt (s.coreAt m.fromCore).partNo).recOf m.trowel = some r := (recAt_congr (State.modEntry_hub ..)).trans found
  change execTrowelArrive m s = _
  simp only [execTrowelArrive, flushed, if_true]
  change Host.Outcome.next (match ((departed m s).partAt (s.coreAt m.fromCore).partNo).recOf m.trowel with | some r => _ | none => _) = _
  rw [same]
  exact congrArg _ (if_pos ⟨current, due⟩)

theorem trowelArrive_leads (lender : (s.coreAt m.fromCore).phys = m.fromCore) (target : (s.coreAt m.toCore).phys = m.toCore)
    (fromInside : m.fromEntry < 64) (toInside : m.toEntry < 64) (flushed : m.flushed = true)
    (lent : isLent m (boardAt s m.fromCore m.fromEntry) = true) (due : isDue m (boardAt s m.toCore m.toEntry) = true)
    (found : recAt s (s.coreAt m.fromCore).partNo m.trowel = some r) (current : r.gen % 256 = m.trowel.gen % 256) :
    Leads (.trowelArrive m) s fun t =>
      boardAt t m.fromCore m.fromEntry = TEntry.empty ∧ boardAt t m.toCore m.toEntry = held m r (boardAt s m.toCore m.toEntry) ∧
      recAt t (s.coreAt m.fromCore).partNo m.trowel = some (heldRecord m r) ∧ Quiet s t ∧ t.agenda = s.agenda := by
  obtain ⟨-, going, -⟩ := isLent_iff.mp lent
  obtain ⟨trowel, coming, -⟩ := isDue_iff.mp due
  have apart : ¬(m.toCore = m.fromCore ∧ m.toEntry = m.fromEntry) := fun ⟨core, entry⟩ => by
    rw [core, entry, going] at coming
    cases coming
  have emptied : boardAt (departed m s) m.fromCore m.fromEntry = TEntry.empty := (boardAt_modEntry lender fromInside).trans (if_pos lent)
  have stands : boardAt (departed m s) m.toCore m.toEntry = boardAt s m.toCore m.toEntry := boardAt_modEntry_ne target apart
  have gone : boardAt (arrived m r s) m.fromCore m.fromEntry = TEntry.empty :=
    (boardAt_modEntry_ne (phys_modEntry lender) fun ⟨core, entry⟩ => apart ⟨core.symm, entry.symm⟩).trans emptied
  have came : boardAt (arrived m r s) m.toCore m.toEntry = held m r (boardAt s m.toCore m.toEntry) := by
    have landing : ((departed m s).coreAt m.toCore).phys = m.toCore := phys_modEntry target
    rw [arrived, boardAt_modEntry landing toInside, stands, if_pos due]
  have same : recAt (arrived m r s) (s.coreAt m.fromCore).partNo m.trowel = some r := (recAt_congr (by simp [arrived, departed])).trans found
  refine ⟨_, exec_trowelArrive_flushed flushed found current ?_, boardAt_handOver fromInside gone (by decide), boardAt_handOver toInside came ?_,
    recAt_handOver (Core.partNo_lt _) same rfl, ?_, ?_⟩
  · rw [findEntry_of_board toInside (stands ▸ due), Option.isSome_some]
  · simp [held, trowel]
  · simp [Quiet, arrived, departed]
  · simp [arrived, departed]

/-- The lender's writes are awaited cycle by cycle, then the way takes its latency. -/
theorem trowelArrive_unflushed (unflushed : m.flushed = false) :
    (s.lenderBusy m.fromCore m.trowel = true → Leads (.trowelArrive m) s fun t => Coming t (s.now + 1) (.trowelArrive m) ∧ OnlyAgenda s t) ∧
    (s.lenderBusy m.fromCore m.trowel = false → Leads (.trowelArrive m) s fun t =>
      Coming t (s.now + lendLatency m.fromCore m.toCore) (.trowelArrive { m with flushed := true }) ∧ OnlyAgenda s t) := by
  refine ⟨fun busy => ?_, fun idle => ?_⟩
  · exact ⟨_, (exec_trowelArrive_unflushed unflushed).trans (by rw [if_pos busy]), coming_schedule .., rfl⟩
  · exact ⟨_, (exec_trowelArrive_unflushed unflushed).trans (by rw [if_neg (by simp [idle])]), coming_schedule .., rfl⟩

end

/-! ## The way home (R174) -/

section
variable {s : State} {p t key : Nat} {f : TEntry} {r : TRec}

/-- The record of a trowel at home, with no holder. -/
def homeRecord (r : TRec) : TRec := { r with gen := (r.gen + 1) % 256, holder := .home }

/-- The entry of a trowel on its way home empties. -/
def returned (p key : Nat) (s : State) : State := s.modEntry p (key % 64) fun e => if returning key e then TEntry.empty else e

theorem exec_trowelHome (found : s.findEntry p (key % 64) (returning key) = some f) (recorded : recAt s (s.coreAt p).partNo f = some r)
    (current : r.gen % 256 = f.gen % 256) :
    let n := (s.coreAt p).partNo
    exec (.trowelHome p key true) s =
      .next ((((returned p key s).updRec n f homeRecord).regen n f r.gen (r.gen + 1) r.taint).wakeHarvest n) := by
  have same : ((returned p key s).partAt (s.coreAt p).partNo).recOf f = some r := (recAt_congr (State.modEntry_hub ..)).trans recorded
  change Host.Outcome.next (s.reachHome p key) = _
  unfold State.reachHome
  rw [found]
  change Host.Outcome.next (match ((returned p key s).partAt (s.coreAt p).partNo).recOf f with | some r => _ | none => _) = _
  rw [same]
  exact congrArg _ (if_pos current)

theorem trowelHome_leads (here : (s.coreAt p).phys = p) (inside : t < 64) (place : key % 64 = t) (found : s.findEntry p t (returning key) = some f)
    (recorded : recAt s (s.coreAt p).partNo f = some r) (current : r.gen % 256 = f.gen % 256) :
    Leads (.trowelHome p key true) s fun u => (f = boardAt s p t → boardAt u p t = TEntry.empty) ∧
      recAt u (s.coreAt p).partNo f = some { r with gen := (r.gen + 1) % 256, holder := .home } ∧ Quiet s u := by
  subst place
  have same : recAt (returned p key s) (s.coreAt p).partNo f = some r := (recAt_congr (State.modEntry_hub ..)).trans recorded
  refine ⟨_, exec_trowelHome found recorded current, fun onBoard => ?_, ?_, ?_⟩
  · have emptied : boardAt (returned p key s) p (key % 64) = TEntry.empty :=
      (boardAt_modEntry here inside).trans (if_pos (onBoard ▸ findEntry_fits found))
    rw [boardAt, State.coreAt_wakeHarvest]
    exact boardAt_handOver inside emptied (by decide)
  · exact (recAt_congr (State.wakeHarvest_hub ..)).trans (recAt_handOver (g := homeRecord) (Core.partNo_lt _) same rfl)
  · simp [Quiet, returned]

end

/-! ## The acknowledgement of a remote lend (R173) -/

section
variable {s : State} {p t g : Nat} {f : TEntry} {r : TRec}

/-- An entry that waits for the acknowledgement of the chip under grant g. -/
def awaits (s : State) (n g : Nat) (e : TEntry) : Bool := e.kind == 1 && e.state == 5 && s.ackFits n g e

theorem awaits_iff {n : Nat} {e : TEntry} : awaits s n g e = true ↔ e.kind = 1 ∧ e.state = 5 ∧ s.ackFits n g e = true := by simp [awaits, and_assoc]

/-- The entry of an acknowledged lend empties. -/
def acknowledged (p t : Nat) (f : TEntry) (s : State) : State :=
  s.modEntry p t fun e => if e.kind == 1 && e.state == 5 && sameRegion e f then TEntry.empty else e

/-- The record and the swatch entries take the new generation, and mobile pages follow. -/
def passedOn (p t g : Nat) (f : TEntry) (s : State) : State :=
  let n := (s.coreAt p).partNo
  (((acknowledged p t f s).updRec n f fun r => { r with gen := (f.gen + 1) % 256 }).regen n f f.gen ((f.gen + 1) % 256) f.taint).mayMigrate n g true
    f.space f.loc f.count

/-- The flag word that an entry waits for: the lender's core keeps its place, or what is saved of it. -/
def lentFlag (s : State) (p t : Nat) (f : TEntry) : Nat :=
  match (s.saved.find? (SavedCtx.takes p f.ctx f.launch)).map (·.unit) with
  | some u => u.remoteFlag t
  | none => (s.coreAt p).remoteFlag t

theorem lentFlag_of_unsaved (unsaved : p ∉ s.savedCores) : lentFlag s p t f = (s.coreAt p).remoteFlag t := by
  have nobody : s.saved.find? (SavedCtx.takes p f.ctx f.launch) = none := List.find?_eq_none.mpr fun v saved takes => by
    simp only [SavedCtx.takes, Bool.and_eq_true, beq_iff_eq] at takes
    exact unsaved (List.mem_map.mpr ⟨v, saved, takes.1.1⟩)
  rw [lentFlag, nobody]
  rfl

theorem exec_remoteLendAck_none (nobody : s.findEntry p t (awaits s (s.coreAt p).partNo g) = none) : exec (.remoteLendAck p t g) s = .next s := by
  change (match s.findEntry p t (awaits s (s.coreAt p).partNo g) with | none => _ | some e => _) = _
  rw [nobody]

theorem exec_remoteLendAck_some (found : s.findEntry p t (awaits s (s.coreAt p).partNo g) = some f) : exec (.remoteLendAck p t g) s =
    if s.lenderBusy p f then .next s
    else .next ((passedOn p t g f s).writeLent p (unitBase p + 8 * lentFlag s p t f) (leBytes 8 ((f.gen + 1) % 256))) := by
  change (match s.findEntry p t (awaits s (s.coreAt p).partNo g) with | none => _ | some e => _) = _
  rw [found]
  rfl

theorem recAt_passedOn (recorded : recAt s (s.coreAt p).partNo f = some r) :
    recAt (passedOn p t g f s) (s.coreAt p).partNo f = some { r with gen := (f.gen + 1) % 256 } := by
  have same : recAt (acknowledged p t f s) (s.coreAt p).partNo f = some r := (recAt_congr (State.modEntry_hub ..)).trans recorded
  have next := recAt_handOver (g := fun r => { r with gen := (f.gen + 1) % 256 }) (old := f.gen) (gen := (f.gen + 1) % 256) (taint := f.taint)
    (Core.partNo_lt _) same rfl
  exact (recAt_congr (State.mayMigrate_same State.hub (fun _ _ _ => rfl) ..)).trans next

theorem boardAt_passedOn (here : (s.coreAt p).phys = p) (inside : t < 64) (onBoard : f = boardAt s p t) (fits : awaits s (s.coreAt p).partNo g f = true) :
    boardAt (passedOn p t g f s) p t = TEntry.empty := by
  obtain ⟨trowel, waiting, -⟩ := awaits_iff.mp fits
  have emptied : boardAt (acknowledged p t f s) p t = TEntry.empty :=
    (boardAt_modEntry here inside).trans (if_pos (by simp [← onBoard, trowel, waiting, sameRegion]))
  rw [passedOn, boardAt, State.mayMigrate_same (fun u => u.coreAt p) fun _ _ _ => rfl]
  exact boardAt_handOver inside emptied (by decide)

theorem savedCores_passedOn : (passedOn p t g f s).savedCores = s.savedCores := by
  rw [passedOn, State.mayMigrate_same State.savedCores fun _ _ _ => rfl]
  exact (State.savedCores_mapEntries ..).trans (State.savedCores_modEntry ..)

theorem passedOn_mem : (passedOn p t g f s).mem = s.mem := by simp [passedOn, acknowledged]
theorem passedOn_hostMem : (passedOn p t g f s).hostMem = s.hostMem := by simp [passedOn, acknowledged]

/-- The lender's entry passes on; its flag word, where no context of the core is saved, takes the new generation. -/
theorem remoteLendAck_leads (here : (s.coreAt p).phys = p) (inside : t < 64) (found : s.findEntry p t (awaits s (s.coreAt p).partNo g) = some f)
    (recorded : recAt s (s.coreAt p).partNo f = some r) (idle : s.lenderBusy p f = false) :
    let flag := unitBase p + 8 * (s.coreAt p).remoteFlag t
    Leads (.remoteLendAck p t g) s fun u => recAt u (s.coreAt p).partNo f = some { r with gen := (f.gen + 1) % 256 } ∧
      ((∀ v ∈ s.saved, v.core ≠ p) → boardAt u p t = TEntry.empty ∧ Writes s u flag 8 ∧ readLe u.mem flag 8 = (f.gen + 1) % 256) := by
  intro flag
  have acts := (exec_remoteLendAck_some found).trans (if_neg (by simp [idle]))
  refine ⟨_, acts, (recAt_congr (State.writeLent_hub ..)).trans (recAt_passedOn recorded), fun nobody => ?_⟩
  have unsaved : p ∉ s.savedCores := by simpa [State.savedCores] using nobody
  rw [lentFlag_of_unsaved unsaved]
  have len := length_leBytes 8 ((f.gen + 1) % 256)
  have written : ((passedOn p t g f s).writeLent p flag (leBytes 8 ((f.gen + 1) % 256))).mem = writeRun s.mem flag (leBytes 8 ((f.gen + 1) % 256)) := by
    rw [State.writeLent_mem (by rwa [savedCores_passedOn]), passedOn_mem]
  refine ⟨?empty, ⟨?host, fun b outside => ?other⟩, ?flag⟩
  case empty =>
    rw [boardAt, State.coreAt_writeLent]
    exact boardAt_passedOn here inside (findEntry_of_unsaved unsaved inside found) (findEntry_fits found)
  case host => exact (State.writeLent_hostMem ..).trans passedOn_hostMem
  case other =>
    have outside' : ¬(flag ≤ b ∧ b < flag + (leBytes 8 ((f.gen + 1) % 256)).length) := by rw [len]; omega
    rw [Claim.byteAt, written, readByte_writeRun, if_neg outside', Claim.byteAt]
  case flag =>
    have back := readRun_writeRun s.mem flag (leBytes 8 ((f.gen + 1) % 256))
    rw [len] at back
    rw [written, readLe, back, leVal_leBytes (by omega)]

end

/-! ## Swatches (R174, R176, R178) -/

section
variable {s : State} {w : SwatchMove} {p t : Nat} {r : TRec}

theorem exec_swatchArrive : exec (.swatchArrive w) s = .next (if w.trowel.kind = 2 then
      s.mapEntries w.part (fun f => f.kind == 2 && sameRegion w.trowel f && f.gen % 256 == w.trowel.gen % 256) fun f => { f with taint := false }
    else s.modEntry w.core w.entry fun f => if f.kind = 2 ∧ f.state = 1 ∧ sameRegion f w.trowel then { f with state := 0 } else f) := by
  change execSwatchArrive w s = _
  unfold execSwatchArrive
  split <;> rfl

theorem swatchArrive_arrives (here : (s.coreAt w.core).phys = w.core) (inside : w.entry < 64) (share : w.trowel.kind ≠ 2)
    (swatch : (boardAt s w.core w.entry).kind = 2) (incoming : (boardAt s w.core w.entry).state = 1)
    (region : sameRegion (boardAt s w.core w.entry) w.trowel = true) : Leads (.swatchArrive w) s fun u =>
      boardAt u w.core w.entry = { boardAt s w.core w.entry with state := 0 } ∧ Quiet s u ∧ u.hub = s.hub ∧ u.agenda = s.agenda := by
  refine ⟨_, exec_swatchArrive.trans (congrArg _ (if_neg share)), ?_, by simp [Quiet], by simp, by simp⟩
  exact (boardAt_modEntry here inside).trans (if_pos ⟨swatch, incoming, region⟩)

/-- The news of a tclean takes the taint off every swatch of the trowel. -/
theorem swatchArrive_cleans (inside : t < 64) (clean : w.trowel.kind = 2) (part : w.part = (s.coreAt p).partNo) (swatch : (boardAt s p t).kind = 2)
    (region : sameRegion w.trowel (boardAt s p t) = true) (current : (boardAt s p t).gen % 256 = w.trowel.gen % 256) :
    Leads (.swatchArrive w) s fun u =>
      boardAt u p t = { boardAt s p t with taint := false } ∧ Quiet s u ∧ u.hub = s.hub ∧ u.agenda = s.agenda := by
  refine ⟨_, exec_swatchArrive.trans (congrArg _ (if_pos clean)), ?_, by simp [Quiet], rfl, rfl⟩
  exact (boardAt_mapEntries inside).trans (if_pos ⟨part.symm, by simp [swatch, region, current]⟩)

theorem recAt_dropSwatch {n : Nat} {e : TEntry} (part : n < 16) (recorded : recAt s n e = some r) :
    recAt (s.dropSwatch n e) n e = some { r with swatch := r.swatch - 1 } :=
  (recAt_congr (State.mapEntries_hub ..)).trans (recAt_updRec (g := fun r => { r with swatch := r.swatch - 1 }) part recorded rfl)

theorem swatchReturn_leads (part : w.part < 16) (recorded : recAt s w.part w.trowel = some r) :
    Leads (.swatchReturn w) s fun u => recAt u w.part w.trowel = some { r with swatch := r.swatch - 1 } ∧ Quiet s u :=
  ⟨_, rfl, recAt_dropSwatch part recorded, by simp [Quiet]⟩

/-- A swatch entry of the trowel that is revoked. -/
def isRevoked (w : SwatchMove) (f : TEntry) : Bool := f.kind == 2 && sameRegion f w.trowel

theorem isRevoked_iff {f : TEntry} : isRevoked w f = true ↔ f.kind = 2 ∧ sameRegion f w.trowel = true := by simp [isRevoked]

/-- The grantee's entry empties. -/
def revoked (w : SwatchMove) (s : State) : State := s.modEntry w.core w.entry fun f => if isRevoked w f then TEntry.empty else f

theorem exec_swatchRevoke (found : (s.findEntry w.core w.entry (isRevoked w)).isSome = true) :
    exec (.swatchRevoke w) s = .next ((revoked w s).dropSwatch w.part w.trowel) := by
  change execSwatchRevoke w s = _
  unfold execSwatchRevoke
  exact if_pos found

theorem swatchRevoke_leads (here : (s.coreAt w.core).phys = w.core) (inside : w.entry < 64) (part : w.part < 16)
    (recorded : recAt s w.part w.trowel = some r) (ours : isRevoked w (boardAt s w.core w.entry) = true) : Leads (.swatchRevoke w) s fun u =>
      boardAt u w.core w.entry = TEntry.empty ∧ recAt u w.part w.trowel = some { r with swatch := r.swatch - 1 } ∧ Quiet s u := by
  have emptied : boardAt (revoked w s) w.core w.entry = TEntry.empty := (boardAt_modEntry here inside).trans (if_pos ours)
  have same : recAt (revoked w s) w.part w.trowel = some r := (recAt_congr (State.modEntry_hub ..)).trans recorded
  refine ⟨_, exec_swatchRevoke (by rw [findEntry_of_board inside ours]; rfl), ?_, recAt_dropSwatch part same, by simp [Quiet, revoked]⟩
  exact (boardAt_dropSwatch inside (by rw [emptied]; decide)).trans emptied

end

/-! ## tclean.zero (R178, R246) -/

section
variable {s : State} {p : Nat} {x : TEntry}

/-- A byte of the runs reads zero, and every other one as before. -/
theorem byteAt_zeroRuns (rs : List (Nat × Nat)) (s : State) (a : Nat) :
    Claim.byteAt (s.zeroRuns rs) a = if rs.any (fun r => decide (r.1 ≤ a) && decide (a < r.1 + r.2)) then 0 else Claim.byteAt s a := by
  have zeroed : (s.zeroRuns rs).mem = s.mem.filter fun c => !rs.any fun r => decide (r.1 ≤ c.1) && decide (c.1 < r.1 + r.2) :=
    (State.rekeyWhole_mem ..).trans (State.touch_mem ..)
  rw [Claim.byteAt, zeroed, readByte_filter fun a => !rs.any fun r => decide (r.1 ≤ a) && decide (a < r.1 + r.2)]
  cases rs.any fun r => decide (r.1 ≤ a) && decide (a < r.1 + r.2) <;> rfl

theorem exec_tcleanZeroDone : exec (.tcleanZeroDone p x) s =
    if s.heldByMove ((s.regionRuns (s.coreAt p) x).map (·.1)) then .next (s.schedule (s.now + 1) phLand (.tcleanZeroDone p x))
    else .next (s.zeroRuns (s.regionRuns (s.coreAt p) x)) := rfl

theorem tcleanZeroDone_zeroes (still : s.heldByMove ((s.regionRuns (s.coreAt p) x).map (·.1)) = false) :
    Leads (.tcleanZeroDone p x) s fun u => u.hostMem = s.hostMem ∧
      ∀ a, byteAt u a = if (s.regionRuns (s.coreAt p) x).any (fun r => decide (r.1 ≤ a) && decide (a < r.1 + r.2)) then 0 else byteAt s a :=
  ⟨_, exec_tcleanZeroDone.trans (if_neg (by simp [still])), State.zeroRuns_hostMem .., byteAt_zeroRuns _ s⟩

theorem tcleanZeroDone_waits (moves : s.heldByMove ((s.regionRuns (s.coreAt p) x).map (·.1)) = true) :
    Leads (.tcleanZeroDone p x) s fun u => OnlyAgenda s u ∧ Coming u (s.now + 1) (.tcleanZeroDone p x) :=
  ⟨_, exec_tcleanZeroDone.trans (if_pos moves), rfl, coming_schedule ..⟩

end

/-- Settles O41: each arrival changes the entries and the record that it names; later changes of the same event pass them by. -/
theorem ownershipEvents : Obligations.OwnershipEvents := by
  intro s m w x p t r here inside n e gen
  refine ⟨?arrives, trowelArrive_unflushed, ?home, ?acknowledged, ?swatches, tcleanZeroDone_zeroes, tcleanZeroDone_waits⟩
  case arrives =>
    intro lender target fromInside toInside flushed n was tgt kind state region toKind toState toRegion
    exact trowelArrive_leads lender target fromInside toInside flushed (isLent_iff.mpr ⟨kind, state, region⟩)
      (isDue_iff.mpr ⟨toKind, toState, toRegion⟩)
  case home => exact fun key f place => trowelHome_leads here inside place
  case acknowledged =>
    intro flag g lent
    refine ⟨exec_remoteLendAck_none, fun f found recorded => ⟨fun busy => ?busy, remoteLendAck_leads here inside found recorded⟩⟩
    case busy => exact (exec_remoteLendAck_some found).trans (if_pos busy)
  case swatches =>
    intro holder entry f
    refine ⟨swatchArrive_arrives holder entry, swatchArrive_cleans inside, fun part recorded =>
      ⟨swatchReturn_leads part recorded, fun swatch region => ?revoked⟩⟩
    case revoked => exact swatchRevoke_leads holder entry part recorded (isRevoked_iff.mpr ⟨swatch, region⟩)

end Sys2Proof.OwnershipMoves

/-! # Weight and scale buffers, the matrix array and its landings (R185, R189 to R201, R204, R224) -/

namespace Sys2Proof.Machine

/-! ## Lanes -/

theorem lane_lanesOf (f : Nat → W32) {l : Nat} (inside : l < 128) : lane (lanesOf f) l = f l := by simp [lane, lanesOf, inside]

theorem lane_zero (l : Nat) : lane Lanes.zero l = 0 := by
  simp only [lane, Lanes.zero, Vector.getElem?_replicate]
  split <;> rfl

theorem lane_mergeLanes (m : LaneMask) (x y : Lanes) {l : Nat} (inside : l < 128) :
    lane (mergeLanes m x y) l = if m.getLsbD l then lane x l else lane y l := lane_lanesOf _ inside

/-! ## Landings in a context (R92) -/

@[simp] theorem Ctx.putLanding_id (x : Ctx) (l : Landing) : (x.putLanding l).id = x.id := by
  unfold Ctx.putLanding; dsimp only; split <;> rfl

/-! ## Accumulator rows (R198, R204) -/

@[simp] theorem Core.updCtx_acc (c : Core) (k : Nat) (f : Ctx → Ctx) : (c.updCtx k f).acc = c.acc := by unfold Core.updCtx; split <;> rfl

@[simp] theorem Core.setAcc_phys (b r : Nat) (x : Lanes) (fmt : Option Nat) (c : Core) : (c.setAcc b r x fmt).phys = c.phys := by
  unfold Core.setAcc; dsimp only; split <;> rfl

theorem Core.accEntry_row (c : Core) (b r : Nat) : (c.accEntry b r).1 = c.accRow b r := by
  unfold Core.accEntry Core.accRow
  cases c.acc.find? fun x => x.bank == b && x.row == r <;> rfl

/-- What is stored of a row is its value; a row of +0 that no landing wrote is unlisted and reads +0. -/
theorem Core.accRow_setAcc (b r : Nat) (x : Lanes) (fmt : Option Nat) (c : Core) : (c.setAcc b r x fmt).accRow b r = x := by
  unfold Core.setAcc
  dsimp only
  split
  next zero =>
    have unlisted : (c.acc.filter fun y => !(y.bank == b && y.row == r)).find? (fun y => y.bank == b && y.row == r) = none := by
      rw [List.find?_eq_none]
      intro y listed
      rw [Bool.not_eq_true, ← Bool.not_eq_true']
      exact (List.mem_filter.mp listed).2
    rw [Core.accRow, unlisted, zero.1]
    rfl
  next => simp [Core.accRow]

theorem Core.accRow_setAcc_ne {b r bank n : Nat} (other : (bank, n) ≠ (b, r)) (x : Lanes) (fmt : Option Nat) (c : Core) :
    (c.setAcc b r x fmt).accRow bank n = c.accRow bank n := by
  have apart (y : AccRow) : (y.bank == bank && y.row == n) = true → (y.bank == b && y.row == r) = false := by
    simp only [Bool.and_eq_true, beq_iff_eq, Bool.and_eq_false_imp, beq_eq_false_iff_ne]
    rintro ⟨rfl, rfl⟩ rfl rfl
    exact other rfl
  have kept : (c.acc.filter fun y => !(y.bank == b && y.row == r)).find? (fun y => y.bank == bank && y.row == n) =
      c.acc.find? fun y => y.bank == bank && y.row == n := by
    rw [List.find?_filter]
    congr 1
    funext y
    cases hit : y.bank == bank && y.row == n with
    | true => simp [apart y hit]
    | false => simp
  unfold Core.setAcc
  dsimp only
  split
  · simp only [Core.accRow, kept]
  · have first : (b == bank && r == n) = false := by
      rw [Bool.eq_false_iff]
      exact fun hit => by simpa using apart { bank := b, row := r, val := x, fmt := fmt } hit
    simp only [Core.accRow, List.find?_cons, first, kept]

@[simp] theorem Core.writeRow_phys (k bay b r : Nat) (f : Lanes → Lanes) (fmt : Option Nat) (c : Core) :
    (c.writeRow k bay b r f fmt).phys = c.phys := by
  simp [Core.writeRow]

@[simp] theorem Core.accRow_updCtx (c : Core) (k : Nat) (f : Ctx → Ctx) (b r : Nat) : (c.updCtx k f).accRow b r = c.accRow b r := by
  simp [Core.accRow]

theorem Core.accRow_writeRow (k bay b r : Nat) (f : Lanes → Lanes) (fmt : Option Nat) (c : Core) :
    (c.writeRow k bay b r f fmt).accRow b r = f (c.accRow b r) := by
  rw [Core.writeRow, Core.accRow_setAcc, Core.accEntry_row]

theorem Core.accRow_writeRow_ne {b r bank n : Nat} (other : (bank, n) ≠ (b, r)) (k bay : Nat) (f : Lanes → Lanes) (fmt : Option Nat) (c : Core) :
    (c.writeRow k bay b r f fmt).accRow bank n = c.accRow bank n := by
  rw [Core.writeRow, Core.accRow_setAcc_ne other, Core.accRow_updCtx]

/-! ## The start of an engine and of the array (R51, R192, R195) -/

/-- What an engine's start adds to the effects of the group: in a timetable context the comparison of its deviation count. -/
def Ctx.startPosts (x : Ctx) : List Post := if x.cfg.free then [] else [.late x.cfg.dv]

theorem State.engineStart_eq (s : State) : s.engineStart = s.onCtx fun x => { x with post := x.post ++ x.startPosts } := by
  cases free : s.core.ctx.cfg.free <;> simp [State.engineStart, State.post, State.onCtx, Ctx.startPosts, free]

/-- Changes of the scale buffer change its two parts alone. -/
theorem Core.foldl_scaleOp (ops : List ScaleOp) (c : Core) : ∃ a b, ops.foldl Core.scaleOp c = { c with scaleA := a, scaleB := b } := by
  induction ops generalizing c with
  | nil => exact ⟨_, _, rfl⟩
  | cons o ops ih =>
    have one : ∃ a b, c.scaleOp o = { c with scaleA := a, scaleB := b } := by
      unfold Core.scaleOp
      split <;> exact ⟨_, _, rfl⟩
    obtain ⟨a, b, first⟩ := one
    obtain ⟨a', b', rest⟩ := ih (c.scaleOp o)
    exact ⟨a', b', by rw [List.foldl_cons, rest, first]⟩

theorem Core.settleScale_eq (now : Nat) (c : Core) :
    ∃ a b q, c.settleScale now = { c with scaleA := a, scaleB := b, scaleQ := q } := by
  obtain ⟨a, b, settled⟩ := Core.foldl_scaleOp (c.scaleQ.filter fun o => decide (o.due ≤ now)) c
  exact ⟨a, b, _, by rw [Core.settleScale, settled]⟩

/-- The array's start enters the retirement of its tile, is busy for sixteen cycles and posts the pop; the scale buffer takes in what is due. -/
theorem State.startArray_eq (qa : Nat) (s : State) : ∃ a b q, s.startArray qa =
    { s with
      agenda := insertDue ⟨s.now + 16, phLand, s.issueSeq, .mmaTileRetire s.core.phys qa (s.ring qa).head.toNat⟩ s.agenda
      core := { s.core with
        scaleA := a, scaleB := b, scaleQ := q, arrayUntil := s.now + 16
        ctx := { s.core.ctx with post := s.core.ctx.post ++ [.pop qa 1 (s.now + 16)] ++ s.core.ctx.startPosts } } } := by
  obtain ⟨a, b, q, settled⟩ := s.core.settleScale_eq s.now
  refine ⟨a, b, q, ?_⟩
  unfold State.startArray
  dsimp only
  rw [State.engineStart_eq]
  simp only [State.onCore, settled]
  rfl

/-! ## Folds that enter events -/

/-- An event that one step of a fold enters, and that no step takes back, stands in the agenda behind the fold. -/
theorem coming_foldl {β : Type} {step : State → β → State} {l : List β} {b : β} {cyc : Nat} {ev : Instr} (listed : b ∈ l)
    (enters : ∀ t, Claim.Coming (step t b) cyc ev) (keeps : ∀ t x, Claim.Coming t cyc ev → Claim.Coming (step t x) cyc ev) (s : State) :
    Claim.Coming (l.foldl step s) cyc ev := by
  obtain ⟨before, after, rfl⟩ := List.append_of_mem listed
  rw [List.foldl_append, List.foldl_cons]
  exact foldl_keeps (Claim.Coming · cyc ev) step keeps after _ (enters _)

theorem coming_of_schedule {s : State} {cyc c p : Nat} {ev e : Instr} (h : Claim.Coming s cyc ev) : Claim.Coming (s.schedule c p e) cyc ev := by
  obtain ⟨d, listed, due⟩ := h
  exact ⟨d, State.schedule_keeps listed, due⟩

theorem onlyAgenda_schedule {s t : State} {c p : Nat} {e : Instr} (h : Claim.OnlyAgenda s t) : Claim.OnlyAgenda s (t.schedule c p e) := by
  unfold Claim.OnlyAgenda at h ⊢
  rw [h]
  rfl

end Sys2Proof.Machine

namespace Sys2Proof.MatrixArray

open Sys2Proof Sys2Proof.Machine Sys2Proof.Claim Sys2Proof.Commands Sys2Proof.MemorySlots

/-! ## Weight buffers and the scale buffer (R189, R190, R194, R195) -/

section
variable {s : State} {g : Gate} (on : s.core.ctx.gate0 g = true)

/-- A slice on its way to the shadow buffer, as a bld of ring q starts it. -/
def sliceLoad (s : State) (q : Fin 16) (l : Fin 8) : BldLand :=
  { core := s.core.phys, ctx := s.core.ctx.id, ring := q, idx := (s.ring q).head.toNat, slice := l.val, bytes := s.tileBytes q
    bay := s.core.ctx.bay.serial }

/-- The state behind a bld that has passed its checks. -/
def sliceLoading (s : State) (q : Fin 16) (l : Fin 8) : State :=
  (((s.onCore fun c => { c.shadowRoles c.ctx.id with roles := c.roles.tagAs q }).schedule (s.now + 20) phLand
    (.bldLand (sliceLoad s q l))).post (.pop q 1 (s.now + 20))).engineStart

/-- The condition in which a bswap waits (R190, log 59). -/
def swapWaits (s : State) : Bool := s.core.roles.pending || s.agenda.any fun d => isBld s.core.phys d.ev

include on

theorem exec_bld (q : Fin 16) (l : Fin 8) (passes : s.bldCheck q = .go) : exec (.bld g q l) s = .next (sliceLoading s q l) :=
  gatedSlot_go on passes

theorem exec_bswap : exec (.bswap g) s =
    .next (if swapWaits s then s.withhold { cause := 1, blocks := false } else (posted s .swap).engineStart) := by
  change execBswap g s = _
  unfold execBswap
  refine (gatedSlot_settles on _ _).trans ?_
  change Verdict.settle (if swapWaits s then _ else _) _ s = _
  split <;> rfl

theorem scaleLoad_go {n : Fin 16} {o : BitVec 9} {len : Nat} (part : Nat)
    (passes : s.memCheck false [0] 64 (s.core.ctx.ra n) [(effOff (s.core.ctx.ra n) o.toInt 64, len)] [] none = .go) :
    s.scaleLoad g n o part len = .next (s.scaleLater part (s.loadBytes 0 0 (effOff (s.core.ctx.ra n) o.toInt 64).toNat len)) := by
  unfold State.scaleLoad
  exact gatedSlot_go on passes

end

theorem weightSlots : Claim.WeightSlots := by
  intro s g q l on
  refine ⟨fun passes => ?bld, fun still landed => ?bswap, fun pending => ?waits⟩
  case bld =>
    refine ⟨_, exec_bld on q l passes, ?mem, ?roles, ?agenda, ?pop⟩
    all_goals rw [sliceLoading, State.engineStart_eq]
    case pop => exact List.mem_append_left _ (List.mem_append_right _ (List.mem_singleton.mpr rfl))
    all_goals rfl
  case bswap =>
    have free : swapWaits s = false := by simpa [swapWaits, still] using landed
    rw [exec_bswap on, free]
    rfl
  case waits =>
    have waits : swapWaits s = true := by simp [swapWaits, pending]
    rw [exec_bswap on, waits]
    rfl

theorem scaleSlots : Claim.ScaleSlots := by
  intro s g n o on
  exact ⟨fun passes => scaleLoad_go on 0 passes, fun passes => scaleLoad_go on 1 passes,
    State.plain_go (by simp [on]) (State.capCheck_zero s)⟩

/-- Settles O23: a load or a swap that passes its checks takes its effect, and a swap behind a pending one waits. -/
theorem weightScaleSlots : Obligations.WeightScaleSlots := ⟨weightSlots, scaleSlots⟩

/-! ## mma and mmaz (R191 to R193) -/

section
variable {s : State} {g : Gate} {qa qb : Fin 16} {f : MFmt} {zp : Bool} {gs : GroupSize}

/-- The state in which the array runs a product for rows of a bank: their journal entries are taken and an armed injection has counted it. -/
def arrayRuns (s : State) (qa : Fin 16) (b : Fin 32) (rows : List Nat) : State :=
  (s.startArray qa.val).onCtx fun x => { x.reserveRows b.val rows with cfg := x.cfg.countMma }

/-- Row r of a product on its way, as an injection may have marked it. -/
def productRow (s : State) (qa : Fin 16) (b : Fin 32) (q : Fin 4) (f : MFmt) (ck zp : Bool) (gs : GroupSize) (acc : Bool) (r : Nat) : RowLand :=
  let p := s.product qa.val f zp gs
  s.rowLand b.val (16 * q.val + r) acc f (if ck then p.rowCk r else p.row r)
    (s.core.ctx.cfg.injects.bind fun i => if i.1 = r then some i.2 else none)

/-- The sixteen rows of a product enter the agenda. -/
def rowsComing (s : State) (qa : Fin 16) (b : Fin 32) (q : Fin 4) (f : MFmt) (ck zp : Bool) (gs : GroupSize) (acc : Bool) : State :=
  (List.range 16).foldl (fun t r => t.schedule (s.now + 600 + r) phLand (.mmaRowLand (productRow s qa b q f ck zp gs acc r)))
    (arrayRuns s qa b (mmaRows q.val ck))

/-- The extra row of a product on its way. -/
def extraRowLand (s : State) (qa : Fin 16) (b : Fin 32) (q : Fin 4) (f : MFmt) (zp : Bool) (gs : GroupSize) (acc : Bool) : RowLand :=
  s.rowLand b.val (extraRowNo q.val) acc f (s.product qa.val f zp gs).extraRow none

/-- The state behind an mma or mmaz that has passed its checks. -/
def multiplied (s : State) (qa : Fin 16) (b : Fin 32) (q : Fin 4) (f : MFmt) (ck zp : Bool) (gs : GroupSize) (acc : Bool) : State :=
  let t := rowsComing s qa b q f ck zp gs acc
  if ck then t.schedule (s.now + 616) phLand (.mmaExtraRowLand (extraRowLand s qa b q f zp gs acc)) else t

theorem exec_mma_or_mmaz {b : Fin 32} {q : Fin 4} {ck : Bool} (acc : Bool) (on : s.core.ctx.gate0 g = true)
    (serves : s.capCheck (mmaNeed f ck false) = .go) (opened : s.accCheck 1 b.val true (mmaRows q.val ck) = .go)
    (ready : s.mmaCheck qa.val qb.val = .go) :
    exec (if acc then .mma g qa qb b q f ck zp gs else .mmaz g qa qb b q f ck zp gs) s = .next (multiplied s qa b q f ck zp gs acc) := by
  have goes : s.multiply g qa qb b q f ck zp gs acc = .next (multiplied s qa b q f ck zp gs acc) :=
    State.slot_go (by simp [on]) serves (by rw [opened, Verdict.go_andThen, ready])
  cases acc <;> exact goes

/-- No landing of a product performs at its issue: behind the array's start only the agenda changes. -/
theorem multiplied_onlyAgenda (b : Fin 32) (q : Fin 4) (ck acc : Bool) :
    OnlyAgenda (arrayRuns s qa b (mmaRows q.val ck)) (multiplied s qa b q f ck zp gs acc) := by
  have rows : OnlyAgenda (arrayRuns s qa b (mmaRows q.val ck)) (rowsComing s qa b q f ck zp gs acc) :=
    foldl_keeps (OnlyAgenda _) _ (fun _ _ => onlyAgenda_schedule) _ _ rfl
  unfold multiplied
  dsimp only
  split
  · exact onlyAgenda_schedule rows
  · exact rows

theorem coming_row (b : Fin 32) (q : Fin 4) (ck acc : Bool) (r : Fin 16) :
    Coming (multiplied s qa b q f ck zp gs acc) (s.now + 600 + r.val) (.mmaRowLand (productRow s qa b q f ck zp gs acc r.val)) := by
  have rows : Coming (rowsComing s qa b q f ck zp gs acc) (s.now + 600 + r.val) (.mmaRowLand (productRow s qa b q f ck zp gs acc r.val)) :=
    coming_foldl (List.mem_range.mpr r.isLt) (fun _ => coming_schedule ..) (fun _ _ => coming_of_schedule) _
  unfold multiplied
  dsimp only
  split
  · exact coming_of_schedule rows
  · exact rows

theorem coming_extraRow (b : Fin 32) (q : Fin 4) (acc : Bool) :
    Coming (multiplied s qa b q f true zp gs acc) (s.now + 616) (.mmaExtraRowLand (extraRowLand s qa b q f zp gs acc)) := by
  unfold multiplied
  exact coming_schedule ..

end

theorem matrixMultiply : Claim.MatrixMultiply := by
  intro s g qa qb b q f ck zp acc gs on serves opened ready
  have only := multiplied_onlyAgenda (s := s) (qa := qa) (f := f) (zp := zp) (gs := gs) b q ck acc
  obtain ⟨a, c, queue, started⟩ := s.startArray_eq qa.val
  rw [arrayRuns, started] at only
  refine ⟨_, exec_mma_or_mmaz acc on serves opened ready, ?mem, ?hub, ?others, ?acc, ?busy, ?regs, ?pop, fun r => ?row, fun checked => ?extra⟩
  case row =>
    obtain ⟨d, listed, cyc, ev⟩ := coming_row (s := s) (qa := qa) (f := f) (zp := zp) (gs := gs) b q ck acc r
    exact ⟨d, listed, _, cyc, ev, rfl, rfl, rfl, rfl, rfl⟩
  case extra =>
    subst checked
    obtain ⟨d, listed, cyc, ev⟩ := coming_extraRow (s := s) (qa := qa) (f := f) (zp := zp) (gs := gs) b q acc
    exact ⟨d, listed, _, cyc, ev, rfl, rfl⟩
  all_goals rw [only]
  case pop => exact List.mem_append_left _ (List.mem_append_right _ (List.mem_singleton.mpr rfl))
  all_goals rfl

/-! ## Drain to lanes (R192) -/

section
variable {s : State} {g : Gate} {qa qb : Fin 16} {f : MFmt} {zp : Bool} {gs : GroupSize}

/-- Element n of row r of a product, of value v, on its way to register d + r. -/
def drainElem (s : State) (d : Fin 32) (f : MFmt) (r n : Nat) (v : W32) : DrainLand :=
  { core := s.core.phys, ctx := s.core.ctx.id, lane := n, row := r, reg := physOf s.core.ctx.regs.rrb (d.val + r), val := v, fmt := f.code
    seq := s.issueSeq, bay := s.core.ctx.bay.serial }

/-- The elements of row r of a product enter the agenda of t. -/
def drainRow (s : State) (qa : Fin 16) (d : Fin 32) (f : MFmt) (zp : Bool) (gs : GroupSize) (t : State) (r : Nat) : State :=
  ((s.product qa.val f zp gs).row r).zipIdx.foldl
    (fun t v => t.schedule (s.now + 472 + r + v.2) phReg (.mmaDrainLand (drainElem s d f r v.2 v.1))) t

/-- The state behind a drain to lanes that has passed its checks. -/
def drained (s : State) (qa : Fin 16) (d : Fin 32) (f : MFmt) (zp : Bool) (gs : GroupSize) : State :=
  (List.range 16).foldl (drainRow s qa d f zp gs) (s.startArray qa.val)

theorem exec_drainToLanes {d : Fin 32} {i : Instr} (either : i = .mmaDl g qa qb d f zp gs ∨ i = .mmazDl g qa qb d f zp gs)
    (on : s.core.ctx.gate0 g = true) (serves : s.capCheck (mmaNeed f false true) = .go) (ready : s.mmaCheck qa.val qb.val = .go) :
    exec i s = .next (drained s qa d f zp gs) := by
  have goes : s.multiplyDl g qa qb d f zp gs = .next (drained s qa d f zp gs) := State.slot_go (by simp [on]) serves ready
  rcases either with rfl | rfl <;> exact goes

theorem drained_onlyAgenda (d : Fin 32) : OnlyAgenda (s.startArray qa.val) (drained s qa d f zp gs) :=
  foldl_keeps (OnlyAgenda _) _ (fun _ _ row => foldl_keeps (OnlyAgenda _) _ (fun _ _ => onlyAgenda_schedule) _ _ row) _ _ rfl

theorem coming_of_drainRow (d : Fin 32) {t : State} {cyc : Nat} {ev : Instr} (r : Nat) (there : Coming t cyc ev) :
    Coming (drainRow s qa d f zp gs t r) cyc ev := by
  unfold drainRow
  exact foldl_keeps (Coming · cyc ev) _ (fun _ _ => coming_of_schedule) _ _ there

theorem coming_drainRow (d : Fin 32) (t : State) {r n : Nat} {v : W32} (total : ((s.product qa.val f zp gs).row r)[n]? = some v) :
    Coming (drainRow s qa d f zp gs t r) (s.now + 472 + r + n) (.mmaDrainLand (drainElem s d f r n v)) := by
  have listed : (v, n) ∈ ((s.product qa.val f zp gs).row r).zipIdx := List.mem_zipIdx_iff_getElem?.mpr total
  unfold drainRow
  exact coming_foldl listed (fun _ => coming_schedule ..) (fun _ _ => coming_of_schedule) t

theorem coming_drainElem (d : Fin 32) (r : Fin 16) {n : Nat} {v : W32} (total : ((s.product qa.val f zp gs).row r.val)[n]? = some v) :
    Coming (drained s qa d f zp gs) (s.now + 472 + r.val + n) (.mmaDrainLand (drainElem s d f r.val n v)) := by
  unfold drained
  exact coming_foldl (List.mem_range.mpr r.isLt) (fun t => coming_drainRow d t total) (fun _ r => coming_of_drainRow d r) _

end

theorem matrixDrain : Claim.MatrixDrain := by
  intro s g qa qb d f zp gs i either on serves ready
  have only := drained_onlyAgenda (s := s) (qa := qa) (f := f) (zp := zp) (gs := gs) d
  obtain ⟨a, c, queue, started⟩ := s.startArray_eq qa.val
  rw [started] at only
  refine ⟨_, exec_drainToLanes either on serves ready, ?mem, ?acc, ?busy, fun r n v total => ?element⟩
  case element =>
    obtain ⟨e, listed, cyc, ev⟩ := coming_drainElem d r total
    exact ⟨e, listed, _, cyc, ev, rfl, rfl, rfl⟩
  all_goals rw [only]

/-- Settles O24: behind the array's start a product only enters its landings into the agenda. -/
theorem matrixSlots : Obligations.MatrixSlots := ⟨matrixMultiply, matrixDrain⟩

/-! ## Landings (R189, R190, R192, R193, R201, R204, R224) -/

section
variable {s : State}

/-- A change of one core leaves memory, host memory and the check words. -/
theorem quiet_updCore (s : State) (p : Nat) (f : Core → Core) : Quiet s (s.updCore p f) := by simp [Quiet]

/-- The values v in the lanes of a row, the other rows of the core and the memories as they were. -/
def RowBecomes (s t : State) (p b r : Nat) (v : Nat → W32) : Prop :=
  (∀ l, l < 128 → lane ((t.coreAt p).accRow b r) l = v l) ∧
  (∀ bank n, (bank, n) ≠ (b, r) → (t.coreAt p).accRow bank n = (s.coreAt p).accRow bank n) ∧ Quiet s t

theorem rowBecomes_writeRow {p b r : Nat} {f : Lanes → Lanes} {v : Nat → W32} (here : (s.coreAt p).phys = p) (k bay : Nat) (fmt : Option Nat)
    (values : ∀ l, l < 128 → lane (f ((s.coreAt p).accRow b r)) l = v l) :
    RowBecomes s (s.updCore p (Core.writeRow k bay b r f fmt)) p b r v := by
  have after := State.coreAt_updCore s p (Core.writeRow k bay b r f fmt) here (by simp)
  refine ⟨fun l inside => ?_, fun bank n other => ?_, quiet_updCore ..⟩
  · rw [after, Core.accRow_writeRow, values l inside]
  · rw [after, Core.accRow_writeRow_ne other]

theorem lane_landRow {r : RowLand} (unflipped : r.flip = none) (x : Lanes) {l : Nat} (inside : l < 128) :
    lane (landRow r x) l =
      if r.acc then BitVec.ofNat 32 (add32 (lane x l).toNat ((r.t[l]?).getD 0).toNat) else (r.t[l]?).getD 0 := by
  rw [landRow, lane_lanesOf _ inside, unflipped]

/-- R192, R193: a row of the product is added to the row before it, or replaces it. -/
theorem rowPerform_becomes {r : RowLand} (here : (s.coreAt r.core).phys = r.core) (unflipped : r.flip = none) :
    RowBecomes s (s.rowPerform r) r.core r.bank r.row fun l =>
      if r.acc then BitVec.ofNat 32 (add32 (lane ((s.coreAt r.core).accRow r.bank r.row) l).toNat ((r.t[l]?).getD 0).toNat)
      else (r.t[l]?).getD 0 :=
  rowBecomes_writeRow here _ _ _ fun _ inside => lane_landRow unflipped _ inside

theorem exec_mmaDrainLand (d : DrainLand) (l : Landing) (lands : landingOf (.mmaDrainLand d) = some l) :
    exec (.mmaDrainLand d) s = .next (s.landDrain d l) := by
  change execMmaDrainLand d s = _
  unfold execMmaDrainLand
  rw [lands]

/-- R90, R192: what becomes of the context of an element that lands: its lane, or in a stop cycle its drain stage. -/
theorem ctxAt_landDrain {d : DrainLand} {l : Landing} (core : l.core = d.core) (ctx : l.ctx = d.ctx) (present : Present s d.core d.ctx) :
    (s.landDrain d l).ctxAt d.core d.ctx =
      if (s.coreAt d.core).stopsNow s.now d.ctx then
        { s.ctxAt d.core d.ctx with drain := (s.ctxAt d.core d.ctx).drain ++ [{ elem := d, k := 1 }] }
      else (s.ctxAt d.core d.ctx).putLanding l := by
  obtain ⟨here, known⟩ := present
  unfold State.landDrain
  rw [core, ctx]
  refine State.ctxAt_updCtx s _ _ _ here known fun x own => ?_
  split
  · exact own
  · rw [Ctx.putLanding_id, own]

/-- The landing of an element leaves the memories and the agenda, whatever it makes of its context. -/
theorem mmaDrainLand_leads {d : DrainLand} {l : Landing} {x : Ctx} (lands : landingOf (.mmaDrainLand d) = some l)
    (after : (s.landDrain d l).ctxAt d.core d.ctx = x) :
    Leads (.mmaDrainLand d) s fun t => t.ctxAt d.core d.ctx = x ∧ Quiet s t ∧ t.agenda = s.agenda :=
  ⟨_, exec_mmaDrainLand d l lands, after, by simp [Quiet, State.landDrain], by simp [State.landDrain]⟩

/-- The core in which a slice has landed. -/
def sliceLanded (b : BldLand) (c : Core) : Core :=
  let put := fun (w : WBuf) => w.setIfInBounds b.slice b.bytes
  let c := if c.roles.live then { c with wbuf0 := put c.wbuf0 } else { c with wbuf1 := put c.wbuf1 }
  ({ c with roles := c.roles.load b.slice } : Core).mapCtx fun x =>
    if x.id = b.ctx ∧ x.bay.serial = b.bay then x
    else { x with shadow := { x.shadow with roles := x.shadow.roles.map (WeightRoles.load b.slice) } }

theorem sliceLanded_phys (b : BldLand) (c : Core) : (sliceLanded b c).phys = c.phys := by
  cases live : c.roles.live <;> simp [sliceLanded, live]

theorem sliceLanded_roles (b : BldLand) (c : Core) : (sliceLanded b c).roles = c.roles.load b.slice := by
  cases live : c.roles.live <;> simp [sliceLanded, live, Core.mapCtx]

theorem sliceLanded_bytes {b : BldLand} (inside : b.slice < 8) (c : Core) :
    (if c.roles.live then (sliceLanded b c).wbuf0[b.slice]? else (sliceLanded b c).wbuf1[b.slice]?) = some b.bytes := by
  cases live : c.roles.live <;> simp [sliceLanded, live, Core.mapCtx, inside]

theorem bldLand_leads {b : BldLand} (here : (s.coreAt b.core).phys = b.core) (inside : b.slice < 8) : Leads (.bldLand b) s fun t => Quiet s t ∧
    (if (s.coreAt b.core).roles.live then (t.coreAt b.core).wbuf0[b.slice]? else (t.coreAt b.core).wbuf1[b.slice]?) = some b.bytes ∧
    (t.coreAt b.core).roles = (s.coreAt b.core).roles.load b.slice := by
  have after := State.coreAt_updCore s b.core (sliceLanded b) here fun c own => (sliceLanded_phys b c).trans own
  refine ⟨s.updCore b.core (sliceLanded b), rfl, quiet_updCore .., ?_, ?_⟩
  · rw [after, sliceLanded_bytes inside]
  · rw [after, sliceLanded_roles]

theorem mmaTileRetire_leads {p : Nat} (q i : Nat) (here : (s.coreAt p).phys = p) : Leads (.mmaTileRetire p q i) s fun t =>
    (t.coreAt p).arrayUntil = min (s.coreAt p).arrayUntil s.now ∧ Quiet s t := by
  refine ⟨_, rfl, ?_, quiet_updCore ..⟩
  rw [State.coreAt_updCore s p (fun c => { c with arrayUntil := min c.arrayUntil s.now }) here fun _ own => own]

/-- The core behind a swap that performs, or that a rollback has taken back (R190). -/
def swapped (now : Nat) (c : Core) : Core :=
  if c.roles.pending && decide (c.arrayUntil ≤ now) then { c with roles := c.roles.exchange } else c

theorem swapPerform_leads {p : Nat} (here : (s.coreAt p).phys = p) (pending : (s.coreAt p).roles.pending = true)
    (free : (s.coreAt p).arrayUntil ≤ s.now) : Leads (.swapPerform p) s fun t =>
      (t.coreAt p).roles = (s.coreAt p).roles.exchange ∧ Quiet s t := by
  refine ⟨s.updCore p (swapped s.now), rfl, ?_, quiet_updCore ..⟩
  rw [State.coreAt_updCore s p (swapped s.now) here fun c own => ?_]
  · simp [swapped, pending, free]
  · unfold swapped
    split <;> exact own

/-! ### Port operations (R201, R204) -/

section
variable {o : PortOp}

/-- A port write performs in its lanes. -/
theorem portWrite_leads {v : Nat → W32} (here : (s.coreAt o.core).phys = o.core) (writes : ∀ d, o.kind ≠ .rd d)
    (values : ∀ l, l < 128 → lane (portRow o.kind o.mask ((s.coreAt o.core).accRow o.bank o.row)) l = v l) :
    Leads (.accPortPerform o) s fun t => RowBecomes s t o.core o.bank o.row v := by
  refine ⟨_, ?_, rowBecomes_writeRow here o.ctx o.bay none values⟩
  change execAccPortPerform o s = _
  unfold execAccPortPerform
  split
  next d read => exact absurd read (writes d)
  next => rfl

/-- The sampled row as a result of the context that reads it (R204, R311). -/
def sampleResult (s : State) (o : PortOp) (dst : Nat) : Landing :=
  let e := (s.coreAt o.core).accEntry o.bank o.row
  { core := o.core, ctx := o.ctx, res := .v dst o.mask e.1
    tag := match e.2 with
      | some f => mkTag 5 0 f 0
      | none => mkTag 4 o.unit 0 0
    bay := o.bay, seq := o.seq, frame := none }

/-- The sample of a context that has not reached a stop goes to its register in the next cycle, later by what a stop has put it off. -/
theorem landSample_of_runs {dst : Nat} (runs : (s.ctxAt o.core o.ctx).stopped = false) :
    s.landSample o dst = s.scheduleAs (s.now + 1 + o.late) phReg o.seq (.registerResultLand (sampleResult s o dst)) := by
  unfold State.landSample
  dsimp only
  split
  next stopping => simp [Ctx.stopped, stopping] at runs
  next stopped => simp [Ctx.stopped, stopped] at runs
  next debug => simp [Ctx.stopped, debug] at runs
  next => rfl

theorem exec_accPortPerform_read {v : Nat} (read : o.kind = .rd v) : exec (.accPortPerform o) s = .next (s.landSample o v) := by
  change execAccPortPerform o s = _
  unfold execAccPortPerform
  rw [read]

theorem portRead_leads {v : Nat} (read : o.kind = .rd v) (runs : (s.ctxAt o.core o.ctx).stopped = false) :
    Leads (.accPortPerform o) s fun t => Quiet s t ∧
      ∃ e ∈ t.agenda, ∃ l, e.cyc = s.now + 1 + o.late ∧ e.ev = .registerResultLand l ∧
        l.res = .v v o.mask ((s.coreAt o.core).accRow o.bank o.row) ∧ l.core = o.core ∧ l.ctx = o.ctx := by
  refine ⟨_, exec_accPortPerform_read read, ?_⟩
  rw [landSample_of_runs runs]
  refine ⟨⟨rfl, rfl, rfl⟩, _, State.mem_scheduleAs .., sampleResult s o v, rfl, rfl, ?_, rfl, rfl⟩
  rw [← Core.accEntry_row]
  rfl

end

end

/-- Settles O38: each landing is the change of one row, of one buffer or of one context, found again in its own core. -/
theorem arrayLandings : Obligations.ArrayLandings := by
  intro s r d b o p q i
  refine ⟨mmaTileRetire_leads q i, fun here unflipped => ?rows, fun present => ?drain, bldLand_leads, swapPerform_leads, fun here => ?port⟩
  case rows => exact ⟨⟨_, rfl, rowPerform_becomes here unflipped⟩, ⟨_, rfl, rowPerform_becomes here unflipped⟩⟩
  case drain =>
    refine ⟨fun goes => mmaDrainLand_leads rfl ?_, fun stops => mmaDrainLand_leads rfl ?_⟩ <;> rw [ctxAt_landDrain rfl rfl present]
    · rw [if_neg (by simp [goes])]
    · rw [if_pos stops]
  case port =>
    refine ⟨fun x kind => ?wr, fun x kind => ?add, fun kind => ?clr, fun v => portRead_leads⟩
    case wr =>
      refine portWrite_leads here (by simp [kind]) fun l inside => ?_
      rw [kind, portRow, lane_mergeLanes _ _ _ inside]
    case add =>
      refine portWrite_leads here (by simp [kind]) fun l inside => ?_
      rw [kind, portRow, lane_mergeLanes _ _ _ inside, addLanes, lane_lanesOf _ inside]
    case clr =>
      refine portWrite_leads here (by simp [kind]) fun l inside => ?_
      rw [kind, portRow, lane_mergeLanes _ _ _ inside, lane_zero]

end Sys2Proof.MatrixArray

/-! # The accumulator port and the banks (R197 to R203) -/

namespace Sys2Proof.AccumulatorSlots

open Sys2Proof Sys2Proof.Machine Sys2Proof.Claim Sys2Proof.MemorySlots

/-! ## Port slots (R200 to R203) -/

section
variable {s : State} {g : Gate} {m : Fin 8} {b : Fin 32} {row : Fin 64}

/-- The operation that a port slot of the context in front sends to its bank. -/
def portOp (s : State) (g : Gate) (m : Fin 8) (b : Fin 32) (row : Fin 64) (kind : PortKind) : PortOp :=
  { core := s.core.phys, ctx := s.core.ctx.id, kind := kind, bank := b.val, row := row.val, mask := s.core.ctx.active g m
    unit := s.core.ctx.unit, seq := s.issueSeq, bay := s.core.ctx.bay.serial, late := 0 }

/-- The state behind a port slot that has passed its checks: the operation comes at the port cycle, and a write has taken its
journal entry (R204). -/
def portIssued (s : State) (o : PortOp) (writes : Bool) : State :=
  { s with
    agenda := insertDue ⟨s.now + 2, phLand, s.issueSeq, .accPortPerform o⟩ s.agenda
    core := { s.core with ctx := if writes then s.core.ctx.reserveRows o.bank [o.row] else s.core.ctx } }

theorem portSlot_go (runs : VectorRuns s g m 0) (landed : s.underWay (landsInto s.core.phys b.val (· == row.val)) = false)
    (kind : PortKind) (writes : Bool) (passes : s.accCheck 0 b.val writes [row.val] = .go) :
    s.portSlot g m b row kind writes = .next (portIssued s (portOp s g m b row kind) writes) := by
  unfold State.portSlot
  refine (vectorSlot_go runs ?checks).trans ?effect
  case checks => simp [passes, landed]
  case effect => cases writes <;> rfl

/-- R201. What a port slot leaves at issue. -/
theorem portSlot_leads (runs : VectorRuns s g m 0) (landed : s.underWay (landsInto s.core.phys b.val (· == row.val)) = false)
    (kind : PortKind) (writes : Bool) (passes : s.accCheck 0 b.val writes [row.val] = .go) :
    ∃ t, s.portSlot g m b row kind writes = .next t ∧
      t.agenda = insertDue ⟨s.now + 2, phLand, s.issueSeq, .accPortPerform (portOp s g m b row kind)⟩ s.agenda ∧
      t.mem = s.mem ∧ t.core.acc = s.core.acc ∧ t.core.ctx.regs = s.core.ctx.regs ∧ t.hub = s.hub := by
  refine ⟨_, portSlot_go runs landed kind writes passes, rfl, rfl, rfl, ?regs, rfl⟩
  case regs => cases writes <;> rfl

end

theorem portSlots : Claim.PortSlots := by
  intro s g m d b row runs landed am op wr
  exact ⟨portSlot_leads runs landed _ false, portSlot_leads runs landed _ true, portSlot_leads runs landed _ true,
    portSlot_leads runs landed _ true⟩

/-! ## Allocating and freeing banks (R197 to R199) -/

section
variable {s : State} {g : Gate} {b : Fin 32} (on : s.core.ctx.gate0 g = true)
include on

/-- R198. ALLOC and FREEING, the low two bits of the state word, decide over an allocation. -/
theorem allocBank_settles (lo hi : Nat) : s.allocBank g b lo hi =
    .next (if (s.core.bankWord b.val).toNat % 4 = 0 then posted s (.bank b.val (bankWordOf s.core.ctx.id lo hi) true)
      else s.takeTrap (s.accFault 0x0403 0 b.val 0)) := by
  unfold State.allocBank
  rw [gatedSlot_settles on, Verdict.require]
  simp only [beq_iff_eq]
  split <;> rfl

theorem allocBank_unheld (unheld : (s.core.bankWord b.val).toNat % 4 = 0) (lo hi : Nat) :
    s.allocBank g b lo hi = .next (posted s (.bank b.val (bankWordOf s.core.ctx.id lo hi) true)) := by
  rw [allocBank_settles on, if_pos unheld]

theorem allocBank_held (held : (s.core.bankWord b.val).toNat % 4 ≠ 0) (lo hi : Nat) :
    s.allocBank g b lo hi = .next (s.takeTrap (s.accFault 0x0403 0 b.val 0)) := by
  rw [allocBank_settles on, if_neg held]

/-- R199. The allocator frees an open bank that no landing and no port write is still to reach. -/
theorem exec_bkfree_go (opened : bankOpen (s.core.bankWord b.val) = true)
    (allocator : (s.core.bankWord b.val).toNat / 4 % 4 = s.core.ctx.id)
    (idle : s.underWay (fun i => landsInto s.core.phys b.val (fun _ => true) i || portInto s.core.phys b.val i) = false) :
    exec (.bkfree g b) s =
      .next (posted (posted s (.bank b.val (s.core.bankWord b.val ||| 2) false)) (.publish (.bankFree b.val))) := by
  change execBkfree g b s = _
  unfold execBkfree
  exact gatedSlot_go on (by simp [opened, allocator, idle])

/-- R199. A bank that is unallocated or freeing cannot be freed. -/
theorem exec_bkfree_closed (closed : bankOpen (s.core.bankWord b.val) = false) :
    exec (.bkfree g b) s = .next (s.takeTrap (s.accFault 0x0401 0 b.val 0)) := by
  change execBkfree g b s = _
  unfold execBkfree
  rw [gatedSlot_settles on]
  simp only [closed]
  rfl

end

theorem bankSlots : Claim.BankSlots := by
  intro s g b lo hi on k w
  exact ⟨fun unheld => ⟨allocBank_unheld on unheld _ _, allocBank_unheld on unheld _ _⟩, fun held => allocBank_held on held _ _,
    exec_bkfree_go on, exec_bkfree_closed on⟩

/-- Settles O25: a port slot sends its operation to the bank for the port cycle, and a bank slot posts its word or traps by the word as it stands. -/
theorem portBankSlots : Obligations.PortBankSlots := ⟨portSlots, bankSlots⟩

end Sys2Proof.AccumulatorSlots
